-- ==== Sys2Proof/Word.lean ====
section
/-! DEFINITION. The machine's word types (R1, R2, R217). -/

namespace Sys2Proof

/-- A scalar register, an address, a control register value (R217). -/
abbrev Word := BitVec 64

/-- The smallest addressable unit (R1). -/
abbrev Byte := BitVec 8

/-- One instruction word (R212). -/
abbrev IWord := BitVec 32

/-- A mask register: 65,536 bits (R263). -/
abbrev Mask := BitVec 65536

/-- The bit string of one vector register: 64 lanes of 512 bits (R11, R263). -/
abbrev VBits := BitVec 32768

/-- One accumulator row: 128 words of 32 bits (R217). -/
abbrev AccRow := BitVec 4096

end Sys2Proof
end

