-- ==== Sys2Proof/Config.lean ====
section
/-! DEFINITION. What the manual leaves open: the free values of the machine, and the constants that
one implementation fixes. An opaque constant has no value that a proof can use (assumption log 3). -/

namespace Sys2Proof.Config

/-- The bits of a vector register at and above its progress index, for the register's tag: undefined
(R47, R54, R268, R284). -/
opaque freeVec : Nat → VBits

/-- A word row of an accumulator that nothing has written since hart start, for the hart's tag and
the row's number 64 × acc + row: undefined (R54). -/
opaque freeAcc : Nat → Nat → AccRow

/-- A scratchpad byte that nothing has written since hart start, for the hart's tag and the offset:
undefined (R78). -/
opaque freeScr : Nat → Nat → Byte

/-- A byte whose value the manual calls undefined, for a counter value and an address: overlapping
copies (R347), reads under another granule (R101), destinations of failed collectives (R350). -/
opaque freeByte : Nat → Nat → Byte

/-- The device's choice of an order of combination, for a counter value and a position (R284, R306,
R350). -/
opaque freeOrder : Nat → Nat → Nat

/-- Whether the link to the host has the CXL 3.1 type 2 option (R442). -/
opaque cxl : Bool

/-- Whether another device's partition table places an offset in the partition of a number, for the
device, the partition and the offset (R445): the table is that device's own. -/
opaque remoteBacked : Nat → Nat → Nat → Bool

/-- The entries of an advice port's request queue (R193): fixed by the implementation. -/
opaque hintQueue : Nat

/-- Whether the request queue of an advice port is full, for a hart's identity, its count of hints that met a port, and
the port (1 pins, 2 pre-stages): the occupancy is a matter of timing (R193). -/
opaque portFull : Nat → Nat → Nat → Bool

/-- The digest of the boot ROM (R458): fixed by the implementation. -/
opaque romDigest : BitVec 256

/-- The digest of the firmware in slot A, or in slot B where the argument is true (R457, R458). -/
opaque firmwareDigest : Bool → BitVec 256

/-- The identity key's signature of a quote (R458): the key is held by the Ovwell controller only. -/
opaque signature : List Byte → Nat → List Byte

/-- The bytes of a management table that a quote digests (R458), for its numbers in order: the manual gives no
layout. -/
opaque tableBytes : List Nat → List Byte

/-- The sequence number in a flit's header (R443): the manual gives no layout of the header. -/
opaque flitSeq : List Byte → Nat

/-- The sequence number that a flit's header acknowledges (R443). -/
opaque flitAck : List Byte → Nat

/-- The neighbour or switch that a port of the link reaches (R444): fixed by the installation. -/
opaque neighbour : Nat → Nat

/-- What a byte of physical memory that nothing has written reads as: bring-up clears every HBM byte
(R457). -/
def unlisted : Byte := 0

end Sys2Proof.Config
end

