-- ==== Sys2Proof/Syntax.lean ====
section
/-! DEFINITION. The syntax of every step of the device: one constructor of `Instr` for each row of
the opcode table (words of 10_encoding_formats.md and 09_advice_half.md, and the steps that have no
word), with the operand types they carry. -/

namespace Sys2Proof

/-- An x, f or v register number (R216). -/
abbrev Reg := BitVec 5
/-- A mask register number; 0 is k0 (R216). -/
abbrev KReg := BitVec 3
/-- A sequence handle register number (R216). -/
abbrev SqReg := BitVec 3
/-- An accumulator number (R216). -/
abbrev AccReg := BitVec 3
/-- An advice register number (R203). -/
abbrev GReg := BitVec 3
/-- The allocation hint of a VM word (R83). -/
abbrev Hint := BitVec 2

/-- Scopes (R106). -/
inductive Scope where
  | hart | core | die | device | domain
deriving DecidableEq, Repr

/-- The scope's code (R106). -/
def Scope.code : Scope → Nat
  | .hart => 0 | .core => 1 | .die => 2 | .device => 3 | .domain => 4

/-- Whether a scope is die or wider (R111). -/
def Scope.wide : Scope → Bool
  | .hart => false | .core => false | .die => true | .device => true | .domain => true

/-- Access paths (R106). -/
inductive Path where
  | scl | vec | mtx | cpy | lnk | seq
deriving DecidableEq, Repr

/-- The path's code (R106). -/
def Path.code : Path → Nat
  | .scl => 0 | .vec => 1 | .mtx => 2 | .cpy => 3 | .lnk => 4 | .seq => 5

/-- The order field of a fence (R247). -/
inductive FenceOrder where
  | acq | rel | ar | full
deriving DecidableEq, Repr

/-- The order's code (R247). -/
def FenceOrder.code : FenceOrder → Nat
  | .acq => 0 | .rel => 1 | .ar => 2 | .full => 3

/-- The second source of a V word with its form (R214). -/
inductive VSrc where
  | vv (b : Reg) | vx (b : Reg) | vi (c : BitVec 5) | vf (b : Reg)
deriving DecidableEq, Repr

/-- The row operand of an MX word (R214). -/
inductive Row where
  | const (r : BitVec 6) | reg (r : Reg)
deriving DecidableEq, Repr

/-- Why a hart is saved (R380). -/
inductive SaveReason where
  | preempt | reclaim | join | yield | migrate
deriving DecidableEq, Repr

/-- A clock domain of a hamlet (R453, R454). -/
inductive ClockDomain where
  | scalar | lane | vmu
deriving DecidableEq, Repr

/-- Why a clock changed (R454). -/
inductive ClockReason where
  | power | thermal | current | owner
deriving DecidableEq, Repr

/-- What a remote request without a path was (R446). -/
inductive RemoteKind where
  | read | write | coll
deriving DecidableEq, Repr

/-- Which storage an uncorrectable error strikes (R431): L2, or the core array of a core: its L1, or the
scratchpad region of a hart. -/
inductive StorageLevel where
  | l2 | coreArray (core : Nat) | scratchpad (uid : Nat)
deriving DecidableEq, Repr

/-- A partition (R447). -/
structure Partition where
  hamlets : BitVec 32
  ways    : BitVec 16
  ranges  : List (Nat × Nat)
deriving DecidableEq, Repr

/-- The two memory spaces of a function (R439). -/
inductive HostSpace where
  | m | d
deriving DecidableEq, Repr

/-- A base and a size: a host aperture (R441). -/
structure MemRange where
  base : Nat
  size : Nat
deriving DecidableEq, Repr

/-- The fields mailbox OP 0x01 names (R451), and the storage system software gives the context's
sequence pages: a base address and a byte count (the manual names no other source of it). -/
structure CtxInit where
  id     : Nat
  part   : Nat
  tvec   : Word
  sttb   : Word
  vttb   : Word
  vwbase : Word
  pool   : MemRange
deriving DecidableEq, Repr

/-- The fields mailbox OP 0x03 names (R384, R385, R451): context, die, and the bases and log2 entry
counts of the command and the response ring. -/
structure QueueInit where
  ctx      : Nat
  die      : Nat
  cmdBase  : Nat
  cmdLog   : Nat
  respBase : Nat
  respLog  : Nat
deriving DecidableEq, Repr

/-- The fields a kernel registration names (R235). -/
structure KernelInit where
  ctx      : Nat
  kzhdr    : Word
  text     : Word
  advice   : Word
  textSize : Nat
  digestOk : Bool
deriving DecidableEq, Repr

/-- Every step of the device: one constructor for each row of the opcode table. -/
inductive Instr where
  -- Scalar integer, major INT (R237, R238): `d, a, b`.
  | add (d a b : Reg)
  | sub (d a b : Reg)
  | and (d a b : Reg)
  | or (d a b : Reg)
  | xor (d a b : Reg)
  | sll (d a b : Reg)
  | srl (d a b : Reg)
  | sra (d a b : Reg)
  | slt (d a b : Reg)
  | sltu (d a b : Reg)
  | mul (d a b : Reg)
  | mulh (d a b : Reg)
  | mulhu (d a b : Reg)
  | div (d a b : Reg)
  | divu (d a b : Reg)
  | rem (d a b : Reg)
  | remu (d a b : Reg)
  | min (d a b : Reg)
  | max (d a b : Reg)
  | minu (d a b : Reg)
  | maxu (d a b : Reg)
  | clz (d a : Reg)
  | ctz (d a : Reg)
  | popc (d a : Reg)
  | jalr (d a : Reg)
  -- Immediate majors (R239).
  | addi (d a : Reg) (c : BitVec 16)
  | andi (d a : Reg) (c : BitVec 16)
  | ori (d a : Reg) (c : BitVec 16)
  | xori (d a : Reg) (c : BitVec 16)
  | slti (d a : Reg) (c : BitVec 16)
  | sltiu (d a : Reg) (c : BitVec 16)
  | lui (d : Reg) (c : BitVec 16)
  | slli (d a : Reg) (c : BitVec 6)
  | srli (d a : Reg) (c : BitVec 6)
  | srai (d a : Reg) (c : BitVec 6)
  -- Scalar loads and stores (R242): `d, offset(a)`.
  | ldB (d a : Reg) (c : BitVec 16)
  | ldH (d a : Reg) (c : BitVec 16)
  | ldW (d a : Reg) (c : BitVec 16)
  | ldD (d a : Reg) (c : BitVec 16)
  | ldWNc (d a : Reg) (c : BitVec 16)
  | ldDNc (d a : Reg) (c : BitVec 16)
  | stB (d a : Reg) (c : BitVec 16)
  | stH (d a : Reg) (c : BitVec 16)
  | stW (d a : Reg) (c : BitVec 16)
  | stD (d a : Reg) (c : BitVec 16)
  | fldS (d a : Reg) (c : BitVec 16)
  | fldD (d a : Reg) (c : BitVec 16)
  | fstS (d a : Reg) (c : BitVec 16)
  | fstD (d a : Reg) (c : BitVec 16)
  -- Control transfer (R240, R241).
  | beq (a b : Reg) (off : BitVec 16)
  | bne (a b : Reg) (off : BitVec 16)
  | blt (a b : Reg) (off : BitVec 16)
  | bge (a b : Reg) (off : BitVec 16)
  | bltu (a b : Reg) (off : BitVec 16)
  | bgeu (a b : Reg) (off : BitVec 16)
  | j (off : BitVec 26)
  | jal (off : BitVec 26)
  -- Scalar atomics (R245): size (.d when `dbl`), order bits and scope.
  | amoswap (d a b : Reg) (dbl aq rl : Bool) (sc : Scope)
  | amocas (d a b : Reg) (dbl aq rl : Bool) (sc : Scope)
  | amoadd (d a b : Reg) (dbl aq rl : Bool) (sc : Scope)
  | amoand (d a b : Reg) (dbl aq rl : Bool) (sc : Scope)
  | amoor (d a b : Reg) (dbl aq rl : Bool) (sc : Scope)
  | amoxor (d a b : Reg) (dbl aq rl : Bool) (sc : Scope)
  -- Fences, waits and barriers (R247 to R251).
  | fence (o : FenceOrder) (sc : Scope)
  | fenceP (p q : Path) (sc : Scope)
  | waitaEq (d a b : Reg) (w32 : Bool) (sc : Scope)
  | waitaNe (d a b : Reg) (w32 : Bool) (sc : Scope)
  | waitaLt (d a b : Reg) (w32 : Bool) (sc : Scope)
  | waitaGe (d a b : Reg) (w32 : Bool) (sc : Scope)
  | waitaLtu (d a b : Reg) (w32 : Bool) (sc : Scope)
  | waitaGeu (d a b : Reg) (w32 : Bool) (sc : Scope)
  | barArrive (n : BitVec 4)
  | barWait (n : BitVec 4)
  -- Scalar floating point (R254); .d when `dbl`.
  | fadd (d a b : Reg) (dbl : Bool)
  | fsub (d a b : Reg) (dbl : Bool)
  | fmul (d a b : Reg) (dbl : Bool)
  | fdiv (d a b : Reg) (dbl : Bool)
  | fsqrt (d a : Reg) (dbl : Bool)
  | fma (d a b c : Reg) (dbl : Bool)
  | fmin (d a b : Reg) (dbl : Bool)
  | fmax (d a b : Reg) (dbl : Bool)
  | feq (d a b : Reg) (dbl : Bool)
  | flt (d a b : Reg) (dbl : Bool)
  | fle (d a b : Reg) (dbl : Bool)
  | fcvtFX (d a : Reg) (dbl : Bool)
  | fcvtXF (d a : Reg) (dbl : Bool)
  | fmvFX (d a : Reg) (dbl : Bool)
  | fmvXF (d a : Reg) (dbl : Bool)
  | fsgnj (d a b : Reg) (dbl : Bool)
  -- System instructions (R256, R261, R262).
  | cread (d : Reg) (csr : BitVec 12)
  | cwrite (csr : BitVec 12) (a : Reg)
  | cbset (csr : BitVec 12) (a : Reg)
  | cbclr (csr : BitVec 12) (a : Reg)
  | syscall (n : BitVec 6)
  | brk (n : BitVec 6)
  | tret
  | wfi
  | tfenceS (a : Reg)
  | tfenceV (a : Reg)
  -- Vector configuration (R264, R266, R267, R355).
  | setvt (imm : BitVec 16)
  | setvl (d a : Reg)
  | claim (d a b : Reg)
  | vpidx (d a : Reg)
  -- VINT (R276).
  | vadd (d a : Reg) (b : VSrc) (k : KReg)
  | vsub (d a : Reg) (b : VSrc) (k : KReg)
  | vmul (d a : Reg) (b : VSrc) (k : KReg)
  | vmulh (d a : Reg) (b : VSrc) (k : KReg)
  | vdiv (d a : Reg) (b : VSrc) (k : KReg)
  | vrem (d a : Reg) (b : VSrc) (k : KReg)
  | vand (d a : Reg) (b : VSrc) (k : KReg)
  | vor (d a : Reg) (b : VSrc) (k : KReg)
  | vxor (d a : Reg) (b : VSrc) (k : KReg)
  | vsll (d a : Reg) (b : VSrc) (k : KReg)
  | vsrl (d a : Reg) (b : VSrc) (k : KReg)
  | vsra (d a : Reg) (b : VSrc) (k : KReg)
  | vmin (d a : Reg) (b : VSrc) (k : KReg)
  | vmax (d a : Reg) (b : VSrc) (k : KReg)
  | vsadd (d a : Reg) (b : VSrc) (k : KReg)
  | vssub (d a : Reg) (b : VSrc) (k : KReg)
  | vmerge (d a : Reg) (b : VSrc) (k : KReg)
  | vmv (d a : Reg) (k : KReg)
  -- VFP (R278): binary and fma forms, then unary forms.
  | vfadd (d a : Reg) (b : VSrc) (k : KReg)
  | vfsub (d a : Reg) (b : VSrc) (k : KReg)
  | vfmul (d a : Reg) (b : VSrc) (k : KReg)
  | vfdiv (d a : Reg) (b : VSrc) (k : KReg)
  | vfma (d a : Reg) (b : VSrc) (k : KReg)
  | vfms (d a : Reg) (b : VSrc) (k : KReg)
  | vfnma (d a : Reg) (b : VSrc) (k : KReg)
  | vfmin (d a : Reg) (b : VSrc) (k : KReg)
  | vfmax (d a : Reg) (b : VSrc) (k : KReg)
  | vfsqrt (d a : Reg) (k : KReg)
  | vfrsqrt (d a : Reg) (k : KReg)
  | vfexp (d a : Reg) (k : KReg)
  | vfsgnj (d a : Reg) (b : VSrc) (k : KReg)
  | vfcvtXF (d a : Reg) (k : KReg)
  | vfcvtFX (d a : Reg) (k : KReg)
  | vfclass (d a : Reg) (k : KReg)
  -- VCMP (R280, R281).
  | vcmpEq (kd : KReg) (a : Reg) (b : VSrc) (k : KReg)
  | vcmpNe (kd : KReg) (a : Reg) (b : VSrc) (k : KReg)
  | vcmpLt (kd : KReg) (a : Reg) (b : VSrc) (k : KReg)
  | vcmpLe (kd : KReg) (a : Reg) (b : VSrc) (k : KReg)
  | vcmpGt (kd : KReg) (a : Reg) (b : VSrc) (k : KReg)
  | vcmpGe (kd : KReg) (a : Reg) (b : VSrc) (k : KReg)
  | kand (kd ka kb : KReg)
  | kor (kd ka kb : KReg)
  | kxor (kd ka kb : KReg)
  | knot (kd ka : KReg)
  | kany (d : Reg) (ka : KReg)
  | kall (d : Reg) (ka : KReg)
  | kcount (d : Reg) (ka : KReg)
  -- VPERM (R282 to R285).
  | vshup (d a : Reg) (b : VSrc) (k : KReg)
  | vshdn (d a : Reg) (b : VSrc) (k : KReg)
  | vpick (d a b : Reg) (k : KReg)
  | vcondense (d a : Reg) (k : KReg)
  | vrev (d a : Reg) (k : KReg)
  | vbcast (d a : Reg) (b : VSrc) (k : KReg)
  | vinsx (d a : Reg) (b : VSrc) (k : KReg)
  | vextx (d a b : Reg)
  | vredsumO (d a b : Reg) (k : KReg)
  | vredsum (d a b : Reg) (k : KReg)
  | vredmax (d a b : Reg) (k : KReg)
  | vredmin (d a b : Reg) (k : KReg)
  | vsegredO (d a b : Reg) (k : KReg)
  | vscanO (d a b : Reg) (k : KReg)
  | vscan (d a b : Reg) (k : KReg)
  | vscanmax (d a b : Reg) (k : KReg)
  -- VNAR (R286).
  | vdot16 (d a b fd : Reg) (k : KReg)
  | vquant (d a fd : Reg) (k : KReg)
  | vdeq (d a fd : Reg) (k : KReg)
  | vbpack (d a fd : Reg) (k : KReg)
  | vbunpack (d a fd : Reg) (k : KReg)
  | vcvt (d a fd : Reg) (k : KReg)
  -- VATT (R332).
  | vscore (a xb : Reg) (k : KReg)
  | vexpm
  | vaccv (d xb : Reg)
  | vsegmax (d : Reg)
  | vsegsum (d : Reg) (ks : KReg)
  | vbound (d a xb : Reg) (k : KReg)
  | vtopk (d a xb : Reg) (k : KReg)
  | vrand (d xa xb : Reg) (k : KReg)
  | vsamp (d a b : Reg) (k : KReg)
  | vargmax (d a : Reg) (k : KReg)
  | vspeck (d a b : Reg) (k : KReg)
  -- VLD and VST (R292); the hint of R83.
  | vld (d base : Reg) (k : KReg) (h : Hint)
  | vlds (d base stride : Reg) (k : KReg) (h : Hint)
  | vldx (d base idx : Reg) (k : KReg) (h : Hint)
  | vldp (d base : Reg) (h : Hint)
  | vldNc (d base : Reg) (k : KReg)
  | vldsNc (d base stride : Reg) (k : KReg)
  | vldxNc (d base idx : Reg) (k : KReg)
  | vst (d base : Reg) (k : KReg) (h : Hint)
  | vsts (d base stride : Reg) (k : KReg) (h : Hint)
  | vstx (d base idx : Reg) (k : KReg) (h : Hint)
  | vstxO (d base idx : Reg) (k : KReg) (h : Hint)
  | vstxAdd (d base idx : Reg) (k : KReg) (h : Hint)
  -- Sequence data (R316, R317).
  | sqst (d : Reg) (h : SqReg) (first : Reg) (k : KReg)
  | sqld (d : Reg) (kd : KReg) (h : SqReg) (first : Reg)
  -- Vector atomics (R308): order bits, and `o` for the ordered-element variant; the scope is in the name.
  | vamoaddC (d base idx : Reg) (k : KReg) (h : Hint) (aq rl o : Bool)
  | vamoaddD (d base idx : Reg) (k : KReg) (h : Hint) (aq rl o : Bool)
  | vamoaddV (d base idx : Reg) (k : KReg) (h : Hint) (aq rl o : Bool)
  | vamoaddX (d base idx : Reg) (k : KReg) (h : Hint) (aq rl o : Bool)
  | vamoandC (d base idx : Reg) (k : KReg) (h : Hint) (aq rl o : Bool)
  | vamoandD (d base idx : Reg) (k : KReg) (h : Hint) (aq rl o : Bool)
  | vamoandV (d base idx : Reg) (k : KReg) (h : Hint) (aq rl o : Bool)
  | vamoandX (d base idx : Reg) (k : KReg) (h : Hint) (aq rl o : Bool)
  | vamoorC (d base idx : Reg) (k : KReg) (h : Hint) (aq rl o : Bool)
  | vamoorD (d base idx : Reg) (k : KReg) (h : Hint) (aq rl o : Bool)
  | vamoorV (d base idx : Reg) (k : KReg) (h : Hint) (aq rl o : Bool)
  | vamoorX (d base idx : Reg) (k : KReg) (h : Hint) (aq rl o : Bool)
  | vamoxorC (d base idx : Reg) (k : KReg) (h : Hint) (aq rl o : Bool)
  | vamoxorD (d base idx : Reg) (k : KReg) (h : Hint) (aq rl o : Bool)
  | vamoxorV (d base idx : Reg) (k : KReg) (h : Hint) (aq rl o : Bool)
  | vamoxorX (d base idx : Reg) (k : KReg) (h : Hint) (aq rl o : Bool)
  | vamomaxC (d base idx : Reg) (k : KReg) (h : Hint) (aq rl o : Bool)
  | vamomaxD (d base idx : Reg) (k : KReg) (h : Hint) (aq rl o : Bool)
  | vamomaxV (d base idx : Reg) (k : KReg) (h : Hint) (aq rl o : Bool)
  | vamomaxX (d base idx : Reg) (k : KReg) (h : Hint) (aq rl o : Bool)
  | vamominC (d base idx : Reg) (k : KReg) (h : Hint) (aq rl o : Bool)
  | vamominD (d base idx : Reg) (k : KReg) (h : Hint) (aq rl o : Bool)
  | vamominV (d base idx : Reg) (k : KReg) (h : Hint) (aq rl o : Bool)
  | vamominX (d base idx : Reg) (k : KReg) (h : Hint) (aq rl o : Bool)
  | vamoswapC (d base idx : Reg) (k : KReg) (h : Hint) (aq rl o : Bool)
  | vamoswapD (d base idx : Reg) (k : KReg) (h : Hint) (aq rl o : Bool)
  | vamoswapV (d base idx : Reg) (k : KReg) (h : Hint) (aq rl o : Bool)
  | vamoswapX (d base idx : Reg) (k : KReg) (h : Hint) (aq rl o : Bool)
  -- VWAIT (R310).
  | vwaitAll (kd : KReg) (xs va ve : Reg) (k : KReg) (sc : BitVec 2)
  | vwaitAny (kd : KReg) (xs va ve : Reg) (k : KReg) (sc : BitVec 2)
  -- MAT (R319).
  | mtile (tb : Bool) (base fd : Reg)
  | mrow (acc : AccReg) (row : Row) (va : Reg) (tb : Bool) (fd : Reg)
  | mrowSp (acc : AccReg) (row : Row) (va : Reg) (tb : Bool) (fd : Reg)
  | mrowP (acc : AccReg) (row : Row) (va : Reg) (tb : Bool) (fd : Reg)
  | mzero (acc : AccReg)
  | mread (d : Reg) (acc : AccReg) (row : Row)
  | mepi (acc : AccReg) (row : Row) (base fd : Reg)
  | mrelease (tb : Bool)
  -- Copy engine (R346 to R350).
  | cpy (d a b m e : Reg)
  | cpyG (d a b m e : Reg)
  | cpyX (a b m : Reg)
  | cpySum (d a b m : Reg)
  | coll (a b m : Reg)
  -- Sequence control (R313).
  | sqnew (d : SqReg) (a : Reg)
  | sqres (d : Reg) (a : SqReg) (b : Reg)
  | sqcmt (a : SqReg) (b m : Reg)
  | sqabn (a : SqReg) (b m : Reg)
  | sqlen (d : Reg) (a : SqReg)
  | sqlenH (d : Reg) (a : SqReg)
  | sqfork (d : SqReg) (a : SqReg) (b : Reg)
  | sqdrop (d : SqReg)
  -- SCHED (R352).
  | launch (d a : Reg)
  | join (d a : Reg)
  | yield
  | exit
  | mark
  -- Advice words (R204).
  | ahalt
  | await (a : GReg)
  | aread (d : GReg) (slot : BitVec 12)
  | ali (d : GReg) (c : BitVec 18)
  | aaddi (d a : GReg) (c : BitVec 12)
  | aadd (d a b : GReg)
  | asub (d a b : GReg)
  | aand (d a b : GReg)
  | aor (d a b : GReg)
  | asll (d a b : GReg)
  | asrl (d a b : GReg)
  | amul (d a b : GReg)
  | aslli (d a : GReg) (c : BitVec 6)
  | asrli (d a : GReg) (c : BitVec 6)
  | abeq (a b : GReg) (off : BitVec 12)
  | abne (a b : GReg) (off : BitVec 12)
  | ablt (a b : GReg) (off : BitVec 12)
  | abltu (a b : GReg) (off : BitVec 12)
  | aj (off : BitVec 18)
  | apf (l2 : Bool) (a b : GReg) (n : BitVec 12)
  | apfv (l2 : Bool) (a b d : GReg) (esize : BitVec 2)
  | apinPri (a b : GReg)
  | apinPin (a b : GReg)
  | apinOff (a b : GReg)
  | atile (tb : Bool) (a b d : GReg)
  | aprio (c : BitVec 2)
  | aorder (c : BitVec 3)
  -- Steps with no word: what an advice context, a queue, the lane partition or a wait does later (the operand `uid` names a hart identity).
  | adviceAwaitWake (uid : Nat)
  | advicePinExpire (uid : Nat)
  | queueRoomResume (uid : Nat)
  | laneBlockTaken (uid : Nat)
  | laneHoldTimeout (uid : Nat)
  | laneReclaim (uid : Nat)
  | waitaWake (uid : Nat)
  | waitaTimeout (uid : Nat)
  | vwaitRound (uid : Nat)
  | vwaitTimeout (uid : Nat)
  | wfiWake (uid : Nat)
  | pairTimeout (uid : Nat)
  | interruptTake (uid : Nat)
  | reliabilityQueuedTrap (uid : Nat) (cause : BitVec 10) (tval : Word)
  | copyCommandComplete (uid : Nat)
  | copyEngineFault (uid : Nat) (cause : BitVec 10) (tval : Word)
  | compactionMove (ctx seq block newPa : Nat)
  -- The dispatcher (21).
  | overflowRingReturn (ctx : Nat)
  | launchEligible (handle : Nat)
  | waitaddrPoll
  | hartIssue (core : Nat)
  | dispatchTick (core : Nat)
  | priorityAging (handle : Nat)
  | hartSave (uid : Nat) (reason : SaveReason)
  | hartRestore (uid : Nat)
  | hqLaunch (q : Nat)
  | hqHoldHart (q : Nat)
  | hqReleaseHart (q : Nat)
  | hqRetireHandle (q : Nat)
  | hqMigrateHart (q : Nat)
  | hqSetOverflowRing (q : Nat)
  | contextRegisterWriteComplete (uid : Nat)
  | parkedAccessRetranslate (uid : Nat)
  -- Host, link and storage (23, 24).
  | hashTreeUpdate (region : Nat)
  | hostWindowRead (fn : Nat) (sp : HostSpace) (addr n : Nat)
  | hostWindowWrite (fn : Nat) (sp : HostSpace) (addr : Nat) (data : List Byte)
  | hostReadTimeout (pa n : Nat)
  | linkFlitReceive (port : Nat) (flit : List Byte)
  | linkPortDown (port : Nat)
  | remoteRequestTimeout (kind : RemoteKind) (pa n uid : Nat)
  | collRankTimeout (uid : Nat)
  -- Mailbox commands of R451; `m` is the master of R449.
  | createContext (m : Nat) (c : CtxInit)
  | destroyContext (m ctx : Nat)
  | bindHostQueue (m q : Nat) (c : QueueInit)
  | setSchedulingQuantum (m us : Nat)
  | endLaunch (m handle : Nat)
  | hashRegionRegister (m desc : Nat)
  | hashRegionRemove (m region : Nat)
  | hashRegionSeal (m region : Nat)
  | readErrorLog (m die : Nat)
  | clearErrorLog (m die : Nat)
  | readTraceBuffer (m hamlet : Nat)
  | setPartitionTable (m : Nat) (t : List Partition)
  | setDomainTable (m own : Nat) (present : BitVec 1024)
  | setHostApertures (m part : Nat) (t : List MemRange)
  | setCollectiveTimeout (m ns : Nat)
  | setPowerLimit (m watts : Nat)
  | attestationQuote (m : Nat) (nonce : BitVec 256)
  | mailboxClaim (m : Nat)
  | handover (m target : Nat)
  | heartbeat (m : Nat)
  | registerKernel (m : Nat) (c : KernelInit)
  | unregisterKernel (m ctx kzhdr : Nat)
  | leaseLapse
  | handoverExpire
  -- Clocks, power, bring-up and storage errors (R431, R442, R453 to R457).
  | clockChange (hamlet : Nat) (dom : ClockDomain) (mhz : Nat) (reason : ClockReason)
  | throttleLevelChange (hamlet level : Nat)
  | powerLimitReached (watts limit : Nat)
  | thermalLimitReached (hamlet tenths : Nat)
  | powerBackWithinLimit (watts limit : Nat)
  | powerOnBringUp (slotA slotB : Bool)
  | hostSnoop (pa : Nat) (take : Bool)
  | hostRequestError (pa n : Nat) (isWrite : Bool)
  | linkPortRetrained (port : Nat)
  | uncorrectableStorageError (level : StorageLevel) (pa : Nat)
  | adviceFillComplete (uid : Nat)
  | hardwarePrefetch (uid : Nat) (va : Word) (n : Nat)
  | mailboxMessageToHart (m uid : Nat) (msg : Word)
deriving DecidableEq, Repr

end Sys2Proof
end

