-- ==== Sys2Proof/Machine/State.lean ====
section
/-! DEFINITION. The state of the whole device, as plain data: every register, memory, queue and
record that the manual names (INVENTORY.md lists them with their rules), the reasons a step can
stop, and the state after reset. -/

namespace Sys2Proof.Machine

/-- A table of records by number: keys strictly rising. -/
abbrev Tbl (α : Type) := List (Nat × α)

/-- Why the model stops with a fault. -/
inductive Fault where
  /-- Raised by `step` for an agenda entry that names a hart that does not exist. Safe: no machine
  has such a step. -/
  | noSuchHart (uid : Nat)
deriving DecidableEq, Repr

/-- Why an instruction has no meaning in the model. -/
inductive Refusal where
  /-- Raised by an arm of `exec` whose instruction has no meaning yet. Safe: nothing is claimed. -/
  | notModelled (mnemonic : String)
deriving DecidableEq, Repr

/-! ### The registers of a hart -/

/-- A vector register: the bits below its progress index, the index in bits (R267), and the tag that
names the undefined bits at and above it. `bits` holds zeros at and above `pidx`. -/
structure VReg where
  bits : VBits
  pidx : Nat
  tag  : Nat
deriving DecidableEq, Repr

/-- What a bound handle register holds (R167). -/
structure SqBinding where
  handle : BitVec 32
  shadow : Word
deriving DecidableEq, Repr

/-- The user-level control and status registers (R229, R258). -/
structure Csr where
  vl     : BitVec 17
  vt     : BitVec 16
  vstart : BitVec 17
  valloc : BitVec 32
  efr    : BitVec 32
  fcsr   : BitVec 8
  det    : Bool
  check  : BitVec 2
  pmark  : BitVec 32
  alead  : BitVec 16
  pairto : BitVec 20
  cycle  : Word
  stallv : Word
  stallm : Word
  stallc : Word
  loopn  : Vector Word 4
deriving DecidableEq, Repr

/-- The supervisor registers of a hart (R370, R372, R374). -/
structure TrapRegs where
  /-- HSTAT.PRIV: true at supervisor level. -/
  priv     : Bool
  /-- HSTAT.IE. -/
  ie       : Bool
  /-- TVEC.BASE, in words. -/
  tvec     : BitVec 62
  /-- TVEC.MODE = 1. -/
  vectored : Bool
  tcause   : BitVec 10
  tval     : Word
  /-- TPC.PC. -/
  tpc      : BitVec 62
  vpart    : Bool
  pie      : Bool
  ppriv    : Bool
  tscratch : Word
  ctxid    : BitVec 16
deriving DecidableEq, Repr

/-- The bounds a kernel header loads into its harts (R233), its mark table (R188). -/
structure Bounds where
  vregs    : Nat
  accs     : Nat
  barriers : Nat
  seqs     : Nat
  scratch  : Nat
  paired   : Bool
  marks    : Vector Byte 8
deriving DecidableEq, Repr

/-- A block of lanes: a count and its first lane (R44). -/
structure LaneBlock where
  lanes : Nat
  base  : Nat
deriving DecidableEq, Repr

/-- The number m × 2^e. -/
structure Dyadic where
  m : Int
  e : Int
deriving DecidableEq, Repr

/-- A written accumulator row, with the check sums E and B of R429 (none: the valid bit is 0). -/
structure AccCell where
  words : AccRow
  check : Option (Dyadic × Dyadic)
deriving DecidableEq, Repr

/-- A staged tile (R320, R321, R379): its address, descriptor, K, and the image in the memory layout with its scale
storage. -/
structure TileBuf where
  base  : Word
  desc  : BitVec 32
  k     : Nat
  image : BitVec 1114112
  /-- The lines of L2 pinned for it (R94). -/
  pins  : List Nat
deriving DecidableEq, Repr

/-- The state of the chain's buffer (R334). -/
inductive ChainBuf where
  | empty | scored | weighted
deriving DecidableEq, Repr

/-- One head of the attention chain (R334). -/
structure Head where
  m     : BitVec 32
  sigma : BitVec 32
  alpha : BitVec 32
  s     : Vector (BitVec 32) 16
  valid : BitVec 16
deriving DecidableEq, Repr

/-- Chain state (R334). -/
structure Chain where
  heads : Vector Head 64
  buf   : ChainBuf
deriving DecidableEq, Repr

/-- The queue an instruction enters (R37). -/
inductive QKind where
  | viq | vmq | mq
deriving DecidableEq, Repr

/-- The status of a journal entry (R381); `empty` is the absence of an entry. -/
inductive CopyStatus where
  | queued | part | faulted | cancelled
deriving DecidableEq, Repr

/-- An attempt of a gather at a listed block (R184): its place in the list, the block's address as the leaf
entry gave it, and the version counter read first. -/
structure Attempt where
  place   : Nat
  addr    : Nat
  version : BitVec 32
deriving DecidableEq, Repr

/-- One command of the copy queue, and its journal entry (R346, R381): the word, the five captured
operands, the descriptor read at check 3, CLEN and the bytes of a block as a gather read them, TIME of
issue, whether it names bytes of a domain window or of a SEQ page (R105), the attempt that a gather is in and the
number that failed at each of its blocks, by place in the list (R184), and the completed byte offset. -/
structure CopyCmd where
  status : CopyStatus
  word   : IWord
  ops    : List Word
  desc   : List Byte
  clen   : Nat
  block  : Nat
  issued : Word
  lnk    : Bool
  seq    : Bool
  attempt : Option Attempt
  failed : Tbl Nat
  done   : Nat
deriving DecidableEq, Repr

/-- ASTAT.STATE (R199). -/
inductive AdvState where
  | unbound | running | waiting | halted | stopped
deriving DecidableEq, Repr

/-- A pre-staged tile that no MTILE has used (R209), with the lines of L2 pinned for it (R210). -/
structure PreStage where
  tb   : Bool
  base : Word
  desc : BitVec 32
  k    : Nat
  pins : List Nat
deriving DecidableEq, Repr

/-- An advice fill in flight (R194): the target level, whether it translates through the vector port
(R190), and the virtual address and byte count. -/
structure Fill where
  l2  : Bool
  vec : Bool
  va  : Word
  n   : Nat
deriving DecidableEq, Repr

/-- An advice context (R187): its registers, the snapshot of the latest mark (R188), the code
range, pins (L2 line and the lane time left) and pre-stages (R194, R209), fills in flight. -/
structure Adv where
  g        : Vector Word 8
  apc      : Word
  amark    : BitVec 32
  aprio    : BitVec 2
  aorder   : BitVec 3
  dropq    : BitVec 16
  dropx    : BitVec 16
  drops    : BitVec 16
  stop     : BitVec 4
  refused  : Bool
  st       : AdvState
  snap     : Vector Word 8
  snapMark : BitVec 32
  code     : Word
  codeSize : Nat
  pins     : Tbl Nat
  stages   : List PreStage
  fills    : List Fill
  /-- The model's own: how many hints have met the pin or the pre-stage port, to which the free value of the port's
  room is applied (assumption log 3). -/
  asks     : Nat
deriving DecidableEq, Repr

/-- A cached scalar translation (R406): its context, the first virtual page, the page size and the
leaf entry. -/
structure TlbEntry where
  ctx   : BitVec 16
  va    : Nat
  size  : Nat
  entry : Word
deriving DecidableEq, Repr

/-- What a translation yields: the physical address and the page's attributes (R402, R408). -/
structure Xlat where
  pa     : Nat
  shared : Bool
  seq    : Bool
  mig    : Bool
  /-- A domain window: the LNK path (R105). -/
  lnk    : Bool
  cache  : Nat
  gran   : BitVec 2
deriving DecidableEq, Repr

/-- Where an access goes: the local window at an offset, or a physical address. -/
inductive Target where
  | window (off : Nat)
  | phys (t : Xlat)
deriving DecidableEq, Repr

/-- How an access meets L1 (R77, R83, R411). -/
inductive Alloc where
  | low | normal | high
  /-- A bypassing load, a write-around store. -/
  | around
  /-- An .nc load. -/
  | nc
deriving DecidableEq, Repr

/-- A plain store that has left its hart and has not performed at L1 (R110, R117): whether it is a scalar one, where
it goes, how it allocates, and its bytes. -/
structure Delayed where
  scl   : Bool
  xlat  : Xlat
  alloc : Alloc
  bytes : List Byte
deriving DecidableEq, Repr

/-- The conditions of waita (R249). -/
inductive WCond where
  | eq | ne | lt | ge | ltu | geu
deriving DecidableEq, Repr

/-- What a hart's front end waits for; the waiting instruction stands at its PC. -/
inductive Wait where
  | none
  /-- A grant point with no lanes (R46). -/
  | lanes
  /-- waita (R249): condition, width in bytes, status register, address, value, scope, start and timeout. -/
  | waita (c : WCond) (n : Nat) (d : Reg) (addr want : Word) (sc : Scope) (start left : Word)
  /-- vwait (R311): its word and operands, start and timeout, and the flags its probe translated
  (R296). -/
  | vwait (word : IWord) (any : Bool) (kd : KReg) (xs ve : Reg) (sc : BitVec 2) (start left : Word)
      (flags : List (Nat × Target))
  /-- bar.wait (R251). -/
  | barrier (n : BitVec 4)
  /-- JOIN (R60): the handle and the status register. -/
  | join (handle : Nat) (d : Reg)
  /-- wfi (R262). -/
  | wfi
  /-- MROW.P at the head of the MQ (R65): its word and operands, and TIME of its arrival. -/
  | pair (word : IWord) (acc : AccReg) (row : Nat) (va : Reg) (tb : Bool) (desc : Word) (since : Word)
  /-- A full queue (R37). -/
  | room (q : QKind)
  /-- A full copy queue (R346). -/
  | copyRoom
  /-- Earlier copy commands that must perform first (R62, R111, R252). -/
  | copyDrain
  /-- A write of a context register that has not completed (R371): the bits it keeps and those it sets. -/
  | ctxWrite (csr : BitVec 12) (keep set : Word)
  /-- A parked access (R412) at this virtual address; `vec` when it translates through the VTT. -/
  | parked (va : Word) (vec : Bool)
  /-- Entries of the hart's queues that come first (R40, R428). -/
  | held
  /-- A trap entry whose first fetch failed: the dispatcher holds the hart (R418). -/
  | entry
deriving DecidableEq, Repr

/-- An entry of a queue (R37, R381): the word and what it took at entry (R224, R257, R268): VT, VL, scalar
operands, VALLOC and whether the gauntlet checks it (R424). Beyond its image it holds its address, whether the
front end waits for its result (R40), the translations that its probe read (R296), the load data that the VMU has
fetched for it by unit (R37, R39), and whether a later setvl or claim set VSTART to 0 behind it (R266). -/
structure QEntry where
  kind        : QKind
  word        : IWord
  vt          : BitVec 16
  vl          : BitVec 17
  ops         : List Word
  valloc      : BitVec 32
  checked     : Bool
  interrupted : Bool
  rhold       : Bool
  pc          : Word
  waited      : Bool
  probe       : Option (List (Nat × Target))
  data        : List (Nat × Nat)
  zero        : Bool
deriving DecidableEq, Repr

/-- What the four runs of an element differ from its right value by (R425). -/
structure LaneRuns where
  elem : Nat
  d1   : Word
  d2   : Word
  d3   : Word
  d4   : Word
deriving DecidableEq, Repr

/-- A lane that fails its own check in an element group; its re-execution passes, or fails again (R427). -/
structure LaneFail where
  group : Nat
  lane  : Nat
  again : Bool
deriving DecidableEq, Repr

/-- What goes wrong in the hardware of a hart's next queued instruction. -/
inductive Trouble where
  /-- Elements whose runs differ (R425), and lanes that fail their own check (R427). -/
  | lanes (runs : List LaneRuns) (fails : List LaneFail)
  /-- The bits by which results of the instruction under execution come out wrong, by element. -/
  | wrong (bits : Tbl Word)
  /-- A byte of a row that the store engine holds changes (R430). -/
  | held (byte : Nat) (flip : Byte)
deriving DecidableEq, Repr

/-- The states of a hart (R63). -/
inductive HStatus where
  | ready | running | laneWaiting | sleeping | joinSleep | held | exited
deriving DecidableEq, Repr

/-- A hart. -/
structure Hart where
  /-- The identity (R9): launch handle × 2^32 + instance index. -/
  uid      : Nat
  ctx      : Nat
  core     : Nat
  slot     : Nat
  status   : HStatus
  /-- Its state lies in its save area (R377). -/
  saved    : Bool
  /-- A hold was requested: its next save leaves the hart held (R386). -/
  holdReq  : Bool
  /-- The save that the dispatcher has decided on, taken at the next boundary (R394, R48, R61), and TIME of the
  decision (R395). -/
  saveReq  : Option SaveReason
  saveFrom : Word
  /-- Why it was last saved (R380). -/
  reason   : SaveReason
  readyAt  : Word
  issuedAt : Word
  /-- The save area assigned for life (R377). -/
  saveIdx  : Option Nat
  pc       : Word
  x        : Vector Word 32
  f        : Vector Word 32
  k        : Vector Mask 8
  v        : Vector VReg 32
  sq       : Vector (Option SqBinding) 8
  csr      : Csr
  trap     : TrapRegs
  dirtyv   : BitVec 43
  bounds   : Bounds
  brim     : Nat
  seed     : Word
  /-- The grant of the latest grant point (R45, R46). -/
  grant    : LaneBlock
  /-- Whether the granted lanes are held: false once a reclaim or a save has taken them (R45). -/
  holds    : Bool
  /-- Lanes taken by a lane reclaim until the next grant point (R49, R397). -/
  reclaimed : Bool
  /-- The grant the resumption requires, in lanes (R270, R382). -/
  required : Nat
  target   : LaneBlock
  /-- TIME at which the target last changed (R48). -/
  targetAt : Word
  acc      : Tbl AccCell
  accTag   : Nat
  tb       : Vector (Option TileBuf) 2
  chain    : Chain
  queue    : List QEntry
  /-- What the oldest entry of the queues waits for: lanes (R49) or a page in migration (R412). -/
  qwait    : Wait
  /-- The entry being executed again with its own VT, VL and operands (R382, R428). -/
  replay   : Option QEntry
  copyq    : List CopyCmd
  journal  : List CopyCmd
  adv      : Adv
  /-- Arrived bits and remembered phases (R253). -/
  arrived  : BitVec 16
  phase    : Vector Nat 16
  scr      : List Host.Cell
  scrTag   : Nat
  /-- Words of the region in error, by number (R431). -/
  scrBad   : List Nat
  tlb      : List TlbEntry
  /-- Words the front end fetched ahead, by address (R405). -/
  ibuf     : Tbl IWord
  /-- The entry PC of the latest trap, until a word has been fetched there (R418). -/
  entry    : Option Word
  /-- L0 (R75): lines of 64 bytes by number, at most four of each of 64 sets; never dirty. -/
  l0       : Tbl (BitVec 512)
  /-- The paths whose next plain write a release fence of scope D or wider turned into a release
  (R112): SCL or VEC. -/
  relScl   : Bool
  relVec   : Bool
  wait     : Wait
  irqSoft  : Option Word
  irqMail  : Option Word
  /-- Executed MROW.P instructions (R65). -/
  pairs    : Nat
  /-- Gauntlet sample count (R424). -/
  sample   : BitVec 4
  /-- TIME at which its sleep began (R49). -/
  sleepAt  : Word
  /-- MODEL'S OWN: the element at which the dispatcher stops the next vector instruction (R48). -/
  cut      : Option Nat
  /-- MODEL'S OWN: the next instruction leaves the front end without performing: a queued one stays in its queue, a
  plain store stays on its way. -/
  lag      : Bool
  /-- Plain stores still on their way to L1, oldest first (R110, R129), and units of vector stores whose data waits
  in the store data queue (R37, R117). -/
  pending  : List Delayed
  /-- MODEL'S OWN: the units that the next plain vector store leaves on their way (R117, R135). -/
  delay    : List Nat
  /-- MODEL'S OWN: what goes wrong in the next queued instruction (R425, R427, R430). -/
  trouble  : Option Trouble
deriving DecidableEq, Repr

/-! ### Cores, contexts and launches -/

/-- A line of L1 (R79): 256 bytes, a valid bit per sector, a dirty and a poison bit per byte, the sectors whose
clean data is in error and not yet fetched again (R431), the page's SHARED and DGRAN as the line was filled, and
the line's priority for eviction (R83). -/
structure L1Line where
  data   : BitVec 2048
  valid  : BitVec 8
  broken : BitVec 8
  dirty  : BitVec 256
  poison : BitVec 256
  shared : Bool
  gran   : BitVec 2
  prio   : BitVec 2
deriving DecidableEq, Repr

/-- A gathered line (R85): its tag, the elements it covers (physical address and value, lowest first), the
page's SHARED, and its priority. -/
structure Gathered where
  base   : Word
  stride : Word
  esize  : Nat
  count  : Nat
  elems  : List (Nat × Nat)
  shared : Bool
  prio   : BitVec 2
deriving DecidableEq, Repr

/-- A line of L2 (R92): the way it lies in, a valid and a dirty bit per sector, and the granule it was filled
under (R93). Its bytes stand in `State.mem`. -/
structure L2Line where
  way   : Nat
  valid : BitVec 8
  dirty : BitVec 8
  gran  : BitVec 2
  /-- Whether apin.pri gave the line the highest replacement priority (R208). -/
  keep  : Bool
  /-- Whether the copy of a host line was taken under CACHE 0 (R442). -/
  snoop : Bool
deriving DecidableEq, Repr

/-- A core. -/
structure Core where
  l1       : Tbl L1Line
  gathered : List Gathered
  /-- The context whose vector translation table the core holds, and the entries (R407, R410). -/
  vttCtx   : Option Nat
  vtt      : List Host.Cell
  /-- Barrier phase counters (R251). -/
  phase    : Vector Nat 16
  /-- Scratchpad split S (R78). -/
  split    : Nat
  /-- TIME of the dispatcher's latest tick on the core (R394). -/
  tickAt   : Word
  /-- The slot whose hart issued last, for the rotation of R396. -/
  turn     : Nat
deriving DecidableEq, Repr

/-- The kinds of a loop level (R232). -/
inductive LoopKind where
  | temporal | cores | dies
deriving DecidableEq, Repr

/-- A registered kernel (R232, R235). -/
structure Kernel where
  text     : Word
  advice   : Word
  textSize : Nat
  digestOk : Bool
  bounds   : Bounds
  loops    : List (LoopKind × Nat)
  advSize  : Nat
  advOk    : Bool
deriving DecidableEq, Repr

/-- A reservation (R171): first slot, count, and the tag: hart identity and handle register. -/
structure Resv where
  first : Nat
  count : Nat
  uid   : Nat
  reg   : Nat
deriving DecidableEq, Repr

/-- A live sequence: the descriptor of R169, the window record of R171, and its block table (R170). -/
structure Seq where
  gen     : Nat
  voids   : Nat
  root    : Nat
  cls     : Nat
  slotlog : Nat
  refcnt  : Nat
  forklen : Nat
  parent  : Option (BitVec 32)
  rlen    : Nat
  clen    : Nat
  /-- The committed slots at and above CLEN (PENDING). -/
  pending : List Nat
  resv    : List Resv
  leaves  : Tbl Nat
  blocks  : Tbl Nat
deriving DecidableEq, Repr

/-- A block record (R181, R183). -/
structure Block where
  size    : Nat
  ref     : Nat
  version : BitVec 32
deriving DecidableEq, Repr

/-- The old storage of a moved block, kept until the gathers that began before the move have completed (R183):
each by its hart and TIME of issue. -/
structure Moved where
  addr    : Nat
  size    : Nat
  gathers : List (Nat × Word)
deriving DecidableEq, Repr

/-- A context: its registers (R373, R374, R376), and its records. -/
structure Ctx where
  part     : Nat
  tvec     : Word
  vlcap    : BitVec 5
  sttbEn   : Bool
  sttb     : BitVec 40
  vttbEn   : Bool
  vttb     : BitVec 35
  vwbase   : BitVec 24
  seed     : Word
  notifyEn : Bool
  notify   : BitVec 40
  notLog   : BitVec 5
  nhead    : BitVec 32
  ntail    : BitVec 32
  lost     : BitVec 32
  arenaEn  : Bool
  arena    : BitVec 40
  arenaLog : BitVec 5
  poolCnt  : BitVec 11
  pool     : BitVec 40
  hlbase   : BitVec 48
  abrefuse : Word
  /-- The save areas in use (R377). -/
  areas    : List Nat
  kernels  : Tbl Kernel
  /-- The overflow ring (R386, R387): base, log2 count, head and tail. -/
  ringBase : Nat
  ringLog  : Nat
  ringHead : Nat
  ringTail : Nat
  /-- Live sequences by arena index, and the generation of each entry (R166). -/
  seqs     : Tbl Seq
  gens     : Tbl Nat
  blocks   : Tbl Block
  /-- Storage of moved blocks that a gather may still read (R183). -/
  moved    : List Moved
  /-- Free storage (R182): (size, address) of returned pieces, and what is not yet used of the pool of blocks of the
  four classes and tables, and of the separate pool of blocks of larger slots. -/
  freeList : List (Nat × Nat)
  poolNext : Nat
  poolEnd  : Nat
  bigNext  : Nat
  bigEnd   : Nat
deriving DecidableEq, Repr

/-- How the advice of a launch was bound (R197). -/
inductive Binding where
  | none | bound | refused
deriving DecidableEq, Repr

/-- Where a launch stands in its dispatcher (R384, R387). -/
inductive LPlace where
  | queue | ring
deriving DecidableEq, Repr

/-- A launch record (R53) with its scheduling state. -/
structure Launch where
  ctx      : Nat
  die      : Nat
  kzhdr    : Nat
  kernel   : Kernel
  args     : Word
  prio     : Nat
  det      : Bool
  dieMask  : BitVec 4
  perDie   : Nat
  after    : Nat
  seed     : Word
  brim     : Nat
  binding  : Binding
  cwAddr   : Nat
  cwVal    : Word
  waitAddr : Nat
  waitVal  : Nat
  trips    : List (LoopKind × Nat)
  count    : Nat
  /-- The identity of the issuing hart, or the host queue. -/
  parent   : Option Nat
  hostq    : Option Nat
  accepted : Nat
  place    : LPlace
  eligible : Bool
  eligAt   : Word
  /-- The placement: the cores of each die (R391). -/
  cores    : List (List Nat)
  started  : List Nat
  exits    : Nat
  boost    : Nat
  waitFrom : Word
  status   : Option Nat
  /-- TIME of its completion. -/
  doneAt   : Word
deriving DecidableEq, Repr

/-- A completion value that parks at a page in migration (R389, R412): its context, address and value. -/
structure ParkedWrite where
  ctx : Nat
  va  : Word
  val : Word
deriving DecidableEq, Repr

/-! ### Management, links and the whole device -/

/-- An entry of a die's error log (R432). -/
structure ErrEntry where
  time    : Word
  /-- 0 corrected, 1 uncorrectable, 2 poison consumed, 3 a write dropped. -/
  kind    : Nat
  pa      : Nat
  /-- The sub-channels of the access, in the device's numbers (R8, R100): none outside HBM. -/
  subs    : List Nat
  gran    : Nat
  symbols : Nat
deriving DecidableEq, Repr

/-- An entry of a hamlet's trace buffer (R454). -/
structure TraceEntry where
  time   : Word
  dom    : ClockDomain
  reason : ClockReason
  mhz    : Nat
deriving DecidableEq, Repr

/-- A hamlet's clocks, throttle level and trace buffer (R453 to R455). -/
structure Hamlet where
  scalar   : Nat
  lane     : Nat
  vmu      : Nat
  throttle : Nat
  trace    : List TraceEntry
  traceOvf : Nat
deriving DecidableEq, Repr

/-- A die's error log and its overflow count (R432). -/
structure DieLog where
  log : List ErrEntry
  ovf : Nat
deriving DecidableEq, Repr

/-- A hash region (R435): the fields of its descriptor, its dirty leaves (R436), and TIME of its latest
update. -/
structure HashRegion where
  base     : Nat
  size     : Nat
  tree     : Nat
  interval : Nat
  depth    : Nat
  epoch    : Nat
  dirty    : List Nat
  updated  : Word
  /-- The physical address of the descriptor. -/
  desc     : Nat
deriving DecidableEq, Repr

/-- A bound host queue (R384, R385): the producer index that the host's doorbell set, the dispatcher's indices, and
the handles it received. -/
structure HostQueue where
  cfg     : QueueInit
  produced : Nat
  cmdIdx  : Nat
  respIdx : Nat
  handles : List Nat
deriving DecidableEq, Repr

/-- The state of a link port (R444). -/
inductive PortState where
  | up | retraining | down
deriving DecidableEq, Repr

/-- A link port: state and TIME of its retraining, expected sequence number, failed replays, whether a
replay is requested, accepted flits, the retry buffer of flits sent and not yet acknowledged, and flits still to send
(R443, R444). -/
structure Port where
  st       : PortState
  since    : Word
  expected : Nat
  retries  : Nat
  replay   : Bool
  flits    : List (List Byte)
  retry    : List (List Byte)
  sendq    : List (List Byte)
deriving DecidableEq, Repr

/-- Another rank's matching collective command (R350). -/
structure PeerCmd where
  device : Nat
  rank   : Nat
  peer   : Nat
  ctl    : Word
  count  : Nat
  nrank  : Nat
  data   : List Byte
deriving DecidableEq, Repr

/-- Bring-up (R457). -/
inductive Boot where
  | off | done | halted
deriving DecidableEq, Repr

/-- A master's mailbox (R451): the 64 bytes of its command entry, the OP of a command that its doorbell started and that
is not answered yet, and the answer of its latest command: status, result and completion bit. -/
structure Mailbox where
  entry  : List Byte
  op     : Option Nat
  status : Nat
  result : List Word
  done   : Bool
deriving DecidableEq, Repr

/-- Management state (R393, R441, R445 to R451, R453, R458). -/
structure Mgmt where
  owner      : Nat
  /-- The claim register's LEASE count, and the TIME at which the lease lapses (R450). -/
  lease      : BitVec 32
  leaseEnd   : Word
  handTo     : Nat
  handEnd    : Word
  /-- The mailboxes of the masters, by identifier. -/
  mboxes     : Tbl Mailbox
  parts      : List Partition
  apertures  : Tbl (List MemRange)
  ownDevice  : Nat
  present    : BitVec 1024
  collNs     : Nat
  powerLimit : Nat
  quotes     : Nat
  quantumUs  : Nat
  /-- Whether the active firmware is that of slot B (R457). -/
  slotB      : Bool
deriving DecidableEq, Repr

/-- A bit of an HBM access: a data or a check pin, counted across the sub-channels of the access, at a beat
(R97, R98). -/
structure PinBeat where
  check : Bool
  pin   : Nat
  beat  : Nat
deriving DecidableEq, Repr

/-- MODEL'S OWN: one move of one agent. -/
inductive Mover where
  /-- The front end of a hart. -/
  | front (uid : Nat)
  /-- The same, stopped by the dispatcher at an element boundary at or below this element (R48). -/
  | frontCut (uid b : Nat)
  /-- One word of an advice context. -/
  | advice (uid : Nat)
  /-- A step of the opcode table that has no word. -/
  | event (i : Instr)
  /-- L1 evicts a line (R80), or drops a gathered line (R86). -/
  | evict (core line : Nat)
  | evictGathered (core n : Nat)
  /-- L2 fills the granule of a sector that some agent missed (R93), or evicts a line. -/
  | l2Fill (pa : Nat) (gran : BitVec 2)
  | l2Evict (line : Nat)
  /-- Data in error is fetched again, into L2 and into a core's L1 (R431). -/
  | refetch (core : Nat)
  /-- A front end's next word leaves it without performing (R37, R41, R110). -/
  | frontLag (uid : Nat)
  /-- The oldest entry of a hart's queues executes (R37), or is stopped by the dispatcher (R48). -/
  | queue (uid : Nat) (cut : Option Nat)
  /-- The VMU fetches load data for the units of a hart's next load, in element groups (R37, R39). -/
  | vmuRead (uid groups : Nat)
  /-- The units that a hart's next plain vector store leaves on their way (R117). -/
  | delayUnits (uid : Nat) (units : List Nat)
  /-- A hart's gather reads the version counter of a listed block: an attempt begins (R184). -/
  | gatherRead (uid place : Nat)
  /-- One of a hart's delayed stores performs. -/
  | performStore (uid n : Nat)
  /-- TIME passes by some nanoseconds, or until the device must act by itself (R258). -/
  | elapse (ns : Nat)
  /-- Stall counts of a hart rise (R258). -/
  | stall (uid v m c : Nat)
  /-- Another rank issues a collective command (R350). -/
  | peer (c : PeerCmd)
  /-- The device has a flit to send on a port (R443). -/
  | linkSend (port : Nat) (flit : List Byte)
  /-- The host or another device writes memory of a host or domain window. -/
  | external (pa : Nat) (data : List Byte)
  /-- A front end fetches a word ahead (R405), or drops a translation (R406). -/
  | fetchAhead (uid : Nat) (va : Word)
  | tlbDrop (uid : Nat) (va : Word)
  /-- An HBM access whose codeword has errors at some pins and beats: corrected, or poisoned (R98, R431). -/
  | hbmError (pa : Nat) (bad : List PinBeat)
  /-- The hardware of a hart's next queued instruction goes wrong (R425, R427, R430). -/
  | trouble (uid : Nat) (t : Trouble)
  /-- Bits of an accumulator row change in its storage (R429). -/
  | accError (uid row : Nat) (flip : AccRow)
deriving DecidableEq, Repr

/-- The device. -/
structure State where
  /-- The hart in focus, and the others. -/
  hart     : Hart
  others   : List Hart
  cores    : Tbl Core
  ctxs     : Tbl Ctx
  launches : Tbl Launch
  nextLaunch : Nat
  /-- Completion values that wait for a page in migration (R412). -/
  parkedCw : List ParkedWrite
  /-- Physical memory, byte by byte: L2's copy where L2 holds the sector valid, and else what lies behind L2
  (HBM, host memory, another device). Addresses strictly rising, no entry equal to the value of an unlisted
  address. -/
  mem      : List Host.Cell
  /-- The lines of L2 by line number (R92, R93). -/
  l2       : Tbl L2Line
  /-- What host and remote bytes held before the latest write of the device to each (R441, R446): a write that
  its target drops leaves them so. -/
  posted   : List Host.Cell
  /-- What the host's memory holds where it differs from the copy that L2 has taken: the host wrote it after L2 took
  a line that it does not snoop (R411, R442). -/
  hostMem  : List Host.Cell
  /-- Poisoned sectors (R99). -/
  poison   : List Nat
  /-- Those whose poison stands in L2 only, and not yet in the memory behind it (R101). -/
  l2Poison : List Nat
  /-- Clean sectors of L2 in error, not yet fetched again (R431). -/
  broken   : List Nat
  /-- The granule code a byte was last written under where it is not G256 (R101). -/
  grain    : Tbl (BitVec 2)
  time     : Word
  boot     : Boot
  mgmt     : Mgmt
  hamlets  : Tbl Hamlet
  dieLogs  : Tbl DieLog
  regions  : Tbl HashRegion
  hqs      : Tbl HostQueue
  ports    : Tbl Port
  peers    : List PeerCmd
  /-- The answer of the latest host read (R440). -/
  hostOut  : List Byte
  /-- MODEL'S OWN: the counter the free values are drawn from. -/
  free     : Nat
  /-- MODEL'S OWN: the core that moved last without an agenda. -/
  turn     : Nat
  /-- MODEL'S OWN: which agents move next. -/
  agenda   : List Mover
deriving DecidableEq, Repr

/-! ### Reset -/

/-- A vector register with nothing defined in it. -/
def VReg.undef (tag : Nat) : VReg := ⟨0, 0, tag⟩

/-- The user-level registers at reset (R258, R84, R67, R192). -/
def Csr.reset : Csr where
  vl := 0
  vt := 0
  vstart := 0
  valloc := 262144
  efr := 0
  fcsr := 0
  det := false
  check := 2
  pmark := 0
  alead := 16
  pairto := 4096
  cycle := 0
  stallv := 0
  stallm := 0
  stallc := 0
  loopn := Vector.replicate 4 0

/-- The supervisor registers at reset (R372, R374). -/
def TrapRegs.reset : TrapRegs where
  priv := false
  ie := false
  tvec := 0
  vectored := false
  tcause := 0
  tval := 0
  tpc := 0
  vpart := false
  pie := false
  ppriv := false
  tscratch := 0
  ctxid := 0

/-- No kernel's bounds (assumption log 2). -/
def Bounds.none : Bounds where
  vregs := 0
  accs := 0
  barriers := 0
  seqs := 0
  scratch := 0
  paired := false
  marks := Vector.replicate 8 0xFF

/-- A head of a reset chain: M = −∞, Σ = +0, α = 1.0 (R334). -/
def Head.reset : Head where
  m := 0xFF800000
  sigma := 0
  alpha := 0x3F800000
  s := Vector.replicate 16 0
  valid := 0

/-- The reset chain (R334). -/
def Chain.reset : Chain := ⟨Vector.replicate 64 Head.reset, .empty⟩

/-- An advice context with no advice bound (R187, R199). -/
def Adv.reset : Adv where
  g := Vector.replicate 8 0
  apc := 0
  amark := 0
  aprio := 1
  aorder := 0
  dropq := 0
  dropx := 0
  drops := 0
  stop := 0
  refused := false
  st := .unbound
  snap := Vector.replicate 8 0
  snapMark := 0
  code := 0
  codeSize := 0
  pins := []
  stages := []
  fills := []
  asks := 0

/-- A hart with no launch: every register at the reset value the manual gives, and zero where it
gives none (assumption log 2). -/
def Hart.reset : Hart where
  uid := 0
  ctx := 0
  core := 0
  slot := 0
  status := .exited
  saved := false
  holdReq := false
  saveReq := none
  saveFrom := 0
  reason := .preempt
  readyAt := 0
  issuedAt := 0
  saveIdx := none
  pc := 0
  x := Vector.replicate 32 0
  f := Vector.replicate 32 0
  k := Vector.replicate 8 0
  v := Vector.replicate 32 (VReg.undef 0)
  sq := Vector.replicate 8 none
  csr := Csr.reset
  trap := TrapRegs.reset
  dirtyv := 0
  bounds := Bounds.none
  brim := 16
  seed := 0
  grant := ⟨0, 0⟩
  holds := false
  reclaimed := false
  required := 0
  target := ⟨0, 0⟩
  targetAt := 0
  acc := []
  accTag := 0
  tb := Vector.replicate 2 none
  chain := Chain.reset
  queue := []
  qwait := .none
  replay := none
  copyq := []
  journal := []
  adv := Adv.reset
  arrived := 0
  phase := Vector.replicate 16 0
  scr := []
  scrTag := 0
  scrBad := []
  tlb := []
  ibuf := []
  entry := none
  l0 := []
  relScl := false
  relVec := false
  wait := .none
  irqSoft := none
  irqMail := none
  pairs := 0
  sample := 0
  sleepAt := 0
  cut := none
  lag := false
  pending := []
  delay := []
  trouble := none

/-- A core at reset: empty L1, phase counters 0 (R251), no vector translation table. The manual gives no split S
before the dispatcher chooses one; the model's is 0 (R78; DESIGN CHOICE, assumption logs 2 and 29). -/
def Core.reset : Core where
  l1 := []
  gathered := []
  vttCtx := none
  vtt := []
  phase := Vector.replicate 16 0
  split := 0
  tickAt := 0
  turn := 0

/-- A new context's registers (R373, R374, R376). -/
def Ctx.reset : Ctx where
  part := 0
  tvec := 0
  vlcap := 16
  sttbEn := false
  sttb := 0
  vttbEn := false
  vttb := 0
  vwbase := 0
  seed := 0
  notifyEn := false
  notify := 0
  notLog := 0
  nhead := 0
  ntail := 0
  lost := 0
  arenaEn := false
  arena := 0
  arenaLog := 0
  poolCnt := 0
  pool := 0
  hlbase := 0
  abrefuse := 0
  areas := []
  kernels := []
  ringBase := 0
  ringLog := 0
  ringHead := 0
  ringTail := 0
  seqs := []
  gens := []
  blocks := []
  moved := []
  freeList := []
  poolNext := 0
  poolEnd := 0
  bigNext := 0
  bigEnd := 0

/-- A hamlet at reset: top frequencies, unthrottled (R453, R455; assumption log 2). -/
def Hamlet.reset : Hamlet where
  scalar := 3600
  lane := 1800
  vmu := 2400
  throttle := 0
  trace := []
  traceOvf := 0

/-- An empty error log (assumption log 2). -/
def DieLog.reset : DieLog := ⟨[], 0⟩

/-- A port at reset (assumption log 2). -/
def Port.reset : Port where
  st := .up
  since := 0
  expected := 0
  retries := 0
  replay := false
  flits := []
  retry := []
  sendq := []

/-- An empty mailbox (assumption log 2). -/
def Mailbox.reset : Mailbox := ⟨List.replicate 64 0, none, 0, [], false⟩

/-- Management state at reset: no owner (R450), quantum 200 µs (R393), collective timeout 1 s
(R446), power limit at its maximum (R453; assumption log 2). -/
def Mgmt.reset : Mgmt where
  owner := 0
  lease := 0
  leaseEnd := 0
  handTo := 0
  handEnd := 0
  mboxes := []
  parts := []
  apertures := []
  ownDevice := 0
  present := 0
  collNs := 1000000000
  powerLimit := 2400
  quotes := 0
  quantumUs := 200
  slotB := false

/-- The device right after reset: TIME 0, power on not yet run (R457), memory with nothing listed. -/
def State.reset : State where
  hart := Hart.reset
  others := []
  cores := []
  ctxs := []
  launches := []
  nextLaunch := 1
  parkedCw := []
  mem := []
  l2 := []
  posted := []
  hostMem := []
  poison := []
  l2Poison := []
  broken := []
  grain := []
  time := 0
  boot := .off
  mgmt := Mgmt.reset
  hamlets := []
  dieLogs := []
  regions := []
  hqs := []
  ports := []
  peers := []
  hostOut := []
  free := 0
  turn := 0
  agenda := []

end Sys2Proof.Machine
end

