-- ==== Sys2Proof/Decode.lean ====
section
/-! DEFINITION. The decoder of semantic words (R212 to R222, R230 checks 1 to 3) and of advice words
(R203 to R205), and after them the encoder, written from the same tables. -/

namespace Sys2Proof

/-- Why a semantic word is refused by checks 1 to 3 of R230; each raises cause 0x000 + major. -/
inductive DecodeError where
  | majorUnallocated
  | functionUnallocated
  | reservedField
deriving DecidableEq, Repr

/-- Why an advice word stops its context (R205). -/
inductive AdviceError where
  | unallocated      -- STOP 1
  | unusedField      -- STOP 2
  | reservedSelector -- STOP 3
deriving DecidableEq, Repr

/-- The STOP code of an advice word that is refused (R205). -/
def AdviceError.stop : AdviceError → Nat
  | .unallocated => 1 | .unusedField => 2 | .reservedSelector => 3

/-- Bits [lo + n - 1 : lo] of a word (R2). -/
def fld (w : IWord) (lo n : Nat) : BitVec n := w.extractLsb' lo n

/-- The instruction, if its reserved fields hold zero and its register values are in range. -/
def rsv (ok : Bool) (i : Instr) : Except DecodeError Instr :=
  if ok then .ok i else .error .reservedField

/-- The scope of a code (R106); codes 5 to 7 are reserved. -/
def scopeOf (c : BitVec 3) : Option Scope :=
  match c.toNat with
  | 0 => some .hart | 1 => some .core | 2 => some .die | 3 => some .device | 4 => some .domain
  | _ => none

/-- The path of a code (R106); codes 6 and 7 are reserved. -/
def pathOf (c : BitVec 3) : Option Path :=
  match c.toNat with
  | 0 => some .scl | 1 => some .vec | 2 => some .mtx | 3 => some .cpy | 4 => some .lnk | 5 => some .seq
  | _ => none

/-- The order of a fence (R247). -/
def orderOf (c : BitVec 2) : FenceOrder :=
  match c.toNat with
  | 0 => .acq | 1 => .rel | 2 => .ar | _ => .full

/-- The instruction with the scope of a code, if the code is allocated and `ok` holds. -/
def withScope (c : BitVec 3) (ok : Bool) (f : Scope → Instr) : Except DecodeError Instr :=
  match scopeOf c with
  | some sc => rsv ok (f sc)
  | none => .error .reservedField

/-- The second source of a V word (R214). -/
def vsrcOf (form : BitVec 2) (b : Reg) : VSrc :=
  match form.toNat with
  | 0 => .vv b | 1 => .vx b | 2 => .vi b | _ => .vf b

/-- The row operand of an MX word (R214), if bit 12 is zero where it is reserved. -/
def rowOf (form : BitVec 1) (row : BitVec 6) : Option Row :=
  match form.toNat with
  | 0 => some (.const row)
  | _ => if row.toNat < 32 then some (.reg (row.truncate 5)) else none

/-- Whether a 5-bit field names one of eight registers (R216). -/
def below8 (r : BitVec 5) : Bool := r.toNat < 8

/-- The 3-bit register number in a 5-bit field (R216). -/
def lo3 (r : BitVec 5) : BitVec 3 := r.truncate 3

/-! ## Fields of the formats (R212) -/

/-- RR fn6. -/
def rrFn (w : IWord) : Nat := (fld w 26 6).toNat
/-- RR and V b. -/
def rrB (w : IWord) : Reg := fld w 21 5
/-- RR and V a. -/
def rrA (w : IWord) : Reg := fld w 16 5
/-- RR and V d. -/
def rrD (w : IWord) : Reg := fld w 11 5
/-- RR m5. -/
def rrM (w : IWord) : Reg := fld w 6 5
/-- V and VM k. -/
def vK (w : IWord) : KReg := fld w 8 3
/-- V form, VM hint. -/
def vForm (w : IWord) : BitVec 2 := fld w 6 2
/-- RI imm16, B off16. -/
def riImm (w : IWord) : BitVec 16 := fld w 16 16
/-- RI and B a. -/
def riA (w : IWord) : Reg := fld w 11 5
/-- RI d, B b. -/
def riD (w : IWord) : Reg := fld w 6 5

/-- INT, major 0x01 (R219, R237). -/
def decodeInt (w : IWord) : Except DecodeError Instr :=
  match rrFn w with
  | 0 => rsv (rrM w == 0) (.add (rrD w) (rrA w) (rrB w))
  | 1 => rsv (rrM w == 0) (.sub (rrD w) (rrA w) (rrB w))
  | 2 => rsv (rrM w == 0) (.and (rrD w) (rrA w) (rrB w))
  | 3 => rsv (rrM w == 0) (.or (rrD w) (rrA w) (rrB w))
  | 4 => rsv (rrM w == 0) (.xor (rrD w) (rrA w) (rrB w))
  | 5 => rsv (rrM w == 0) (.sll (rrD w) (rrA w) (rrB w))
  | 6 => rsv (rrM w == 0) (.srl (rrD w) (rrA w) (rrB w))
  | 7 => rsv (rrM w == 0) (.sra (rrD w) (rrA w) (rrB w))
  | 8 => rsv (rrM w == 0) (.slt (rrD w) (rrA w) (rrB w))
  | 9 => rsv (rrM w == 0) (.sltu (rrD w) (rrA w) (rrB w))
  | 10 => rsv (rrM w == 0) (.mul (rrD w) (rrA w) (rrB w))
  | 11 => rsv (rrM w == 0) (.mulh (rrD w) (rrA w) (rrB w))
  | 12 => rsv (rrM w == 0) (.mulhu (rrD w) (rrA w) (rrB w))
  | 13 => rsv (rrM w == 0) (.div (rrD w) (rrA w) (rrB w))
  | 14 => rsv (rrM w == 0) (.divu (rrD w) (rrA w) (rrB w))
  | 15 => rsv (rrM w == 0) (.rem (rrD w) (rrA w) (rrB w))
  | 16 => rsv (rrM w == 0) (.remu (rrD w) (rrA w) (rrB w))
  | 17 => rsv (rrM w == 0) (.min (rrD w) (rrA w) (rrB w))
  | 18 => rsv (rrM w == 0) (.max (rrD w) (rrA w) (rrB w))
  | 19 => rsv (rrM w == 0) (.minu (rrD w) (rrA w) (rrB w))
  | 20 => rsv (rrM w == 0) (.maxu (rrD w) (rrA w) (rrB w))
  | 21 => rsv (rrM w == 0 && rrB w == 0) (.clz (rrD w) (rrA w))
  | 22 => rsv (rrM w == 0 && rrB w == 0) (.ctz (rrD w) (rrA w))
  | 23 => rsv (rrM w == 0 && rrB w == 0) (.popc (rrD w) (rrA w))
  | 24 => rsv (rrM w == 0 && rrB w == 0) (.jalr (rrD w) (rrA w))
  | _ => .error .functionUnallocated

/-- SHI, major 0x09 (R218). -/
def decodeShi (w : IWord) : Except DecodeError Instr :=
  match (fld w 22 2).toNat with
  | 0 => rsv (fld w 24 8 == 0) (.slli (riD w) (riA w) (fld w 16 6))
  | 1 => rsv (fld w 24 8 == 0) (.srli (riD w) (riA w) (fld w 16 6))
  | 2 => rsv (fld w 24 8 == 0) (.srai (riD w) (riA w) (fld w 16 6))
  | _ => .error .functionUnallocated

/-- AMO, major 0x28 (R245). -/
def decodeAmo (w : IWord) : Except DecodeError Instr :=
  match (fld w 26 5).toNat with
  | 0 => withScope (fld w 6 3) true (fun sc => .amoswap (rrD w) (rrA w) (rrB w) (fld w 31 1 == 1) (fld w 10 1 == 1) (fld w 9 1 == 1) sc)
  | 1 => withScope (fld w 6 3) true (fun sc => .amocas (rrD w) (rrA w) (rrB w) (fld w 31 1 == 1) (fld w 10 1 == 1) (fld w 9 1 == 1) sc)
  | 2 => withScope (fld w 6 3) true (fun sc => .amoadd (rrD w) (rrA w) (rrB w) (fld w 31 1 == 1) (fld w 10 1 == 1) (fld w 9 1 == 1) sc)
  | 3 => withScope (fld w 6 3) true (fun sc => .amoand (rrD w) (rrA w) (rrB w) (fld w 31 1 == 1) (fld w 10 1 == 1) (fld w 9 1 == 1) sc)
  | 4 => withScope (fld w 6 3) true (fun sc => .amoor (rrD w) (rrA w) (rrB w) (fld w 31 1 == 1) (fld w 10 1 == 1) (fld w 9 1 == 1) sc)
  | 5 => withScope (fld w 6 3) true (fun sc => .amoxor (rrD w) (rrA w) (rrB w) (fld w 31 1 == 1) (fld w 10 1 == 1) (fld w 9 1 == 1) sc)
  | _ => .error .functionUnallocated

/-- SYNC, major 0x29 (R247 to R251). -/
def decodeSync (w : IWord) : Except DecodeError Instr :=
  match rrFn w with
  | 0 => withScope (fld w 6 3) (rrA w == 0 && rrD w == 0 && fld w 23 3 == 0 && fld w 9 2 == 0) (fun sc => .fence (orderOf (fld w 21 2)) sc)
  | 1 => match pathOf (fld w 16 3), pathOf (fld w 21 3) with
    | some p, some q => withScope (fld w 6 3) (p != q && fld w 19 2 == 0 && fld w 24 2 == 0 && rrD w == 0 && fld w 9 2 == 0) (fun sc => .fenceP p q sc)
    | _, _ => .error .reservedField
  | 2 => withScope (fld w 6 3) (fld w 10 1 == 0) (fun sc => .waitaEq (rrD w) (rrA w) (rrB w) (fld w 9 1 == 1) sc)
  | 3 => withScope (fld w 6 3) (fld w 10 1 == 0) (fun sc => .waitaNe (rrD w) (rrA w) (rrB w) (fld w 9 1 == 1) sc)
  | 4 => withScope (fld w 6 3) (fld w 10 1 == 0) (fun sc => .waitaLt (rrD w) (rrA w) (rrB w) (fld w 9 1 == 1) sc)
  | 5 => withScope (fld w 6 3) (fld w 10 1 == 0) (fun sc => .waitaGe (rrD w) (rrA w) (rrB w) (fld w 9 1 == 1) sc)
  | 6 => withScope (fld w 6 3) (fld w 10 1 == 0) (fun sc => .waitaLtu (rrD w) (rrA w) (rrB w) (fld w 9 1 == 1) sc)
  | 7 => withScope (fld w 6 3) (fld w 10 1 == 0) (fun sc => .waitaGeu (rrD w) (rrA w) (rrB w) (fld w 9 1 == 1) sc)
  | 8 => rsv (rrA w == 0 && rrB w == 0 && rrD w == 0 && fld w 10 1 == 0) (.barArrive (fld w 6 4))
  | 9 => rsv (rrA w == 0 && rrB w == 0 && rrD w == 0 && fld w 10 1 == 0) (.barWait (fld w 6 4))
  | _ => .error .functionUnallocated

/-- FP, major 0x2A (R254). -/
def decodeFp (w : IWord) : Except DecodeError Instr :=
  match (fld w 26 5).toNat with
  | 0 => rsv (rrM w == 0) (.fadd (rrD w) (rrA w) (rrB w) (fld w 31 1 == 1))
  | 1 => rsv (rrM w == 0) (.fsub (rrD w) (rrA w) (rrB w) (fld w 31 1 == 1))
  | 2 => rsv (rrM w == 0) (.fmul (rrD w) (rrA w) (rrB w) (fld w 31 1 == 1))
  | 3 => rsv (rrM w == 0) (.fdiv (rrD w) (rrA w) (rrB w) (fld w 31 1 == 1))
  | 4 => rsv (rrM w == 0 && rrB w == 0) (.fsqrt (rrD w) (rrA w) (fld w 31 1 == 1))
  | 5 => .ok (.fma (rrD w) (rrA w) (rrB w) (rrM w) (fld w 31 1 == 1))
  | 6 => rsv (rrM w == 0) (.fmin (rrD w) (rrA w) (rrB w) (fld w 31 1 == 1))
  | 7 => rsv (rrM w == 0) (.fmax (rrD w) (rrA w) (rrB w) (fld w 31 1 == 1))
  | 8 => rsv (rrM w == 0) (.feq (rrD w) (rrA w) (rrB w) (fld w 31 1 == 1))
  | 9 => rsv (rrM w == 0) (.flt (rrD w) (rrA w) (rrB w) (fld w 31 1 == 1))
  | 10 => rsv (rrM w == 0) (.fle (rrD w) (rrA w) (rrB w) (fld w 31 1 == 1))
  | 11 => rsv (rrM w == 0 && rrB w == 0) (.fcvtFX (rrD w) (rrA w) (fld w 31 1 == 1))
  | 12 => rsv (rrM w == 0 && rrB w == 0) (.fcvtXF (rrD w) (rrA w) (fld w 31 1 == 1))
  | 13 => rsv (rrM w == 0 && rrB w == 0) (.fmvFX (rrD w) (rrA w) (fld w 31 1 == 1))
  | 14 => rsv (rrM w == 0 && rrB w == 0) (.fmvXF (rrD w) (rrA w) (fld w 31 1 == 1))
  | 15 => rsv (rrM w == 0) (.fsgnj (rrD w) (rrA w) (rrB w) (fld w 31 1 == 1))
  | _ => .error .functionUnallocated

/-- SYS, major 0x2B (R256). Whether the register number is allocated depends on the level, so it is checked when the instruction executes (R230). -/
def decodeSys (w : IWord) : Except DecodeError Instr :=
  match (fld w 6 4).toNat with
  | 0 => rsv (fld w 15 5 == 0) (.cread (fld w 10 5) (fld w 20 12))
  | 1 => rsv (fld w 10 5 == 0) (.cwrite (fld w 20 12) (fld w 15 5))
  | 2 => rsv (fld w 10 5 == 0) (.cbset (fld w 20 12) (fld w 15 5))
  | 3 => rsv (fld w 10 5 == 0) (.cbclr (fld w 20 12) (fld w 15 5))
  | 4 => rsv (fld w 26 6 == 0 && fld w 10 10 == 0) (.syscall (fld w 20 6))
  | 5 => rsv (fld w 26 6 == 0 && fld w 10 10 == 0) (.brk (fld w 20 6))
  | 6 => rsv (fld w 10 22 == 0) .tret
  | 7 => rsv (fld w 10 22 == 0) .wfi
  | 8 => rsv (fld w 20 12 == 0 && fld w 10 5 == 0) (.tfenceS (fld w 15 5))
  | 9 => rsv (fld w 20 12 == 0 && fld w 10 5 == 0) (.tfenceV (fld w 15 5))
  | _ => .error .functionUnallocated

/-- VCFG, major 0x2D (R266, R267, R355). -/
def decodeVcfg (w : IWord) : Except DecodeError Instr :=
  match rrFn w with
  | 0 => rsv (rrB w == 0 && rrM w == 0) (.setvl (rrD w) (rrA w))
  | 1 => rsv (rrM w == 0) (.claim (rrD w) (rrA w) (rrB w))
  | 2 => rsv (rrB w == 0 && rrM w == 0) (.vpidx (rrD w) (rrA w))
  | _ => .error .functionUnallocated

/-- VINT, major 0x2E (R276): forms vv, vx and vi (R222). -/
def decodeVint (w : IWord) : Except DecodeError Instr :=
  match rrFn w with
  | 0 => rsv (vForm w != 3) (.vadd (rrD w) (rrA w) (vsrcOf (vForm w) (rrB w)) (vK w))
  | 1 => rsv (vForm w != 3) (.vsub (rrD w) (rrA w) (vsrcOf (vForm w) (rrB w)) (vK w))
  | 2 => rsv (vForm w != 3) (.vmul (rrD w) (rrA w) (vsrcOf (vForm w) (rrB w)) (vK w))
  | 3 => rsv (vForm w != 3) (.vmulh (rrD w) (rrA w) (vsrcOf (vForm w) (rrB w)) (vK w))
  | 4 => rsv (vForm w != 3) (.vdiv (rrD w) (rrA w) (vsrcOf (vForm w) (rrB w)) (vK w))
  | 5 => rsv (vForm w != 3) (.vrem (rrD w) (rrA w) (vsrcOf (vForm w) (rrB w)) (vK w))
  | 6 => rsv (vForm w != 3) (.vand (rrD w) (rrA w) (vsrcOf (vForm w) (rrB w)) (vK w))
  | 7 => rsv (vForm w != 3) (.vor (rrD w) (rrA w) (vsrcOf (vForm w) (rrB w)) (vK w))
  | 8 => rsv (vForm w != 3) (.vxor (rrD w) (rrA w) (vsrcOf (vForm w) (rrB w)) (vK w))
  | 9 => rsv (vForm w != 3) (.vsll (rrD w) (rrA w) (vsrcOf (vForm w) (rrB w)) (vK w))
  | 10 => rsv (vForm w != 3) (.vsrl (rrD w) (rrA w) (vsrcOf (vForm w) (rrB w)) (vK w))
  | 11 => rsv (vForm w != 3) (.vsra (rrD w) (rrA w) (vsrcOf (vForm w) (rrB w)) (vK w))
  | 12 => rsv (vForm w != 3) (.vmin (rrD w) (rrA w) (vsrcOf (vForm w) (rrB w)) (vK w))
  | 13 => rsv (vForm w != 3) (.vmax (rrD w) (rrA w) (vsrcOf (vForm w) (rrB w)) (vK w))
  | 14 => rsv (vForm w != 3) (.vsadd (rrD w) (rrA w) (vsrcOf (vForm w) (rrB w)) (vK w))
  | 15 => rsv (vForm w != 3) (.vssub (rrD w) (rrA w) (vsrcOf (vForm w) (rrB w)) (vK w))
  | 16 => rsv (vForm w != 3) (.vmerge (rrD w) (rrA w) (vsrcOf (vForm w) (rrB w)) (vK w))
  | 17 => rsv (vForm w == 0 && rrB w == 0) (.vmv (rrD w) (rrA w) (vK w))
  | _ => .error .functionUnallocated

/-- VFP, major 0x2F (R278): forms vv and vf (R222). -/
def decodeVfp (w : IWord) : Except DecodeError Instr :=
  match rrFn w with
  | 0 => rsv (vForm w == 0 || vForm w == 3) (.vfadd (rrD w) (rrA w) (vsrcOf (vForm w) (rrB w)) (vK w))
  | 1 => rsv (vForm w == 0 || vForm w == 3) (.vfsub (rrD w) (rrA w) (vsrcOf (vForm w) (rrB w)) (vK w))
  | 2 => rsv (vForm w == 0 || vForm w == 3) (.vfmul (rrD w) (rrA w) (vsrcOf (vForm w) (rrB w)) (vK w))
  | 3 => rsv (vForm w == 0 || vForm w == 3) (.vfdiv (rrD w) (rrA w) (vsrcOf (vForm w) (rrB w)) (vK w))
  | 4 => rsv (vForm w == 0 || vForm w == 3) (.vfma (rrD w) (rrA w) (vsrcOf (vForm w) (rrB w)) (vK w))
  | 5 => rsv (vForm w == 0 || vForm w == 3) (.vfms (rrD w) (rrA w) (vsrcOf (vForm w) (rrB w)) (vK w))
  | 6 => rsv (vForm w == 0 || vForm w == 3) (.vfnma (rrD w) (rrA w) (vsrcOf (vForm w) (rrB w)) (vK w))
  | 7 => rsv (vForm w == 0 || vForm w == 3) (.vfmin (rrD w) (rrA w) (vsrcOf (vForm w) (rrB w)) (vK w))
  | 8 => rsv (vForm w == 0 || vForm w == 3) (.vfmax (rrD w) (rrA w) (vsrcOf (vForm w) (rrB w)) (vK w))
  | 9 => rsv (vForm w == 0 && rrB w == 0) (.vfsqrt (rrD w) (rrA w) (vK w))
  | 10 => rsv (vForm w == 0 && rrB w == 0) (.vfrsqrt (rrD w) (rrA w) (vK w))
  | 11 => rsv (vForm w == 0 && rrB w == 0) (.vfexp (rrD w) (rrA w) (vK w))
  | 12 => rsv (vForm w == 0 || vForm w == 3) (.vfsgnj (rrD w) (rrA w) (vsrcOf (vForm w) (rrB w)) (vK w))
  | 13 => rsv (vForm w == 0 && rrB w == 0) (.vfcvtXF (rrD w) (rrA w) (vK w))
  | 14 => rsv (vForm w == 0 && rrB w == 0) (.vfcvtFX (rrD w) (rrA w) (vK w))
  | 15 => rsv (vForm w == 0 && rrB w == 0) (.vfclass (rrD w) (rrA w) (vK w))
  | _ => .error .functionUnallocated

/-- VCMP, major 0x30 (R280, R281). -/
def decodeVcmp (w : IWord) : Except DecodeError Instr :=
  match rrFn w with
  | 0 => rsv (below8 (rrD w) && rrD w != 0) (.vcmpEq (lo3 (rrD w)) (rrA w) (vsrcOf (vForm w) (rrB w)) (vK w))
  | 1 => rsv (below8 (rrD w) && rrD w != 0) (.vcmpNe (lo3 (rrD w)) (rrA w) (vsrcOf (vForm w) (rrB w)) (vK w))
  | 2 => rsv (below8 (rrD w) && rrD w != 0) (.vcmpLt (lo3 (rrD w)) (rrA w) (vsrcOf (vForm w) (rrB w)) (vK w))
  | 3 => rsv (below8 (rrD w) && rrD w != 0) (.vcmpLe (lo3 (rrD w)) (rrA w) (vsrcOf (vForm w) (rrB w)) (vK w))
  | 4 => rsv (below8 (rrD w) && rrD w != 0) (.vcmpGt (lo3 (rrD w)) (rrA w) (vsrcOf (vForm w) (rrB w)) (vK w))
  | 5 => rsv (below8 (rrD w) && rrD w != 0) (.vcmpGe (lo3 (rrD w)) (rrA w) (vsrcOf (vForm w) (rrB w)) (vK w))
  | 6 => rsv (vForm w == 0 && vK w == 0 && below8 (rrA w) && below8 (rrB w) && below8 (rrD w) && rrD w != 0) (.kand (lo3 (rrD w)) (lo3 (rrA w)) (lo3 (rrB w)))
  | 7 => rsv (vForm w == 0 && vK w == 0 && below8 (rrA w) && below8 (rrB w) && below8 (rrD w) && rrD w != 0) (.kor (lo3 (rrD w)) (lo3 (rrA w)) (lo3 (rrB w)))
  | 8 => rsv (vForm w == 0 && vK w == 0 && below8 (rrA w) && below8 (rrB w) && below8 (rrD w) && rrD w != 0) (.kxor (lo3 (rrD w)) (lo3 (rrA w)) (lo3 (rrB w)))
  | 9 => rsv (vForm w == 0 && vK w == 0 && below8 (rrA w) && rrB w == 0 && below8 (rrD w) && rrD w != 0) (.knot (lo3 (rrD w)) (lo3 (rrA w)))
  | 10 => rsv (vForm w == 0 && vK w == 0 && below8 (rrA w) && rrB w == 0) (.kany (rrD w) (lo3 (rrA w)))
  | 11 => rsv (vForm w == 0 && vK w == 0 && below8 (rrA w) && rrB w == 0) (.kall (rrD w) (lo3 (rrA w)))
  | 12 => rsv (vForm w == 0 && vK w == 0 && below8 (rrA w) && rrB w == 0) (.kcount (rrD w) (lo3 (rrA w)))
  | _ => .error .functionUnallocated

/-- VPERM, major 0x31 (R282 to R285). -/
def decodeVperm (w : IWord) : Except DecodeError Instr :=
  match rrFn w with
  | 0 => rsv (vForm w != 3 && !(vForm w == 2 && (rrB w).msb)) (.vshup (rrD w) (rrA w) (vsrcOf (vForm w) (rrB w)) (vK w))
  | 1 => rsv (vForm w != 3 && !(vForm w == 2 && (rrB w).msb)) (.vshdn (rrD w) (rrA w) (vsrcOf (vForm w) (rrB w)) (vK w))
  | 2 => rsv (vForm w == 0) (.vpick (rrD w) (rrA w) (rrB w) (vK w))
  | 3 => rsv (vForm w == 0 && rrB w == 0) (.vcondense (rrD w) (rrA w) (vK w))
  | 4 => rsv (vForm w == 0 && rrB w == 0) (.vrev (rrD w) (rrA w) (vK w))
  | 5 => rsv (vForm w == 0 || vForm w == 1) (.vbcast (rrD w) (rrA w) (vsrcOf (vForm w) (rrB w)) (vK w))
  | 6 => rsv (vForm w == 0 || vForm w == 1) (.vinsx (rrD w) (rrA w) (vsrcOf (vForm w) (rrB w)) (vK w))
  | 7 => rsv (vForm w == 1 && vK w == 0) (.vextx (rrD w) (rrA w) (rrB w))
  | 8 => rsv (vForm w == 0) (.vredsumO (rrD w) (rrA w) (rrB w) (vK w))
  | 9 => rsv (vForm w == 0) (.vredsum (rrD w) (rrA w) (rrB w) (vK w))
  | 10 => rsv (vForm w == 0) (.vredmax (rrD w) (rrA w) (rrB w) (vK w))
  | 11 => rsv (vForm w == 0) (.vredmin (rrD w) (rrA w) (rrB w) (vK w))
  | 12 => rsv (vForm w == 0) (.vsegredO (rrD w) (rrA w) (rrB w) (vK w))
  | 13 => rsv (vForm w == 0) (.vscanO (rrD w) (rrA w) (rrB w) (vK w))
  | 14 => rsv (vForm w == 0) (.vscan (rrD w) (rrA w) (rrB w) (vK w))
  | 15 => rsv (vForm w == 0) (.vscanmax (rrD w) (rrA w) (rrB w) (vK w))
  | _ => .error .functionUnallocated

/-- VNAR, major 0x32 (R286). -/
def decodeVnar (w : IWord) : Except DecodeError Instr :=
  match (fld w 6 3).toNat with
  | 0 => .ok (.vdot16 (fld w 12 5) (fld w 17 5) (fld w 22 5) (fld w 27 5) (fld w 9 3))
  | 1 => rsv (fld w 22 5 == 0) (.vquant (fld w 12 5) (fld w 17 5) (fld w 27 5) (fld w 9 3))
  | 2 => rsv (fld w 22 5 == 0) (.vdeq (fld w 12 5) (fld w 17 5) (fld w 27 5) (fld w 9 3))
  | 3 => rsv (fld w 22 5 == 0) (.vbpack (fld w 12 5) (fld w 17 5) (fld w 27 5) (fld w 9 3))
  | 4 => rsv (fld w 22 5 == 0) (.vbunpack (fld w 12 5) (fld w 17 5) (fld w 27 5) (fld w 9 3))
  | 5 => rsv (fld w 22 5 == 0) (.vcvt (fld w 12 5) (fld w 17 5) (fld w 27 5) (fld w 9 3))
  | _ => .error .functionUnallocated

/-- VATT, major 0x33 (R332). -/
def decodeVatt (w : IWord) : Except DecodeError Instr :=
  match rrFn w with
  | 0 => rsv (vForm w == 1 && rrD w == 0) (.vscore (rrA w) (rrB w) (vK w))
  | 1 => rsv (vForm w == 0 && rrD w == 0 && rrA w == 0 && rrB w == 0 && vK w == 0) .vexpm
  | 2 => rsv (vForm w == 1 && rrA w == 0 && vK w == 0) (.vaccv (rrD w) (rrB w))
  | 3 => rsv (vForm w == 0 && rrA w == 0 && rrB w == 0 && vK w == 0) (.vsegmax (rrD w))
  | 4 => rsv (vForm w == 0 && rrA w == 0 && rrB w == 0 && vK w != 0) (.vsegsum (rrD w) (vK w))
  | 5 => rsv (vForm w == 1) (.vbound (rrD w) (rrA w) (rrB w) (vK w))
  | 6 => rsv (vForm w == 1) (.vtopk (rrD w) (rrA w) (rrB w) (vK w))
  | 7 => rsv (vForm w == 1) (.vrand (rrD w) (rrA w) (rrB w) (vK w))
  | 8 => rsv (vForm w == 0) (.vsamp (rrD w) (rrA w) (rrB w) (vK w))
  | 9 => rsv (vForm w == 0 && rrB w == 0) (.vargmax (rrD w) (rrA w) (vK w))
  | 10 => rsv (vForm w == 0) (.vspeck (rrD w) (rrA w) (rrB w) (vK w))
  | _ => .error .functionUnallocated

/-- VLD, major 0x34 (R292). -/
def decodeVld (w : IWord) : Except DecodeError Instr :=
  match rrFn w with
  | 0 => rsv (rrB w == 0) (.vld (rrD w) (rrA w) (vK w) (vForm w))
  | 1 => .ok (.vlds (rrD w) (rrA w) (rrB w) (vK w) (vForm w))
  | 2 => .ok (.vldx (rrD w) (rrA w) (rrB w) (vK w) (vForm w))
  | 3 => rsv (rrB w == 0 && vK w == 0) (.vldp (rrD w) (rrA w) (vForm w))
  | 4 => rsv (rrB w == 0 && vForm w == 0) (.vldNc (rrD w) (rrA w) (vK w))
  | 5 => rsv (vForm w == 0) (.vldsNc (rrD w) (rrA w) (rrB w) (vK w))
  | 6 => rsv (vForm w == 0) (.vldxNc (rrD w) (rrA w) (rrB w) (vK w))
  | _ => .error .functionUnallocated

/-- VST, major 0x35 (R292). -/
def decodeVst (w : IWord) : Except DecodeError Instr :=
  match rrFn w with
  | 0 => rsv (rrB w == 0) (.vst (rrD w) (rrA w) (vK w) (vForm w))
  | 1 => .ok (.vsts (rrD w) (rrA w) (rrB w) (vK w) (vForm w))
  | 2 => .ok (.vstx (rrD w) (rrA w) (rrB w) (vK w) (vForm w))
  | 3 => .ok (.vstxO (rrD w) (rrA w) (rrB w) (vK w) (vForm w))
  | 4 => .ok (.vstxAdd (rrD w) (rrA w) (rrB w) (vK w) (vForm w))
  | _ => .error .functionUnallocated

/-- SQV, major 0x36 (R292). -/
def decodeSqv (w : IWord) : Except DecodeError Instr :=
  match rrFn w with
  | 0 => rsv (vForm w == 0 && below8 (rrA w)) (.sqst (rrD w) (lo3 (rrA w)) (rrB w) (vK w))
  | 1 => rsv (vForm w == 0 && below8 (rrA w) && vK w != 0) (.sqld (rrD w) (vK w) (lo3 (rrA w)) (rrB w))
  | _ => .error .functionUnallocated

/-- VAMO.C, major 0x0A (R220). -/
def decodeVamoC (w : IWord) : Except DecodeError Instr :=
  match (fld w 29 3).toNat with
  | 0 => .ok (.vamoaddC (rrD w) (rrA w) (rrB w) (vK w) (vForm w) (fld w 28 1 == 1) (fld w 27 1 == 1) (fld w 26 1 == 1))
  | 1 => .ok (.vamoandC (rrD w) (rrA w) (rrB w) (vK w) (vForm w) (fld w 28 1 == 1) (fld w 27 1 == 1) (fld w 26 1 == 1))
  | 2 => .ok (.vamoorC (rrD w) (rrA w) (rrB w) (vK w) (vForm w) (fld w 28 1 == 1) (fld w 27 1 == 1) (fld w 26 1 == 1))
  | 3 => .ok (.vamoxorC (rrD w) (rrA w) (rrB w) (vK w) (vForm w) (fld w 28 1 == 1) (fld w 27 1 == 1) (fld w 26 1 == 1))
  | 4 => .ok (.vamomaxC (rrD w) (rrA w) (rrB w) (vK w) (vForm w) (fld w 28 1 == 1) (fld w 27 1 == 1) (fld w 26 1 == 1))
  | 5 => .ok (.vamominC (rrD w) (rrA w) (rrB w) (vK w) (vForm w) (fld w 28 1 == 1) (fld w 27 1 == 1) (fld w 26 1 == 1))
  | 6 => .ok (.vamoswapC (rrD w) (rrA w) (rrB w) (vK w) (vForm w) (fld w 28 1 == 1) (fld w 27 1 == 1) (fld w 26 1 == 1))
  | _ => .error .functionUnallocated

/-- VAMO.D, major 0x0B (R220). -/
def decodeVamoD (w : IWord) : Except DecodeError Instr :=
  match (fld w 29 3).toNat with
  | 0 => .ok (.vamoaddD (rrD w) (rrA w) (rrB w) (vK w) (vForm w) (fld w 28 1 == 1) (fld w 27 1 == 1) (fld w 26 1 == 1))
  | 1 => .ok (.vamoandD (rrD w) (rrA w) (rrB w) (vK w) (vForm w) (fld w 28 1 == 1) (fld w 27 1 == 1) (fld w 26 1 == 1))
  | 2 => .ok (.vamoorD (rrD w) (rrA w) (rrB w) (vK w) (vForm w) (fld w 28 1 == 1) (fld w 27 1 == 1) (fld w 26 1 == 1))
  | 3 => .ok (.vamoxorD (rrD w) (rrA w) (rrB w) (vK w) (vForm w) (fld w 28 1 == 1) (fld w 27 1 == 1) (fld w 26 1 == 1))
  | 4 => .ok (.vamomaxD (rrD w) (rrA w) (rrB w) (vK w) (vForm w) (fld w 28 1 == 1) (fld w 27 1 == 1) (fld w 26 1 == 1))
  | 5 => .ok (.vamominD (rrD w) (rrA w) (rrB w) (vK w) (vForm w) (fld w 28 1 == 1) (fld w 27 1 == 1) (fld w 26 1 == 1))
  | 6 => .ok (.vamoswapD (rrD w) (rrA w) (rrB w) (vK w) (vForm w) (fld w 28 1 == 1) (fld w 27 1 == 1) (fld w 26 1 == 1))
  | _ => .error .functionUnallocated

/-- VAMO.V, major 0x0C (R220). -/
def decodeVamoV (w : IWord) : Except DecodeError Instr :=
  match (fld w 29 3).toNat with
  | 0 => .ok (.vamoaddV (rrD w) (rrA w) (rrB w) (vK w) (vForm w) (fld w 28 1 == 1) (fld w 27 1 == 1) (fld w 26 1 == 1))
  | 1 => .ok (.vamoandV (rrD w) (rrA w) (rrB w) (vK w) (vForm w) (fld w 28 1 == 1) (fld w 27 1 == 1) (fld w 26 1 == 1))
  | 2 => .ok (.vamoorV (rrD w) (rrA w) (rrB w) (vK w) (vForm w) (fld w 28 1 == 1) (fld w 27 1 == 1) (fld w 26 1 == 1))
  | 3 => .ok (.vamoxorV (rrD w) (rrA w) (rrB w) (vK w) (vForm w) (fld w 28 1 == 1) (fld w 27 1 == 1) (fld w 26 1 == 1))
  | 4 => .ok (.vamomaxV (rrD w) (rrA w) (rrB w) (vK w) (vForm w) (fld w 28 1 == 1) (fld w 27 1 == 1) (fld w 26 1 == 1))
  | 5 => .ok (.vamominV (rrD w) (rrA w) (rrB w) (vK w) (vForm w) (fld w 28 1 == 1) (fld w 27 1 == 1) (fld w 26 1 == 1))
  | 6 => .ok (.vamoswapV (rrD w) (rrA w) (rrB w) (vK w) (vForm w) (fld w 28 1 == 1) (fld w 27 1 == 1) (fld w 26 1 == 1))
  | _ => .error .functionUnallocated

/-- VAMO.X, major 0x0D (R220). -/
def decodeVamoX (w : IWord) : Except DecodeError Instr :=
  match (fld w 29 3).toNat with
  | 0 => .ok (.vamoaddX (rrD w) (rrA w) (rrB w) (vK w) (vForm w) (fld w 28 1 == 1) (fld w 27 1 == 1) (fld w 26 1 == 1))
  | 1 => .ok (.vamoandX (rrD w) (rrA w) (rrB w) (vK w) (vForm w) (fld w 28 1 == 1) (fld w 27 1 == 1) (fld w 26 1 == 1))
  | 2 => .ok (.vamoorX (rrD w) (rrA w) (rrB w) (vK w) (vForm w) (fld w 28 1 == 1) (fld w 27 1 == 1) (fld w 26 1 == 1))
  | 3 => .ok (.vamoxorX (rrD w) (rrA w) (rrB w) (vK w) (vForm w) (fld w 28 1 == 1) (fld w 27 1 == 1) (fld w 26 1 == 1))
  | 4 => .ok (.vamomaxX (rrD w) (rrA w) (rrB w) (vK w) (vForm w) (fld w 28 1 == 1) (fld w 27 1 == 1) (fld w 26 1 == 1))
  | 5 => .ok (.vamominX (rrD w) (rrA w) (rrB w) (vK w) (vForm w) (fld w 28 1 == 1) (fld w 27 1 == 1) (fld w 26 1 == 1))
  | 6 => .ok (.vamoswapX (rrD w) (rrA w) (rrB w) (vK w) (vForm w) (fld w 28 1 == 1) (fld w 27 1 == 1) (fld w 26 1 == 1))
  | _ => .error .functionUnallocated

/-- VWAIT, major 0x0E (R221). -/
def decodeVwait (w : IWord) : Except DecodeError Instr :=
  let ok := fld w 28 3 != 0 && fld w 6 2 == 0
  if fld w 31 1 == 0 then
    rsv ok (.vwaitAll (fld w 28 3) (fld w 16 5) (fld w 21 5) (fld w 11 5) (fld w 8 3) (fld w 26 2))
  else
    rsv ok (.vwaitAny (fld w 28 3) (fld w 16 5) (fld w 21 5) (fld w 11 5) (fld w 8 3) (fld w 26 2))

/-- The instruction with the row operand of an MX word, if it and the other fields are in order. -/
def withRow (w : IWord) (ok : Bool) (f : Row → Instr) : Except DecodeError Instr :=
  match rowOf (fld w 6 1) (fld w 7 6) with
  | some r => rsv ok (f r)
  | none => .error .reservedField

/-- MAT, major 0x37 (R319). -/
def decodeMat (w : IWord) : Except DecodeError Instr :=
  match (fld w 27 5).toNat with
  | 0 => rsv (fld w 6 10 == 0) (.mtile (fld w 26 1 == 1) (fld w 21 5) (fld w 16 5))
  | 1 => withRow w true (fun r => .mrow (fld w 13 3) r (fld w 21 5) (fld w 26 1 == 1) (fld w 16 5))
  | 2 => withRow w true (fun r => .mrowSp (fld w 13 3) r (fld w 21 5) (fld w 26 1 == 1) (fld w 16 5))
  | 3 => withRow w true (fun r => .mrowP (fld w 13 3) r (fld w 21 5) (fld w 26 1 == 1) (fld w 16 5))
  | 4 => rsv (fld w 26 1 == 0 && fld w 16 10 == 0 && fld w 6 7 == 0) (.mzero (fld w 13 3))
  | 5 => withRow w (fld w 26 1 == 0 && fld w 16 5 == 0) (fun r => .mread (fld w 21 5) (fld w 13 3) r)
  | 6 => withRow w (fld w 26 1 == 0) (fun r => .mepi (fld w 13 3) r (fld w 21 5) (fld w 16 5))
  | 7 => rsv (fld w 6 20 == 0) (.mrelease (fld w 26 1 == 1))
  | _ => .error .functionUnallocated

/-- CPY, major 0x38, with the split of R215 (R347). -/
def decodeCpy (w : IWord) : Except DecodeError Instr :=
  if fld w 26 1 == 0 then .ok (.cpy (rrD w) (rrA w) (rrB w) (rrM w) (fld w 27 5))
  else .ok (.cpyG (rrD w) (rrA w) (rrB w) (rrM w) (fld w 27 5))

/-- CPYX, major 0x39 (R348). -/
def decodeCpyx (w : IWord) : Except DecodeError Instr :=
  match rrFn w with
  | 0 => rsv (rrD w == 0) (.cpyX (rrA w) (rrB w) (rrM w))
  | 1 => .ok (.cpySum (rrD w) (rrA w) (rrB w) (rrM w))
  | 2 => rsv (rrD w == 0) (.coll (rrA w) (rrB w) (rrM w))
  | _ => .error .functionUnallocated

/-- SEQ, major 0x3A (R313). -/
noncomputable def decodeSeq (w : IWord) : Except DecodeError Instr :=
  match rrFn w with
  | 0 => rsv (below8 (rrD w) && rrB w == 0 && rrM w == 0) (.sqnew (lo3 (rrD w)) (rrA w))
  | 1 => rsv (below8 (rrA w) && rrM w == 0) (.sqres (rrD w) (lo3 (rrA w)) (rrB w))
  | 2 => rsv (below8 (rrA w) && rrD w == 0) (.sqcmt (lo3 (rrA w)) (rrB w) (rrM w))
  | 3 => rsv (below8 (rrA w) && rrD w == 0) (.sqabn (lo3 (rrA w)) (rrB w) (rrM w))
  | 4 => rsv (below8 (rrA w) && rrB w == 0 && rrM w == 0) (.sqlen (rrD w) (lo3 (rrA w)))
  | 5 => rsv (below8 (rrA w) && rrB w == 0 && rrM w == 0) (.sqlenH (rrD w) (lo3 (rrA w)))
  | 6 => rsv (below8 (rrD w) && below8 (rrA w) && rrM w == 0) (.sqfork (lo3 (rrD w)) (lo3 (rrA w)) (rrB w))
  | 7 => rsv (below8 (rrD w) && rrA w == 0 && rrB w == 0 && rrM w == 0) (.sqdrop (lo3 (rrD w)))
  | _ => .error .functionUnallocated

/-- SCHED, major 0x3B (R352). -/
noncomputable def decodeSched (w : IWord) : Except DecodeError Instr :=
  match rrFn w with
  | 0 => rsv (rrB w == 0 && rrM w == 0) (.launch (rrD w) (rrA w))
  | 1 => rsv (rrB w == 0 && rrM w == 0) (.join (rrD w) (rrA w))
  | 2 => rsv (fld w 6 20 == 0) .yield
  | 3 => rsv (fld w 6 20 == 0) .exit
  | 4 => rsv (fld w 6 20 == 0) .mark
  | _ => .error .functionUnallocated

/-- The major opcode of a word (R212). -/
def major (w : IWord) : Nat := (fld w 0 6).toNat

/-- The semantic decoder: every word is an instruction or is refused by name (R218, R230). -/
noncomputable def decode (w : IWord) : Except DecodeError Instr :=
  match major w with
  | 0x1 => decodeInt w
  | 0x2 => .ok (.addi (riD w) (riA w) (riImm w))
  | 0x3 => .ok (.andi (riD w) (riA w) (riImm w))
  | 0x4 => .ok (.ori (riD w) (riA w) (riImm w))
  | 0x5 => .ok (.xori (riD w) (riA w) (riImm w))
  | 0x6 => .ok (.slti (riD w) (riA w) (riImm w))
  | 0x7 => .ok (.sltiu (riD w) (riA w) (riImm w))
  | 0x8 => rsv (riA w == 0) (.lui (riD w) (riImm w))
  | 0x9 => decodeShi w
  | 0xa => decodeVamoC w
  | 0xb => decodeVamoD w
  | 0xc => decodeVamoV w
  | 0xd => decodeVamoX w
  | 0xe => decodeVwait w
  | 0x10 => .ok (.ldB (riD w) (riA w) (riImm w))
  | 0x11 => .ok (.ldH (riD w) (riA w) (riImm w))
  | 0x12 => .ok (.ldW (riD w) (riA w) (riImm w))
  | 0x13 => .ok (.ldD (riD w) (riA w) (riImm w))
  | 0x14 => .ok (.ldWNc (riD w) (riA w) (riImm w))
  | 0x15 => .ok (.ldDNc (riD w) (riA w) (riImm w))
  | 0x16 => .ok (.stB (riD w) (riA w) (riImm w))
  | 0x17 => .ok (.stH (riD w) (riA w) (riImm w))
  | 0x18 => .ok (.stW (riD w) (riA w) (riImm w))
  | 0x19 => .ok (.stD (riD w) (riA w) (riImm w))
  | 0x1a => .ok (.fldS (riD w) (riA w) (riImm w))
  | 0x1b => .ok (.fldD (riD w) (riA w) (riImm w))
  | 0x1c => .ok (.fstS (riD w) (riA w) (riImm w))
  | 0x1d => .ok (.fstD (riD w) (riA w) (riImm w))
  | 0x20 => .ok (.beq (riA w) (riD w) (riImm w))
  | 0x21 => .ok (.bne (riA w) (riD w) (riImm w))
  | 0x22 => .ok (.blt (riA w) (riD w) (riImm w))
  | 0x23 => .ok (.bge (riA w) (riD w) (riImm w))
  | 0x24 => .ok (.bltu (riA w) (riD w) (riImm w))
  | 0x25 => .ok (.bgeu (riA w) (riD w) (riImm w))
  | 0x26 => .ok (.j (fld w 6 26))
  | 0x27 => .ok (.jal (fld w 6 26))
  | 0x28 => decodeAmo w
  | 0x29 => decodeSync w
  | 0x2a => decodeFp w
  | 0x2b => decodeSys w
  | 0x2c => rsv (fld w 6 10 == 0) (.setvt (riImm w))
  | 0x2d => decodeVcfg w
  | 0x2e => decodeVint w
  | 0x2f => decodeVfp w
  | 0x30 => decodeVcmp w
  | 0x31 => decodeVperm w
  | 0x32 => decodeVnar w
  | 0x33 => decodeVatt w
  | 0x34 => decodeVld w
  | 0x35 => decodeVst w
  | 0x36 => decodeSqv w
  | 0x37 => decodeMat w
  | 0x38 => decodeCpy w
  | 0x39 => decodeCpyx w
  | 0x3a => decodeSeq w
  | 0x3b => decodeSched w
  | _ => .error .majorUnallocated

/-! ## Advice words (R203 to R205) -/

/-- Advice d. -/
def advD (w : IWord) : GReg := fld w 11 3
/-- Advice a. -/
def advA (w : IWord) : GReg := fld w 14 3
/-- Advice b. -/
def advB (w : IWord) : GReg := fld w 17 3
/-- Advice imm12. -/
def advImm (w : IWord) : BitVec 12 := fld w 20 12

/-- The instruction, if its selector is allocated (else STOP 3) and its unused fields hold zero (else STOP 2). -/
def arsv (sel ok : Bool) (i : Instr) : Except AdviceError Instr :=
  if !sel then .error .reservedSelector else if ok then .ok i else .error .unusedField

/-- aop 0x05: the function is imm12[2:0] (R204). -/
noncomputable def decodeAalu (w : IWord) : Except AdviceError Instr :=
  match (fld w 20 3).toNat with
  | 0 => arsv true (fld w 23 9 == 0) (.aadd (advD w) (advA w) (advB w))
  | 1 => arsv true (fld w 23 9 == 0) (.asub (advD w) (advA w) (advB w))
  | 2 => arsv true (fld w 23 9 == 0) (.aand (advD w) (advA w) (advB w))
  | 3 => arsv true (fld w 23 9 == 0) (.aor (advD w) (advA w) (advB w))
  | 4 => arsv true (fld w 23 9 == 0) (.asll (advD w) (advA w) (advB w))
  | 5 => arsv true (fld w 23 9 == 0) (.asrl (advD w) (advA w) (advB w))
  | 6 => arsv true (fld w 23 9 == 0) (.amul (advD w) (advA w) (advB w))
  | _ => .error .reservedSelector

/-- aop 0x07: the condition is d (R204). -/
noncomputable def decodeAbr (w : IWord) : Except AdviceError Instr :=
  match (advD w).toNat with
  | 0 => .ok (.abeq (advA w) (advB w) (advImm w))
  | 1 => .ok (.abne (advA w) (advB w) (advImm w))
  | 2 => .ok (.ablt (advA w) (advB w) (advImm w))
  | 3 => .ok (.abltu (advA w) (advB w) (advImm w))
  | _ => .error .reservedSelector

/-- aop 0x0B: the action is d (R204, R208). -/
noncomputable def decodeApin (w : IWord) : Except AdviceError Instr :=
  match (advD w).toNat with
  | 0 => arsv true (advImm w == 0) (.apinPri (advA w) (advB w))
  | 1 => arsv true (advImm w == 0) (.apinPin (advA w) (advB w))
  | 2 => arsv true (advImm w == 0) (.apinOff (advA w) (advB w))
  | _ => .error .reservedSelector

/-- The advice decoder: every word is an advice instruction or stops its context (R204, R205). -/
noncomputable def decodeAdvice (w : IWord) : Except AdviceError Instr :=
  if major w != 0x3F then .error .unallocated else
  match (fld w 6 5).toNat with
  | 0 => arsv true (fld w 11 21 == 0) .ahalt
  | 1 => arsv true (advD w == 0 && advB w == 0 && advImm w == 0) (.await (advA w))
  | 2 => arsv ((advImm w).toNat < 12) (advA w == 0 && advB w == 0) (.aread (advD w) (advImm w))
  | 3 => .ok (.ali (advD w) (fld w 14 18))
  | 4 => arsv true (advB w == 0) (.aaddi (advD w) (advA w) (advImm w))
  | 5 => decodeAalu w
  | 6 => if fld w 31 1 == 0 then arsv true (advB w == 0 && fld w 26 5 == 0) (.aslli (advD w) (advA w) (fld w 20 6)) else arsv true (advB w == 0 && fld w 26 5 == 0) (.asrli (advD w) (advA w) (fld w 20 6))
  | 7 => decodeAbr w
  | 8 => arsv true (advD w == 0) (.aj (fld w 14 18))
  | 9 => arsv ((advD w).toNat < 2) true (.apf (advD w == 1) (advA w) (advB w) (advImm w))
  | 10 => arsv true (fld w 23 9 == 0) (.apfv (fld w 22 1 == 1) (advA w) (advB w) (advD w) (fld w 20 2))
  | 11 => decodeApin w
  | 12 => arsv true (fld w 21 11 == 0) (.atile (fld w 20 1 == 1) (advA w) (advB w) (advD w))
  | 13 => arsv true (fld w 11 9 == 0 && fld w 22 10 == 0) (.aprio (fld w 20 2))
  | 14 => arsv ((fld w 20 3).toNat < 6) (fld w 11 9 == 0 && fld w 23 9 == 0) (.aorder (fld w 20 3))
  | _ => .error .unallocated

/-- The instruction the decoder reads from a table row's word (R212: one 32-bit word, little-endian):
an advice word where the major is 0x3F, a semantic word otherwise. -/
noncomputable def decodeTableWord (nbits w : Nat) : Option Instr :=
  let word : IWord := BitVec.ofNat 32 (w % 2 ^ nbits)
  if major word == 0x3F then (decodeAdvice word).toOption else (decode word).toOption

/-! ## The encoder, from the same tables -/

/-- RR (R212). -/
def packRR (op fn : BitVec 6) (b a d m : BitVec 5) : IWord :=
  BitVec.ofNat 32 (op.toNat + 64 * m.toNat + 2048 * d.toNat + 65536 * a.toNat + 2097152 * b.toNat + 67108864 * fn.toNat)
/-- RI and B (R212): the fields are d and a of RI, b and a of B. -/
def packRI (op : BitVec 6) (imm : BitVec 16) (a d : BitVec 5) : IWord :=
  BitVec.ofNat 32 (op.toNat + 64 * d.toNat + 2048 * a.toNat + 65536 * imm.toNat)
/-- J (R212). -/
def packJ (op : BitVec 6) (off : BitVec 26) : IWord := BitVec.ofNat 32 (op.toNat + 64 * off.toNat)
/-- V and VM (R212): `form` is the form or the hint. -/
def packV (op fn : BitVec 6) (b a d : BitVec 5) (k : BitVec 3) (form : BitVec 2) : IWord :=
  BitVec.ofNat 32 (op.toNat + 64 * form.toNat + 256 * k.toNat + 2048 * d.toNat + 65536 * a.toNat + 2097152 * b.toNat + 67108864 * fn.toNat)
/-- VN (R212). -/
def packVN (op : BitVec 6) (fd b a d : BitVec 5) (k fn : BitVec 3) : IWord :=
  BitVec.ofNat 32 (op.toNat + 64 * fn.toNat + 512 * k.toNat + 4096 * d.toNat + 131072 * a.toNat + 4194304 * b.toNat + 134217728 * fd.toNat)
/-- MX (R212), with fn6 as operation and tile buffer (R319). -/
def packMX (op : BitVec 6) (fn : BitVec 5) (tb : Bool) (v fd : BitVec 5) (acc : BitVec 3) (row : BitVec 6) (form : BitVec 1) : IWord :=
  BitVec.ofNat 32 (op.toNat + 64 * form.toNat + 128 * row.toNat + 8192 * acc.toNat + 65536 * fd.toNat + 2097152 * v.toNat + 67108864 * tb.toNat + 134217728 * fn.toNat)
/-- S (R212). -/
def packS (op : BitVec 6) (csr : BitVec 12) (a d : BitVec 5) (fn : BitVec 4) : IWord :=
  BitVec.ofNat 32 (op.toNat + 64 * fn.toNat + 1024 * d.toNat + 32768 * a.toNat + 1048576 * csr.toNat)
/-- AR (R203). -/
def packAR (aop : BitVec 5) (imm : BitVec 12) (b a d : BitVec 3) : IWord :=
  BitVec.ofNat 32 (63 + 64 * aop.toNat + 2048 * d.toNat + 16384 * a.toNat + 131072 * b.toNat + 1048576 * imm.toNat)
/-- AI (R203). -/
def packAI (aop : BitVec 5) (imm : BitVec 18) (d : BitVec 3) : IWord :=
  BitVec.ofNat 32 (63 + 64 * aop.toNat + 2048 * d.toNat + 16384 * imm.toNat)

/-- The m5 field of an atomic, a wait or a fence: bits 4 and 3, and the scope (R245 to R249). -/
def scopeField (hi lo : Bool) (sc : Scope) : BitVec 5 := BitVec.ofNat 5 (16 * hi.toNat + 8 * lo.toNat + sc.code)
/-- A 3-bit register number in a 5-bit field. -/
def wide3 (r : BitVec 3) : BitVec 5 := r.setWidth 5
/-- fn6 with a size or precision bit on top (R245, R254). -/
def fnDbl (fn : Nat) (dbl : Bool) : BitVec 6 := BitVec.ofNat 6 (fn + 32 * dbl.toNat)
/-- fn6 of a vector atomic (R220). -/
def fnVamo (op : Nat) (aq rl o : Bool) : BitVec 6 := BitVec.ofNat 6 (8 * op + 4 * aq.toNat + 2 * rl.toNat + o.toNat)
/-- The form of a second source (R214). -/
def VSrc.form : VSrc → BitVec 2
  | .vv _ => 0 | .vx _ => 1 | .vi _ => 2 | .vf _ => 3
/-- The b field of a second source (R214). -/
def VSrc.field : VSrc → BitVec 5
  | .vv b => b | .vx b => b | .vi b => b | .vf b => b
/-- The form bit of a row operand (R214). -/
def Row.form : Row → BitVec 1
  | .const _ => 0 | .reg _ => 1
/-- The row field of a row operand (R214). -/
def Row.field : Row → BitVec 6
  | .const r => r | .reg r => r.setWidth 6

/-- The word of an instruction (R212 to R221, R203, R204); the steps that have no word give the all-zero word, which is no instruction (R230). -/
def encode : Instr → IWord
  | .add d a b => packRR 0x01 0 b a d 0
  | .sub d a b => packRR 0x01 1 b a d 0
  | .and d a b => packRR 0x01 2 b a d 0
  | .or d a b => packRR 0x01 3 b a d 0
  | .xor d a b => packRR 0x01 4 b a d 0
  | .sll d a b => packRR 0x01 5 b a d 0
  | .srl d a b => packRR 0x01 6 b a d 0
  | .sra d a b => packRR 0x01 7 b a d 0
  | .slt d a b => packRR 0x01 8 b a d 0
  | .sltu d a b => packRR 0x01 9 b a d 0
  | .mul d a b => packRR 0x01 10 b a d 0
  | .mulh d a b => packRR 0x01 11 b a d 0
  | .mulhu d a b => packRR 0x01 12 b a d 0
  | .div d a b => packRR 0x01 13 b a d 0
  | .divu d a b => packRR 0x01 14 b a d 0
  | .rem d a b => packRR 0x01 15 b a d 0
  | .remu d a b => packRR 0x01 16 b a d 0
  | .min d a b => packRR 0x01 17 b a d 0
  | .max d a b => packRR 0x01 18 b a d 0
  | .minu d a b => packRR 0x01 19 b a d 0
  | .maxu d a b => packRR 0x01 20 b a d 0
  | .clz d a => packRR 0x01 21 0 a d 0
  | .ctz d a => packRR 0x01 22 0 a d 0
  | .popc d a => packRR 0x01 23 0 a d 0
  | .jalr d a => packRR 0x01 24 0 a d 0
  | .addi d a c => packRI 0x2 c a d
  | .andi d a c => packRI 0x3 c a d
  | .ori d a c => packRI 0x4 c a d
  | .xori d a c => packRI 0x5 c a d
  | .slti d a c => packRI 0x6 c a d
  | .sltiu d a c => packRI 0x7 c a d
  | .ldB d a c => packRI 0x10 c a d
  | .ldH d a c => packRI 0x11 c a d
  | .ldW d a c => packRI 0x12 c a d
  | .ldD d a c => packRI 0x13 c a d
  | .ldWNc d a c => packRI 0x14 c a d
  | .ldDNc d a c => packRI 0x15 c a d
  | .stB d a c => packRI 0x16 c a d
  | .stH d a c => packRI 0x17 c a d
  | .stW d a c => packRI 0x18 c a d
  | .stD d a c => packRI 0x19 c a d
  | .fldS d a c => packRI 0x1a c a d
  | .fldD d a c => packRI 0x1b c a d
  | .fstS d a c => packRI 0x1c c a d
  | .fstD d a c => packRI 0x1d c a d
  | .lui d c => packRI 0x08 c 0 d
  | .slli d a c => packRI 0x09 (BitVec.ofNat 16 (c.toNat + 0)) a d
  | .srli d a c => packRI 0x09 (BitVec.ofNat 16 (c.toNat + 64)) a d
  | .srai d a c => packRI 0x09 (BitVec.ofNat 16 (c.toNat + 128)) a d
  | .beq a b off => packRI 0x20 off a b
  | .bne a b off => packRI 0x21 off a b
  | .blt a b off => packRI 0x22 off a b
  | .bge a b off => packRI 0x23 off a b
  | .bltu a b off => packRI 0x24 off a b
  | .bgeu a b off => packRI 0x25 off a b
  | .j off => packJ 0x26 off
  | .jal off => packJ 0x27 off
  | .amoswap d a b dbl aq rl sc => packRR 0x28 (fnDbl 0 dbl) b a d (scopeField aq rl sc)
  | .amocas d a b dbl aq rl sc => packRR 0x28 (fnDbl 1 dbl) b a d (scopeField aq rl sc)
  | .amoadd d a b dbl aq rl sc => packRR 0x28 (fnDbl 2 dbl) b a d (scopeField aq rl sc)
  | .amoand d a b dbl aq rl sc => packRR 0x28 (fnDbl 3 dbl) b a d (scopeField aq rl sc)
  | .amoor d a b dbl aq rl sc => packRR 0x28 (fnDbl 4 dbl) b a d (scopeField aq rl sc)
  | .amoxor d a b dbl aq rl sc => packRR 0x28 (fnDbl 5 dbl) b a d (scopeField aq rl sc)
  | .fence o sc => packRR 0x29 0 (BitVec.ofNat 5 o.code) 0 0 (scopeField false false sc)
  | .fenceP p q sc => packRR 0x29 1 (BitVec.ofNat 5 q.code) (BitVec.ofNat 5 p.code) 0 (scopeField false false sc)
  | .waitaEq d a b w32 sc => packRR 0x29 2 b a d (scopeField false w32 sc)
  | .waitaNe d a b w32 sc => packRR 0x29 3 b a d (scopeField false w32 sc)
  | .waitaLt d a b w32 sc => packRR 0x29 4 b a d (scopeField false w32 sc)
  | .waitaGe d a b w32 sc => packRR 0x29 5 b a d (scopeField false w32 sc)
  | .waitaLtu d a b w32 sc => packRR 0x29 6 b a d (scopeField false w32 sc)
  | .waitaGeu d a b w32 sc => packRR 0x29 7 b a d (scopeField false w32 sc)
  | .barArrive n => packRR 0x29 8 0 0 0 (n.setWidth 5)
  | .barWait n => packRR 0x29 9 0 0 0 (n.setWidth 5)
  | .fadd d a b dbl => packRR 0x2A (fnDbl 0 dbl) b a d 0
  | .fsub d a b dbl => packRR 0x2A (fnDbl 1 dbl) b a d 0
  | .fmul d a b dbl => packRR 0x2A (fnDbl 2 dbl) b a d 0
  | .fdiv d a b dbl => packRR 0x2A (fnDbl 3 dbl) b a d 0
  | .fmin d a b dbl => packRR 0x2A (fnDbl 6 dbl) b a d 0
  | .fmax d a b dbl => packRR 0x2A (fnDbl 7 dbl) b a d 0
  | .feq d a b dbl => packRR 0x2A (fnDbl 8 dbl) b a d 0
  | .flt d a b dbl => packRR 0x2A (fnDbl 9 dbl) b a d 0
  | .fle d a b dbl => packRR 0x2A (fnDbl 10 dbl) b a d 0
  | .fsgnj d a b dbl => packRR 0x2A (fnDbl 15 dbl) b a d 0
  | .fsqrt d a dbl => packRR 0x2A (fnDbl 4 dbl) 0 a d 0
  | .fcvtFX d a dbl => packRR 0x2A (fnDbl 11 dbl) 0 a d 0
  | .fcvtXF d a dbl => packRR 0x2A (fnDbl 12 dbl) 0 a d 0
  | .fmvFX d a dbl => packRR 0x2A (fnDbl 13 dbl) 0 a d 0
  | .fmvXF d a dbl => packRR 0x2A (fnDbl 14 dbl) 0 a d 0
  | .fma d a b c dbl => packRR 0x2A (fnDbl 5 dbl) b a d c
  | .cread d csr => packS 0x2B csr 0 d 0
  | .cwrite csr a => packS 0x2B csr a 0 1
  | .cbset csr a => packS 0x2B csr a 0 2
  | .cbclr csr a => packS 0x2B csr a 0 3
  | .syscall n => packS 0x2B (n.setWidth 12) 0 0 4
  | .brk n => packS 0x2B (n.setWidth 12) 0 0 5
  | .tret => packS 0x2B 0 0 0 6
  | .wfi => packS 0x2B 0 0 0 7
  | .tfenceS a => packS 0x2B 0 a 0 8
  | .tfenceV a => packS 0x2B 0 a 0 9
  | .setvt imm => packRI 0x2C imm 0 0
  | .setvl d a => packRR 0x2D 0 0 a d 0
  | .claim d a b => packRR 0x2D 1 b a d 0
  | .vpidx d a => packRR 0x2D 2 0 a d 0
  | .vadd d a b k => packV 0x2E 0 b.field a d k b.form
  | .vsub d a b k => packV 0x2E 1 b.field a d k b.form
  | .vmul d a b k => packV 0x2E 2 b.field a d k b.form
  | .vmulh d a b k => packV 0x2E 3 b.field a d k b.form
  | .vdiv d a b k => packV 0x2E 4 b.field a d k b.form
  | .vrem d a b k => packV 0x2E 5 b.field a d k b.form
  | .vand d a b k => packV 0x2E 6 b.field a d k b.form
  | .vor d a b k => packV 0x2E 7 b.field a d k b.form
  | .vxor d a b k => packV 0x2E 8 b.field a d k b.form
  | .vsll d a b k => packV 0x2E 9 b.field a d k b.form
  | .vsrl d a b k => packV 0x2E 10 b.field a d k b.form
  | .vsra d a b k => packV 0x2E 11 b.field a d k b.form
  | .vmin d a b k => packV 0x2E 12 b.field a d k b.form
  | .vmax d a b k => packV 0x2E 13 b.field a d k b.form
  | .vsadd d a b k => packV 0x2E 14 b.field a d k b.form
  | .vssub d a b k => packV 0x2E 15 b.field a d k b.form
  | .vmerge d a b k => packV 0x2E 16 b.field a d k b.form
  | .vmv d a k => packV 0x2E 17 0 a d k 0
  | .vfadd d a b k => packV 0x2F 0 b.field a d k b.form
  | .vfsub d a b k => packV 0x2F 1 b.field a d k b.form
  | .vfmul d a b k => packV 0x2F 2 b.field a d k b.form
  | .vfdiv d a b k => packV 0x2F 3 b.field a d k b.form
  | .vfma d a b k => packV 0x2F 4 b.field a d k b.form
  | .vfms d a b k => packV 0x2F 5 b.field a d k b.form
  | .vfnma d a b k => packV 0x2F 6 b.field a d k b.form
  | .vfmin d a b k => packV 0x2F 7 b.field a d k b.form
  | .vfmax d a b k => packV 0x2F 8 b.field a d k b.form
  | .vfsqrt d a k => packV 0x2F 9 0 a d k 0
  | .vfrsqrt d a k => packV 0x2F 10 0 a d k 0
  | .vfexp d a k => packV 0x2F 11 0 a d k 0
  | .vfcvtXF d a k => packV 0x2F 13 0 a d k 0
  | .vfcvtFX d a k => packV 0x2F 14 0 a d k 0
  | .vfclass d a k => packV 0x2F 15 0 a d k 0
  | .vfsgnj d a b k => packV 0x2F 12 b.field a d k b.form
  | .vcmpEq kd a b k => packV 0x30 0 b.field a (wide3 kd) k b.form
  | .vcmpNe kd a b k => packV 0x30 1 b.field a (wide3 kd) k b.form
  | .vcmpLt kd a b k => packV 0x30 2 b.field a (wide3 kd) k b.form
  | .vcmpLe kd a b k => packV 0x30 3 b.field a (wide3 kd) k b.form
  | .vcmpGt kd a b k => packV 0x30 4 b.field a (wide3 kd) k b.form
  | .vcmpGe kd a b k => packV 0x30 5 b.field a (wide3 kd) k b.form
  | .kand kd ka kb => packV 0x30 6 (wide3 kb) (wide3 ka) (wide3 kd) 0 0
  | .kor kd ka kb => packV 0x30 7 (wide3 kb) (wide3 ka) (wide3 kd) 0 0
  | .kxor kd ka kb => packV 0x30 8 (wide3 kb) (wide3 ka) (wide3 kd) 0 0
  | .knot kd ka => packV 0x30 9 0 (wide3 ka) (wide3 kd) 0 0
  | .kany d ka => packV 0x30 10 0 (wide3 ka) d 0 0
  | .kall d ka => packV 0x30 11 0 (wide3 ka) d 0 0
  | .kcount d ka => packV 0x30 12 0 (wide3 ka) d 0 0
  | .vshup d a b k => packV 0x31 0 b.field a d k b.form
  | .vshdn d a b k => packV 0x31 1 b.field a d k b.form
  | .vbcast d a b k => packV 0x31 5 b.field a d k b.form
  | .vinsx d a b k => packV 0x31 6 b.field a d k b.form
  | .vpick d a b k => packV 0x31 2 b a d k 0
  | .vcondense d a k => packV 0x31 3 0 a d k 0
  | .vrev d a k => packV 0x31 4 0 a d k 0
  | .vextx d a b => packV 0x31 7 b a d 0 1
  | .vredsumO d a b k => packV 0x31 8 b a d k 0
  | .vredsum d a b k => packV 0x31 9 b a d k 0
  | .vredmax d a b k => packV 0x31 10 b a d k 0
  | .vredmin d a b k => packV 0x31 11 b a d k 0
  | .vsegredO d a b k => packV 0x31 12 b a d k 0
  | .vscanO d a b k => packV 0x31 13 b a d k 0
  | .vscan d a b k => packV 0x31 14 b a d k 0
  | .vscanmax d a b k => packV 0x31 15 b a d k 0
  | .vdot16 d a b fd k => packVN 0x32 fd b a d k 0
  | .vquant d a fd k => packVN 0x32 fd 0 a d k 1
  | .vdeq d a fd k => packVN 0x32 fd 0 a d k 2
  | .vbpack d a fd k => packVN 0x32 fd 0 a d k 3
  | .vbunpack d a fd k => packVN 0x32 fd 0 a d k 4
  | .vcvt d a fd k => packVN 0x32 fd 0 a d k 5
  | .vscore a xb k => packV 0x33 0 xb a 0 k 1
  | .vexpm => packV 0x33 1 0 0 0 0 0
  | .vaccv d xb => packV 0x33 2 xb 0 d 0 1
  | .vsegmax d => packV 0x33 3 0 0 d 0 0
  | .vsegsum d ks => packV 0x33 4 0 0 d ks 0
  | .vbound d a xb k => packV 0x33 5 xb a d k 1
  | .vtopk d a xb k => packV 0x33 6 xb a d k 1
  | .vrand d a xb k => packV 0x33 7 xb a d k 1
  | .vsamp d a b k => packV 0x33 8 b a d k 0
  | .vargmax d a k => packV 0x33 9 0 a d k 0
  | .vspeck d a b k => packV 0x33 10 b a d k 0
  | .vld d base k h => packV 0x34 0 0 base d k h
  | .vlds d base st k h => packV 0x34 1 st base d k h
  | .vldx d base ix k h => packV 0x34 2 ix base d k h
  | .vldp d base h => packV 0x34 3 0 base d 0 h
  | .vldNc d base k => packV 0x34 4 0 base d k 0
  | .vldsNc d base st k => packV 0x34 5 st base d k 0
  | .vldxNc d base ix k => packV 0x34 6 ix base d k 0
  | .vst d base k h => packV 0x35 0 0 base d k h
  | .vsts d base ix k h => packV 0x35 1 ix base d k h
  | .vstx d base ix k h => packV 0x35 2 ix base d k h
  | .vstxO d base ix k h => packV 0x35 3 ix base d k h
  | .vstxAdd d base ix k h => packV 0x35 4 ix base d k h
  | .sqst d h first k => packV 0x36 0 first (wide3 h) d k 0
  | .sqld d kd h first => packV 0x36 1 first (wide3 h) d kd 0
  | .vamoaddC d base ix k h aq rl o => packV 0xa (fnVamo 0 aq rl o) ix base d k h
  | .vamoaddD d base ix k h aq rl o => packV 0xb (fnVamo 0 aq rl o) ix base d k h
  | .vamoaddV d base ix k h aq rl o => packV 0xc (fnVamo 0 aq rl o) ix base d k h
  | .vamoaddX d base ix k h aq rl o => packV 0xd (fnVamo 0 aq rl o) ix base d k h
  | .vamoandC d base ix k h aq rl o => packV 0xa (fnVamo 1 aq rl o) ix base d k h
  | .vamoandD d base ix k h aq rl o => packV 0xb (fnVamo 1 aq rl o) ix base d k h
  | .vamoandV d base ix k h aq rl o => packV 0xc (fnVamo 1 aq rl o) ix base d k h
  | .vamoandX d base ix k h aq rl o => packV 0xd (fnVamo 1 aq rl o) ix base d k h
  | .vamoorC d base ix k h aq rl o => packV 0xa (fnVamo 2 aq rl o) ix base d k h
  | .vamoorD d base ix k h aq rl o => packV 0xb (fnVamo 2 aq rl o) ix base d k h
  | .vamoorV d base ix k h aq rl o => packV 0xc (fnVamo 2 aq rl o) ix base d k h
  | .vamoorX d base ix k h aq rl o => packV 0xd (fnVamo 2 aq rl o) ix base d k h
  | .vamoxorC d base ix k h aq rl o => packV 0xa (fnVamo 3 aq rl o) ix base d k h
  | .vamoxorD d base ix k h aq rl o => packV 0xb (fnVamo 3 aq rl o) ix base d k h
  | .vamoxorV d base ix k h aq rl o => packV 0xc (fnVamo 3 aq rl o) ix base d k h
  | .vamoxorX d base ix k h aq rl o => packV 0xd (fnVamo 3 aq rl o) ix base d k h
  | .vamomaxC d base ix k h aq rl o => packV 0xa (fnVamo 4 aq rl o) ix base d k h
  | .vamomaxD d base ix k h aq rl o => packV 0xb (fnVamo 4 aq rl o) ix base d k h
  | .vamomaxV d base ix k h aq rl o => packV 0xc (fnVamo 4 aq rl o) ix base d k h
  | .vamomaxX d base ix k h aq rl o => packV 0xd (fnVamo 4 aq rl o) ix base d k h
  | .vamominC d base ix k h aq rl o => packV 0xa (fnVamo 5 aq rl o) ix base d k h
  | .vamominD d base ix k h aq rl o => packV 0xb (fnVamo 5 aq rl o) ix base d k h
  | .vamominV d base ix k h aq rl o => packV 0xc (fnVamo 5 aq rl o) ix base d k h
  | .vamominX d base ix k h aq rl o => packV 0xd (fnVamo 5 aq rl o) ix base d k h
  | .vamoswapC d base ix k h aq rl o => packV 0xa (fnVamo 6 aq rl o) ix base d k h
  | .vamoswapD d base ix k h aq rl o => packV 0xb (fnVamo 6 aq rl o) ix base d k h
  | .vamoswapV d base ix k h aq rl o => packV 0xc (fnVamo 6 aq rl o) ix base d k h
  | .vamoswapX d base ix k h aq rl o => packV 0xd (fnVamo 6 aq rl o) ix base d k h
  | .vwaitAll kd xs va ve k sc => BitVec.ofNat 32 (0x0E + 256 * k.toNat + 2048 * ve.toNat + 65536 * xs.toNat + 2097152 * va.toNat + 67108864 * sc.toNat + 268435456 * kd.toNat)
  | .vwaitAny kd xs va ve k sc => BitVec.ofNat 32 (0x0E + 256 * k.toNat + 2048 * ve.toNat + 65536 * xs.toNat + 2097152 * va.toNat + 67108864 * sc.toNat + 268435456 * kd.toNat + 2147483648)
  | .mtile tb base fd => packMX 0x37 0 tb base fd 0 0 0
  | .mrow acc row va tb fd => packMX 0x37 1 tb va fd acc row.field row.form
  | .mrowSp acc row va tb fd => packMX 0x37 2 tb va fd acc row.field row.form
  | .mrowP acc row va tb fd => packMX 0x37 3 tb va fd acc row.field row.form
  | .mzero acc => packMX 0x37 4 false 0 0 acc 0 0
  | .mread d acc row => packMX 0x37 5 false d 0 acc row.field row.form
  | .mepi acc row base fd => packMX 0x37 6 false base fd acc row.field row.form
  | .mrelease tb => packMX 0x37 7 tb 0 0 0 0 0
  | .cpy d a b m e => packRR 0x38 (BitVec.ofNat 6 (2 * e.toNat)) b a d m
  | .cpyG d a b m e => packRR 0x38 (BitVec.ofNat 6 (2 * e.toNat + 1)) b a d m
  | .cpyX a b m => packRR 0x39 0 b a 0 m
  | .cpySum d a b m => packRR 0x39 1 b a d m
  | .coll a b m => packRR 0x39 2 b a 0 m
  | .sqnew d a => packRR 0x3A 0 0 a (wide3 d) 0
  | .sqres d a b => packRR 0x3A 1 b (wide3 a) d 0
  | .sqcmt a b m => packRR 0x3A 2 b (wide3 a) 0 m
  | .sqabn a b m => packRR 0x3A 3 b (wide3 a) 0 m
  | .sqlen d a => packRR 0x3A 4 0 (wide3 a) d 0
  | .sqlenH d a => packRR 0x3A 5 0 (wide3 a) d 0
  | .sqfork d a b => packRR 0x3A 6 b (wide3 a) (wide3 d) 0
  | .sqdrop d => packRR 0x3A 7 0 0 (wide3 d) 0
  | .launch d a => packRR 0x3B 0 0 a d 0
  | .join d a => packRR 0x3B 1 0 a d 0
  | .yield => packRR 0x3B 2 0 0 0 0
  | .exit => packRR 0x3B 3 0 0 0 0
  | .mark => packRR 0x3B 4 0 0 0 0
  | .ahalt => packAR 0 0 0 0 0
  | .await a => packAR 1 0 0 a 0
  | .aread d slot => packAR 2 slot 0 0 d
  | .ali d c => packAI 3 c d
  | .aaddi d a c => packAR 4 c 0 a d
  | .aadd d a b => packAR 5 0 b a d
  | .asub d a b => packAR 5 1 b a d
  | .aand d a b => packAR 5 2 b a d
  | .aor d a b => packAR 5 3 b a d
  | .asll d a b => packAR 5 4 b a d
  | .asrl d a b => packAR 5 5 b a d
  | .amul d a b => packAR 5 6 b a d
  | .aslli d a c => packAR 6 (c.setWidth 12) 0 a d
  | .asrli d a c => packAR 6 (BitVec.ofNat 12 (c.toNat + 2048)) 0 a d
  | .abeq a b off => packAR 7 off b a 0
  | .abne a b off => packAR 7 off b a 1
  | .ablt a b off => packAR 7 off b a 2
  | .abltu a b off => packAR 7 off b a 3
  | .aj off => packAI 8 off 0
  | .apf l2 a b n => packAR 9 n b a (if l2 then 1 else 0)
  | .apfv l2 a b d esize => packAR 10 (BitVec.ofNat 12 (esize.toNat + 4 * l2.toNat)) b a d
  | .apinPri a b => packAR 11 0 b a 0
  | .apinPin a b => packAR 11 0 b a 1
  | .apinOff a b => packAR 11 0 b a 2
  | .atile tb a b d => packAR 12 (if tb then 1 else 0) b a d
  | .aprio c => packAR 13 (c.setWidth 12) 0 0 0
  | .aorder c => packAR 14 (c.setWidth 12) 0 0 0
  | .adviceAwaitWake _ => 0
  | .advicePinExpire _ => 0
  | .queueRoomResume _ => 0
  | .laneBlockTaken _ => 0
  | .laneHoldTimeout _ => 0
  | .laneReclaim _ => 0
  | .waitaWake _ => 0
  | .waitaTimeout _ => 0
  | .vwaitRound _ => 0
  | .vwaitTimeout _ => 0
  | .wfiWake _ => 0
  | .pairTimeout _ => 0
  | .interruptTake _ => 0
  | .reliabilityQueuedTrap _ _ _ => 0
  | .copyCommandComplete _ => 0
  | .copyEngineFault _ _ _ => 0
  | .compactionMove _ _ _ _ => 0
  | .overflowRingReturn _ => 0
  | .launchEligible _ => 0
  | .waitaddrPoll => 0
  | .hartIssue _ => 0
  | .dispatchTick _ => 0
  | .priorityAging _ => 0
  | .hartSave _ _ => 0
  | .hartRestore _ => 0
  | .hqLaunch _ => 0
  | .hqHoldHart _ => 0
  | .hqReleaseHart _ => 0
  | .hqRetireHandle _ => 0
  | .hqMigrateHart _ => 0
  | .hqSetOverflowRing _ => 0
  | .contextRegisterWriteComplete _ => 0
  | .parkedAccessRetranslate _ => 0
  | .hashTreeUpdate _ => 0
  | .hostWindowRead _ _ _ _ => 0
  | .hostWindowWrite _ _ _ _ => 0
  | .hostReadTimeout _ _ => 0
  | .linkFlitReceive _ _ => 0
  | .linkPortDown _ => 0
  | .remoteRequestTimeout _ _ _ _ => 0
  | .collRankTimeout _ => 0
  | .createContext _ _ => 0
  | .destroyContext _ _ => 0
  | .bindHostQueue _ _ _ => 0
  | .setSchedulingQuantum _ _ => 0
  | .endLaunch _ _ => 0
  | .hashRegionRegister _ _ => 0
  | .hashRegionRemove _ _ => 0
  | .hashRegionSeal _ _ => 0
  | .readErrorLog _ _ => 0
  | .clearErrorLog _ _ => 0
  | .readTraceBuffer _ _ => 0
  | .setPartitionTable _ _ => 0
  | .setDomainTable _ _ _ => 0
  | .setHostApertures _ _ _ => 0
  | .setCollectiveTimeout _ _ => 0
  | .setPowerLimit _ _ => 0
  | .attestationQuote _ _ => 0
  | .mailboxClaim _ => 0
  | .handover _ _ => 0
  | .heartbeat _ => 0
  | .registerKernel _ _ => 0
  | .unregisterKernel _ _ _ => 0
  | .leaseLapse => 0
  | .handoverExpire => 0
  | .clockChange _ _ _ _ => 0
  | .throttleLevelChange _ _ => 0
  | .powerLimitReached _ _ => 0
  | .thermalLimitReached _ _ => 0
  | .powerBackWithinLimit _ _ => 0
  | .powerOnBringUp _ _ => 0
  | .hostSnoop _ _ => 0
  | .hostRequestError _ _ _ => 0
  | .linkPortRetrained _ => 0
  | .uncorrectableStorageError _ _ => 0
  | .adviceFillComplete _ => 0
  | .hardwarePrefetch _ _ _ => 0
  | .mailboxMessageToHart _ _ _ => 0

end Sys2Proof
end

