-- ==== Sys2Proof/Machine/Flags.lean ====
section
/-! DEFINITION. Exact numbers, the rounding modes, one rounding of an exact value into a
floating-point or integer destination, and the exception flags it raises (R143, R144, R153, R155 to
R158). -/

namespace Sys2Proof.Machine

/-! ### Exact numbers -/

/-- A number: NaN (signalling or quiet), an infinity, or (−1)^neg × n × 2^e / d. -/
inductive Num where
  | nan (sig : Bool)
  | inf (neg : Bool)
  | fin (neg : Bool) (n : Nat) (e : Int) (d : Nat)
deriving DecidableEq, Repr

/-- A zero of a sign. -/
def Num.zero (neg : Bool) : Num := .fin neg 0 0 1

/-- An integer as a number. -/
def Num.ofInt (z : Int) : Num := .fin (decide (z < 0)) z.natAbs 0 1

/-- 2^k as a factor: shifts of naturals by integer amounts. -/
def shl (n : Nat) (k : Int) : Nat := n * 2 ^ k.toNat

/-- The same number with its sign changed. -/
def Num.neg : Num → Num
  | .nan s => .nan s
  | .inf b => .inf !b
  | .fin b n e d => .fin (!b) n e d

/-- The magnitude of a number with a sign. -/
def Num.withSign (s : Bool) : Num → Num
  | .nan q => .nan q
  | .inf _ => .inf s
  | .fin _ n e d => .fin s n e d

/-- The sign. -/
def Num.sign : Num → Bool
  | .nan _ => false
  | .inf b => b
  | .fin b _ _ _ => b

/-- A zero of either sign. -/
def Num.isZero : Num → Bool
  | .nan _ => false
  | .inf _ => false
  | .fin _ n _ _ => n == 0

/-- NaN. -/
def Num.isNan : Num → Bool
  | .nan _ => true
  | .inf _ => false
  | .fin .. => false

/-- A signalling NaN. -/
def Num.isSig : Num → Bool
  | .nan s => s
  | .inf _ => false
  | .fin .. => false

/-- An infinity. -/
def Num.isInf : Num → Bool
  | .nan _ => false
  | .inf _ => true
  | .fin .. => false

/-- The order of two numbers that are not NaN; −0 equals +0 (R280). -/
def Num.cmp (a b : Num) : Ordering :=
  match a, b with
  | .inf x, .inf y => if x = y then .eq else if x then .lt else .gt
  | .inf x, _ => if x then .lt else .gt
  | _, .inf y => if y then .gt else .lt
  | .fin sa na ea da, .fin sb nb eb db =>
    let m := min ea eb
    let x : Int := shl (na * db) (ea - m)
    let y : Int := shl (nb * da) (eb - m)
    compare (if sa then -x else x) (if sb then -y else y)
  | _, _ => .eq

/-! ### Rounding modes and flags -/

/-- The five modes (R153). -/
inductive Rm where
  | rne | rtz | rup | rdn | rmm
deriving DecidableEq, Repr

/-- FCSR.RM (R156). -/
def rmOf (code : Nat) : Rm :=
  match code with
  | 1 => .rtz
  | 2 => .rup
  | 3 => .rdn
  | 4 => .rmm
  | _ => .rne

/-- FCSR flag bits (R156). -/
def flNV : BitVec 8 := 0x10
/-- Division by zero. -/
def flDZ : BitVec 8 := 0x08
/-- Overflow. -/
def flOF : BitVec 8 := 0x04
/-- Underflow. -/
def flUF : BitVec 8 := 0x02
/-- Inexact. -/
def flNX : BitVec 8 := 0x01

/-- A flag raised under a condition. -/
def flagIf (c : Bool) (f : BitVec 8) : BitVec 8 := if c then f else 0

/-- The value FCSR takes from a write: RM 5 to 7 stores 0 (R156). -/
def fcsrWrite (v : Nat) : BitVec 8 :=
  if v / 32 % 8 ≤ 4 then BitVec.ofNat 8 v else BitVec.ofNat 8 (v % 32)

/-- A code with the flags its rounding raises. -/
structure Rounded where
  code  : Nat
  flags : BitVec 8
deriving DecidableEq, Repr

/-! ### Exact sums, products and quotients (R254, R255, R278) -/

/-- A NaN operand or an invalid operation: the flags. -/
def nanFlags (l : List Num) : BitVec 8 := flagIf (l.any Num.isSig) flNV

/-- a + b exactly; an exact zero of opposite signs is +0, or −0 under RDN (R153). The flag is NV for
∞ − ∞. -/
def Num.add (rm : Rm) (a b : Num) : Num × BitVec 8 :=
  match a, b with
  | .nan x, y => (.nan false, nanFlags [.nan x, y])
  | x, .nan y => (.nan false, nanFlags [x, .nan y])
  | .inf x, .inf y => if x = y then (.inf x, 0) else (.nan false, flNV)
  | .inf x, .fin .. => (.inf x, 0)
  | .fin .., .inf y => (.inf y, 0)
  | .fin sa na ea da, .fin sb nb eb db =>
    let m := min ea eb
    let x : Int := shl (na * db) (ea - m)
    let y : Int := shl (nb * da) (eb - m)
    let z := (if sa then -x else x) + (if sb then -y else y)
    if z = 0 then (.zero (if sa = sb then sa else decide (rm = .rdn)), 0)
    else (.fin (decide (z < 0)) z.natAbs m (da * db), 0)

/-- a × b exactly; NV for 0 × ∞. -/
def Num.mul (a b : Num) : Num × BitVec 8 :=
  match a, b with
  | .nan x, y => (.nan false, nanFlags [.nan x, y])
  | x, .nan y => (.nan false, nanFlags [x, .nan y])
  | .inf x, y => if y.isZero then (.nan false, flNV) else (.inf (x != y.sign), 0)
  | x, .inf y => if x.isZero then (.nan false, flNV) else (.inf (x.sign != y), 0)
  | .fin sa na ea da, .fin sb nb eb db => (.fin (sa != sb) (na * nb) (ea + eb) (da * db), 0)

/-- a ÷ b exactly; NV for 0 ÷ 0 and ∞ ÷ ∞, DZ for a finite nonzero value by zero (R255). -/
def Num.div (a b : Num) : Num × BitVec 8 :=
  match a, b with
  | .nan x, y => (.nan false, nanFlags [.nan x, y])
  | x, .nan y => (.nan false, nanFlags [x, .nan y])
  | .inf _, .inf _ => (.nan false, flNV)
  | .inf x, .fin sb _ _ _ => (.inf (x != sb), 0)
  | .fin sa _ _ _, .inf y => (.zero (sa != y), 0)
  | .fin sa na ea da, .fin sb nb eb db =>
    if nb = 0 then (if na = 0 then (.nan false, flNV) else (.inf (sa != sb), flDZ))
    else (.fin (sa != sb) (na * db) (ea - eb) (da * nb), 0)

/-- a × b + c exactly, rounded by the caller once (R254). -/
def Num.fma (rm : Rm) (a b c : Num) : Num × BitVec 8 :=
  let (p, f) := a.mul b
  let sig := nanFlags [a, b, c]
  if f &&& flNV ≠ 0 then (.nan false, flNV)
  else
    let (r, g) := p.add rm c
    (r, sig ||| g)

/-! ### One rounding -/

/-- A magnitude as the rounding takes it: between m × 2^e and (m + 1) × 2^e, and above m × 2^e when
`sticky`. -/
structure Mag where
  m      : Nat
  e      : Int
  sticky : Bool
deriving DecidableEq, Repr

/-- The magnitude n × 2^e / d with enough bits for every destination. -/
def magOf (n : Nat) (e : Int) (d : Nat) : Mag :=
  if d = 1 then ⟨n, e, false⟩
  else
    let k := 160 + Nat.log2 d - Nat.log2 n
    ⟨n * 2 ^ k / d, e - k, n * 2 ^ k % d != 0⟩

/-- How a rounding chooses: a mode, or a draw (R158). -/
inductive Choice where
  | mode (rm : Rm)
  | draw (u : Nat)
deriving DecidableEq, Repr

/-- A magnitude rounded to a multiple of 2^q: the multiple, and whether it is exact. -/
def roundAt (c : Choice) (neg : Bool) (g : Mag) (q : Int) : Nat × Bool :=
  let k := (q - g.e).toNat
  let m := shl g.m (g.e - q)
  let lo := m / 2 ^ k
  let r := m % 2 ^ k
  let exact := r == 0 && !g.sticky
  let half := 2 ^ k
  let up : Bool :=
    match c with
    | .mode .rne => decide (2 * r > half) || (2 * r == half && (g.sticky || lo % 2 == 1))
    | .mode .rtz => false
    | .mode .rup => !exact && !neg
    | .mode .rdn => !exact && neg
    | .mode .rmm => decide (2 * r ≥ half) && !exact
    | .draw u => !exact && decide (u < 2 ^ 32 * r / half)
  (if up then lo + 1 else lo, exact)

/-- A floating-point format (R143): widths, bias, whether it has infinities, its kind of NaN (0 none,
1 IEEE, 2 E4M3), and whether all its NaNs count as signalling (R144). -/
structure FFmt where
  exp    : Nat
  frac   : Nat
  bias   : Int
  hasInf : Bool
  nan    : Nat
  sigAll : Bool
deriving DecidableEq, Repr

/-- Binary64, of the scalar FP major (R254). -/
def fp64 : FFmt := ⟨11, 52, 1023, true, 1, false⟩
/-- FP32. -/
def fp32 : FFmt := ⟨8, 23, 127, true, 1, false⟩
/-- BF16. -/
def bf16 : FFmt := ⟨8, 7, 127, true, 1, true⟩
/-- FP16. -/
def fp16 : FFmt := ⟨5, 10, 15, true, 1, true⟩
/-- E5M2. -/
def e5m2 : FFmt := ⟨5, 2, 15, true, 1, true⟩
/-- E4M3. -/
def e4m3 : FFmt := ⟨4, 3, 7, false, 2, false⟩
/-- E3M2. -/
def e3m2 : FFmt := ⟨3, 2, 3, false, 0, false⟩
/-- E2M3. -/
def e2m3 : FFmt := ⟨2, 3, 1, false, 0, false⟩
/-- E2M1. -/
def e2m1 : FFmt := ⟨2, 1, 1, false, 0, false⟩

/-- The bits of a code without its sign. -/
def FFmt.low (f : FFmt) : Nat := f.exp + f.frac

/-- The code of the largest finite magnitude (R143). -/
def FFmt.maxCode (f : FFmt) : Nat :=
  match f.nan with
  | 0 => 2 ^ f.low - 1
  | 1 => (2 ^ f.exp - 1) * 2 ^ f.frac - 1
  | _ => 2 ^ f.low - 2

/-- The code of +∞. -/
def FFmt.infCode (f : FFmt) : Nat := (2 ^ f.exp - 1) * 2 ^ f.frac

/-- The canonical NaN (R144); +0 in a format without NaN (R155). -/
def FFmt.nanCode (f : FFmt) : Nat :=
  match f.nan with
  | 0 => 0
  | 1 => f.infCode + 2 ^ (f.frac - 1)
  | _ => 2 ^ f.low - 1

/-- The exponent of the smallest normal. -/
def FFmt.emin (f : FFmt) : Int := 1 - f.bias

/-- The number a code holds (R143, R144). -/
def FFmt.decode (f : FFmt) (code : Nat) : Num :=
  let s := code.testBit f.low
  let c := code % 2 ^ f.low
  let e := c / 2 ^ f.frac
  let m := c % 2 ^ f.frac
  if f.nan = 1 ∧ e = 2 ^ f.exp - 1 then
    if m = 0 then .inf s else .nan (f.sigAll || !m.testBit (f.frac - 1))
  else if f.nan = 2 ∧ c = 2 ^ f.low - 1 then .nan f.sigAll
  else if e = 0 then .fin s m (f.emin - f.frac) 1
  else .fin s (2 ^ f.frac + m) (e - f.bias - f.frac) 1

/-- A code with a sign bit. -/
def FFmt.signed (f : FFmt) (neg : Bool) (c : Nat) : Nat := if neg then c + 2 ^ f.low else c

/-- A magnitude beyond the largest finite value (R155). -/
def FFmt.overflow (f : FFmt) (c : Choice) (neg : Bool) : Rounded :=
  let toMax : Bool :=
    match c with
    | .mode .rtz => true
    | .mode .rup => neg
    | .mode .rdn => !neg
    | .mode .rne => false
    | .mode .rmm => false
    | .draw _ => false
  ⟨f.signed neg (if toMax || !f.hasInf then f.maxCode else f.infCode), flOF ||| flNX⟩

/-- One rounding of a nonzero magnitude into a format, with the flags of R155: it is tiny where, rounded with the
exponent range unbounded, it stays below the smallest normal. -/
def FFmt.roundMag (f : FFmt) (c : Choice) (neg : Bool) (g : Mag) : Rounded :=
  let top : Int := Nat.log2 g.m + g.e
  let q := max top f.emin - f.frac
  let (n, exact) := roundAt c neg g q
  let code := if n < 2 ^ f.frac then n else ((q + f.frac + f.bias).toNat - 1) * 2 ^ f.frac + n
  if code > f.maxCode then f.overflow c neg
  else
    let tiny : Bool := decide (top < f.emin) &&
      !(top + 1 == f.emin && (roundAt c neg g (top - f.frac)).1 == 2 ^ (f.frac + 1))
    ⟨f.signed neg code, flagIf (!exact) flNX ||| flagIf (tiny && !exact) flUF⟩

/-- Converting an exact value to a floating-point format (R155). -/
def FFmt.convert (f : FFmt) (c : Choice) (x : Num) : Rounded :=
  match x with
  | .nan _ => ⟨f.nanCode, flNV⟩
  | .inf s => if f.hasInf then ⟨f.signed s f.infCode, 0⟩ else ⟨f.signed s f.maxCode, flOF ||| flNX⟩
  | .fin s n e d => if n = 0 then ⟨f.signed s 0, 0⟩ else f.roundMag c s (magOf n e d)

/-- Rounding an arithmetic result: a NaN raises only what the operation raised (R255). -/
def FFmt.result (f : FFmt) (rm : Rm) (r : Num × BitVec 8) : Rounded :=
  match r.1 with
  | .nan _ => ⟨f.nanCode, r.2⟩
  | x => let y := f.convert (.mode rm) x; ⟨y.code, y.flags ||| r.2⟩

/-- Converting an exact value to a two's-complement integer of w bits (R155), as an integer. -/
def intConvert (w : Nat) (c : Choice) (x : Num) : Int × BitVec 8 :=
  let hi : Int := 2 ^ (w - 1) - 1
  let lo : Int := -(2 ^ (w - 1) : Nat)
  match x with
  | .nan _ => (0, flNV)
  | .inf s => (if s then lo else hi, flNV)
  | .fin s n e d =>
    if n = 0 then (0, 0)
    else
      let (m, exact) := roundAt c s (magOf n e d) 0
      let z : Int := if s then -(m : Int) else m
      if z > hi then (hi, flNV) else if z < lo then (lo, flNV)
      else (z, flagIf (!exact) flNX)

/-! ### Roots and exponentials -/

/-- The integer square root, bit by bit from 2^k down. -/
def isqrtFrom (n : Nat) : Nat → Nat → Nat
  | 0, r => r
  | k + 1, r =>
    let t := r + 2 ^ k
    if t * t ≤ n then isqrtFrom n k t else isqrtFrom n k r

/-- ⌊√n⌋. -/
def isqrt (n : Nat) : Nat := isqrtFrom n (Nat.log2 n / 2 + 1) 0

/-- The square root of a positive n × 2^e / d, as a magnitude. -/
def sqrtMag (n : Nat) (e : Int) (d : Nat) : Mag :=
  let k : Nat := 320 + Nat.log2 d
  let k' : Nat := if (e - k) % 2 = 0 then k else k + 1
  let q := n * 2 ^ k' / d
  let r := isqrt q
  ⟨r, (e - k') / 2, !(r * r == q && n * 2 ^ k' % d == 0)⟩

/-- The square root: NV for a value below −0 (R255). -/
def FFmt.sqrt (f : FFmt) (rm : Rm) (x : Num) : Rounded :=
  match x with
  | .nan s => ⟨f.nanCode, flagIf s flNV⟩
  | .inf s => if s then ⟨f.nanCode, flNV⟩ else ⟨f.infCode, 0⟩
  | .fin s n e d =>
    if n = 0 then ⟨f.signed s 0, 0⟩
    else if s then ⟨f.nanCode, flNV⟩
    else f.roundMag (.mode rm) false (sqrtMag n e d)

/-- 1 / √x, rounded once (R278, R279). -/
def FFmt.rsqrt (f : FFmt) (rm : Rm) (x : Num) : Rounded :=
  match x with
  | .nan s => ⟨f.nanCode, flagIf s flNV⟩
  | .inf s => if s then ⟨f.nanCode, flNV⟩ else ⟨0, 0⟩
  | .fin s n e d =>
    if n = 0 then ⟨f.signed s f.infCode, flDZ⟩
    else if s then ⟨f.nanCode, flNV⟩
    else f.roundMag (.mode rm) false (sqrtMag d (-e) n)

/-- The sum of the exponential's Taylor terms after a term: fixed point with w fraction bits. -/
def expTerms (w y : Nat) : Nat → Nat → Nat → Nat → Nat
  | 0, _, _, acc => acc
  | fuel + 1, i, t, acc =>
    let t' := t * y / 2 ^ w / i
    if t' = 0 then acc else expTerms w y fuel (i + 1) t' (acc + t')

/-- A mantissa of at least w bits squared k times, cut back to w bits each time, with its exponent. -/
def expSquare (w : Nat) : Nat → Nat × Int → Nat × Int
  | 0, p => p
  | k + 1, (m, e) =>
    let m2 := m * m
    let cut := Nat.log2 m2 - w
    expSquare w k (m2 / 2 ^ cut, 2 * e + cut)

/-- e^x of a positive x = n × 2^e / d below 2^8, to a relative error below 2^−(p + 16): a mantissa and
its exponent. -/
def expPos (p n : Nat) (e : Int) (d : Nat) : Nat × Int :=
  let w := p + 48
  let y := shl (n * 2 ^ w) (e - 12) / 2 ^ (12 - e).toNat / d
  let t := expTerms w y (w + 16) 1 (2 ^ w) (2 ^ w)
  expSquare w 12 (t, -(w : Int))

/-- e^x, rounded once: the precision doubles until both ends of the bracket round alike. -/
def FFmt.expFrom (f : FFmt) (rm : Rm) (s : Bool) (n : Nat) (e : Int) (d : Nat) : Nat → Nat → Rounded
  | 0, _ => ⟨f.nanCode, 0⟩
  | fuel + 1, p =>
    let (m0, e0) := expPos p n e d
    let (m, k) := if s then (2 ^ (2 * p + 96) / m0, -e0 - (2 * p + 96)) else (m0, e0)
    let err := m / 2 ^ (p + 8) + 1
    let a := f.roundMag (.mode rm) false ⟨m - err, k, true⟩
    let b := f.roundMag (.mode rm) false ⟨m + err, k, true⟩
    if a = b ∨ fuel = 0 then a else f.expFrom rm s n e d fuel (2 * p)

/-- e^x of an exact x, rounded once (R278, R279, R336). -/
def FFmt.expNum (f : FFmt) (rm : Rm) (x : Num) : Rounded :=
  match x with
  | .nan s => ⟨f.nanCode, flagIf s flNV⟩
  | .inf s => if s then ⟨0, 0⟩ else ⟨f.infCode, 0⟩
  | .fin s n e d =>
    if n = 0 then f.convert (.mode rm) (.fin false 1 0 1)
    else if (Num.cmp (.fin false n e d) (.fin false 200 0 1)) = .gt then
      f.roundMag (.mode rm) false (if s then ⟨1, -400, true⟩ else ⟨1, 400, true⟩)
    else f.expFrom rm s n e d 6 80

/-! ### Minimum, maximum, comparison, class -/

/-- Whether a is the smaller for fmin: −0 lies below +0 (R255). -/
def Num.below (a b : Num) : Bool :=
  match a.cmp b with
  | .lt => true
  | .gt => false
  | .eq => a.sign && !b.sign

/-- fmin and fmax of codes (R255). -/
def FFmt.minmax (f : FFmt) (isMax : Bool) (ca cb : Nat) : Rounded :=
  let a := f.decode ca
  let b := f.decode cb
  let fl := nanFlags [a, b]
  if a.isNan && b.isNan then ⟨f.nanCode, fl⟩
  else if a.isNan then ⟨cb, fl⟩
  else if b.isNan then ⟨ca, fl⟩
  else if isMax then ⟨if a.below b then cb else ca, 0⟩
  else ⟨if b.below a then cb else ca, 0⟩

/-- The conditions of compares (R280). -/
inductive Cmp where
  | eq | ne | lt | le | gt | ge
deriving DecidableEq, Repr

/-- A condition on an order. -/
def Cmp.holds (c : Cmp) (o : Ordering) : Bool :=
  match c with
  | .eq => o == .eq
  | .ne => o != .eq
  | .lt => o == .lt
  | .le => o != .gt
  | .gt => o == .gt
  | .ge => o != .lt

/-- A floating-point compare with its NV (R255, R280). -/
def Num.compare (c : Cmp) (a b : Num) : Bool × BitVec 8 :=
  let quiet : Bool :=
    match c with
    | .eq => true
    | .ne => true
    | .lt => false
    | .le => false
    | .gt => false
    | .ge => false
  if a.isNan || b.isNan then
    (decide (c = .ne), if quiet then nanFlags [a, b] else flNV)
  else (c.holds (a.cmp b), 0)

/-- The class bit of a code (R279). -/
def FFmt.classify (f : FFmt) (code : Nat) : Nat :=
  match f.decode code with
  | .nan s => if s then 2 ^ 8 else 2 ^ 9
  | .inf s => if s then 2 ^ 0 else 2 ^ 7
  | .fin s n _ _ =>
    if n = 0 then (if s then 2 ^ 3 else 2 ^ 4)
    else if code % 2 ^ f.low < 2 ^ f.frac then (if s then 2 ^ 2 else 2 ^ 5)
    else (if s then 2 ^ 1 else 2 ^ 6)

end Sys2Proof.Machine
end

