-- ==== Sys2Proof/Machine/Ops.lean ====
section
/-! DEFINITION. The named operations that every meaning is written over: tables, registers, physical
memory (L2 and HBM), L1, the scalar and the vector translation, taking an exception and returning
from one, notifications. -/

namespace Sys2Proof.Machine

/-! ### Tables and numbers -/

/-- The record of a number in a table. -/
def tget {α : Type} : Tbl α → Nat → Option α
  | [], _ => none
  | (k, v) :: t, a => if k = a then some v else tget t a

/-- A table with one record written; keys stay strictly rising. -/
def tset {α : Type} : Tbl α → Nat → α → Tbl α
  | [], a, v => [(a, v)]
  | (k, w) :: t, a, v =>
    if a < k then (a, v) :: (k, w) :: t
    else if a = k then (a, v) :: t
    else (k, w) :: tset t a v

/-- A table with one record removed. -/
def tdel {α : Type} : Tbl α → Nat → Tbl α
  | [], _ => []
  | (k, w) :: t, a => if k = a then t else (k, w) :: tdel t a

/-- Keys strictly rising. -/
def Tbl.rising {α : Type} : Tbl α → Bool
  | [] => true
  | [_] => true
  | (a, _) :: (b, w) :: t => decide (a < b) && Tbl.rising ((b, w) :: t)

/-- A little-endian value (R1). -/
def bytesVal : List Byte → Nat
  | [] => 0
  | b :: bs => b.toNat + 256 * bytesVal bs

/-- The n little-endian bytes of a value (R1). -/
def valBytes : Nat → Nat → List Byte
  | 0, _ => []
  | n + 1, v => BitVec.ofNat 8 v :: valBytes n (v / 256)

/-- Bits [lo + n − 1 : lo] of a number (R2). -/
def bits (v lo n : Nat) : Nat := v / 2 ^ lo % 2 ^ n

/-- Bit n of a number (R2). -/
def bit (v n : Nat) : Bool := v.testBit n

/-- A two's-complement reading of the low w bits. -/
def sval (w v : Nat) : Int :=
  let u := v % 2 ^ w
  if u < 2 ^ (w - 1) then (u : Int) else (u : Int) - (2 ^ w : Nat)

/-- An integer modulo 2^w. -/
def wrap (w : Nat) (z : Int) : Nat := (z % (2 ^ w : Nat)).toNat

/-- Sign extension of the low w bits to 64 (R242). -/
def sext64 (w v : Nat) : Word := BitVec.ofInt 64 (sval w v)

/-- Reserved details of a cause word: class[9:6] : detail[5:0] (R421). -/
abbrev Cause := BitVec 10

/-! ### Why an instruction does not complete -/

/-- A precise cause with its TVAL, or a wait with the instruction still at the PC. -/
inductive Halt where
  | trap (cause : Cause) (tval : Word)
  | wait (w : Wait)
deriving DecidableEq, Repr

/-- A precise trap unless a condition holds. -/
def need (c : Prop) [Decidable c] (cause : Cause) (tval : Word) : Except Halt Unit :=
  if c then .ok () else .error (.trap cause tval)

/-! ### Registers -/

/-- x registers: x0 reads zero (R216). -/
def State.x (s : State) (r : Reg) : Word := if r = 0 then 0 else s.hart.x.get r.toFin

/-- A write of an x register; x0 discards it (R216). -/
def State.setX (s : State) (r : Reg) (v : Word) : State :=
  if r = 0 then s
  else { s with hart := { s.hart with x := s.hart.x.set r.toNat v r.isLt } }

/-- f registers. -/
def State.f (s : State) (r : Reg) : Word := s.hart.f.get r.toFin

/-- A write of an f register. -/
def State.setF (s : State) (r : Reg) (v : Word) : State :=
  { s with hart := { s.hart with f := s.hart.f.set r.toNat v r.isLt } }

/-- Mask registers: k0 reads all ones (R216). -/
def State.mask (s : State) (r : KReg) : Mask :=
  if r = 0 then BitVec.allOnes 65536 else s.hart.k.get r.toFin

/-- A write of a mask register; k0 is never written (R216). -/
def State.setMask (s : State) (r : KReg) (v : Mask) : State :=
  if r = 0 then s
  else { s with hart := { s.hart with k := s.hart.k.set r.toNat v r.isLt } }

/-- The PC moves past the word. -/
def State.advance (s : State) : State :=
  { s with hart := { s.hart with pc := s.hart.pc + 4 } }

/-- The PC goes elsewhere. -/
def State.jump (s : State) (pc : Word) : State :=
  { s with hart := { s.hart with pc := pc } }

/-- The hart's wait. -/
def State.setWait (s : State) (w : Wait) : State :=
  { s with hart := { s.hart with wait := w } }

/-- The user-level registers. -/
def State.setCsr (s : State) (c : Csr) : State :=
  { s with hart := { s.hart with csr := c } }

/-- The supervisor registers. -/
def State.setTrap (s : State) (t : TrapRegs) : State :=
  { s with hart := { s.hart with trap := t } }

/-- The flags an instruction raises are ORed into FCSR (R156). -/
def State.raiseFlags (s : State) (fl : BitVec 8) : State :=
  s.setCsr { s.hart.csr with fcsr := s.hart.csr.fcsr ||| fl }

/-- A fresh value of the model's free-value counter. -/
def State.bumpFree (s : State) : State := { s with free := s.free + 1 }

/-- DIRTYV bits set by a write (R375). -/
def State.markDirty (s : State) (n : Nat) : State :=
  { s with hart := { s.hart with dirtyv := s.hart.dirtyv ||| BitVec.ofNat 43 (2 ^ n) } }

/-- Nanoseconds of one unit of the LEASE count: a millisecond (R450; DESIGN CHOICE, assumption log 94). -/
def leaseUnit : Nat := 1000000

/-- The LEASE count: what is left of the owner's lease, in whole units rounded up. -/
def Mgmt.leaseLeft (g : Mgmt) (now : Word) : BitVec 32 :=
  if g.owner = 0 then 0 else BitVec.ofNat 32 ((g.leaseEnd.toNat - now.toNat + leaseUnit - 1) / leaseUnit)

/-! ### Harts, cores, contexts and launches -/

/-- Every hart. -/
def State.harts (s : State) : List Hart := s.hart :: s.others

/-- A hart in its place among the others, by rising identity. -/
def insertHart (h : Hart) : List Hart → List Hart
  | [] => [h]
  | g :: t => if h.uid < g.uid then h :: g :: t else g :: insertHart h t

/-- The hart of an identity comes into focus. -/
def State.focus (s : State) (uid : Nat) : Option State :=
  if s.hart.uid = uid then some s
  else match s.others.find? (fun h => h.uid == uid) with
    | some h => some { s with
        hart := h, others := insertHart s.hart (s.others.filter fun g => g.uid != uid) }
    | none => none

/-- A change of the hart of an identity, wherever it is. -/
def State.modHart (s : State) (uid : Nat) (f : Hart → Hart) : State :=
  { s with
    hart := if s.hart.uid = uid then f s.hart else s.hart
    others := s.others.map fun h => if h.uid = uid then f h else h }

/-- A change of every hart. -/
def State.mapHarts (s : State) (f : Hart → Hart) : State :=
  { s with hart := f s.hart, others := s.others.map f }

/-- The hart of an identity. -/
def State.findHart (s : State) (uid : Nat) : Option Hart :=
  s.harts.find? fun h => h.uid == uid

/-- A change of another hart, which keeps the one in focus. -/
def State.onOther (s : State) (uid : Nat) (f : State → State) : State :=
  match s.focus uid with
  | some t => ((f t).focus s.hart.uid).getD (f t)
  | none => s

/-- Whether a hart occupies its slot (R63). -/
def Hart.inSlot (h : Hart) : Bool :=
  match h.status with
  | .running => true
  | .laneWaiting => true
  | .sleeping => true
  | .held => false
  | .ready => false
  | .joinSleep => false
  | .exited => false

/-- The hart number of R9. -/
def Hart.number (h : Hart) : Nat := h.core * 4 + h.slot

/-- The die of a core (R8). -/
def dieOf (core : Nat) : Nat := core / 64

/-- The hamlet of a core (R8). -/
def hamletOf (core : Nat) : Nat := core / 8

/-- The launch of an identity, and its instance. -/
def launchOf (uid : Nat) : Nat := uid / 2 ^ 32

/-- The instance index of an identity (R9, R51). -/
def instOf (uid : Nat) : Nat := uid % 2 ^ 32

/-- A core's record. -/
def State.core (s : State) (c : Nat) : Core := (tget s.cores c).getD Core.reset

/-- A core's record written. -/
def State.setCore (s : State) (c : Nat) (v : Core) : State :=
  { s with cores := tset s.cores c v }

/-- A context's record. -/
def State.ctx (s : State) (c : Nat) : Ctx := (tget s.ctxs c).getD Ctx.reset

/-- A context's record written. -/
def State.setCtx (s : State) (c : Nat) (v : Ctx) : State :=
  { s with ctxs := tset s.ctxs c v }

/-- The context of the hart in focus. -/
def State.myCtx (s : State) : Ctx := s.ctx s.hart.ctx

/-- A launch's record written. -/
def State.setLaunch (s : State) (h : Nat) (l : Launch) : State :=
  { s with launches := tset s.launches h l }

/-- A hamlet's record. -/
def State.hamlet (s : State) (n : Nat) : Hamlet := (tget s.hamlets n).getD Hamlet.reset

/-- HBM addresses (R399). -/
def isHbm (pa : Nat) : Bool := decide (pa < 0x8000000000)

/-- Host windows (R399). -/
def isHost (pa : Nat) : Bool := decide (0x1000000000000 ≤ pa ∧ pa < 0x2000000000000)

/-- Domain windows (R399). -/
def isDomain (pa : Nat) : Bool := decide (0xE000000000000 ≤ pa ∧ pa < 0x10000000000000)

/-- The stack that holds an HBM address (R100). -/
def stackOf (pa : Nat) : Nat := bits pa 36 3

/-- The sub-channels of its stack that hold an HBM address under a granule (R100). -/
def stackSubs (g : BitVec 2) (pa : Nat) : List Nat :=
  let off := bits pa 0 36
  match g.toNat with
  | 0 => let q := off / 32
         [bits q 0 6 ^^^ bits q 6 6]
  | 1 => let n := off / 64
         let p := bits n 0 5 ^^^ bits n 5 5
         [2 * p, 2 * p + 1]
  | 2 => let n := off / 128
         let q := bits n 0 4 ^^^ bits n 4 4
         (List.range 4).map fun i => 4 * q + i
  | _ => let l := off / 256
         let q := (bits l 0 3 + bits l 3 3) % 8
         (List.range 8).map fun i => 8 * q + i

/-- The same by the device's numbers (R8); none outside HBM. -/
def subChannels (g : BitVec 2) (pa : Nat) : List Nat :=
  if isHbm pa then (stackSubs g pa).map fun c => stackOf pa * 64 + c else []

/-- An entry of a die's error log: 256 entries, the oldest overwritten (R432). -/
def State.logError (s : State) (die kind pa gran symbols : Nat) : State :=
  let d := (tget s.dieLogs die).getD DieLog.reset
  let e : ErrEntry := ⟨s.time, kind, pa, subChannels (BitVec.ofNat 2 gran) pa, gran, symbols⟩
  let d' : DieLog :=
    if d.log.length < 256 then { d with log := d.log ++ [e] }
    else { log := d.log.drop 1 ++ [e], ovf := d.ovf + 1 }
  { s with dieLogs := tset s.dieLogs die d' }

/-! ### Physical memory as L2 and HBM hold it -/

/-- A byte of memory. -/
def cellGet : List Host.Cell → Nat → Byte
  | [], _ => Config.unlisted
  | (k, b) :: t, a => if k = a then b else if a < k then Config.unlisted else cellGet t a

/-- A byte of memory written: the list stays in its one form. -/
def cellSet : List Host.Cell → Nat → Byte → List Host.Cell
  | [], a, b => if b = Config.unlisted then [] else [(a, b)]
  | (k, c) :: t, a, b =>
    if a < k then (if b = Config.unlisted then (k, c) :: t else (a, b) :: (k, c) :: t)
    else if a = k then (if b = Config.unlisted then t else (a, b) :: t)
    else (k, c) :: cellSet t a b

/-- Bytes written at rising addresses. -/
def cellsSet : List Host.Cell → Nat → List Byte → List Host.Cell
  | m, _, [] => m
  | m, a, b :: bs => cellsSet (cellSet m a b) (a + 1) bs

/-- Bytes read at rising addresses. -/
def cellsGet (m : List Host.Cell) (a n : Nat) : List Byte :=
  (List.range n).map fun i => cellGet m (a + i)

/-- The one form of memory: addresses strictly rising, no entry equal to an unlisted byte. -/
def Memory.wf : List Host.Cell → Bool
  | [] => true
  | [(_, b)] => decide (b ≠ Config.unlisted)
  | (a, b) :: (c, d) :: t =>
    decide (b ≠ Config.unlisted) && decide (a < c) && Memory.wf ((c, d) :: t)

/-- A little-endian word of memory at L2, as the walker and the dispatcher read it. -/
def State.memVal (s : State) (pa n : Nat) : Nat := bytesVal (cellsGet s.mem pa n)

/-- The granule code a byte was last written under (R101, R457). -/
def State.grainOf (s : State) (pa : Nat) : BitVec 2 := (tget s.grain pa).getD 3

/-- The bytes of a granule (R97). -/
def granuleBytes (g : BitVec 2) : Nat := 32 * 2 ^ g.toNat

/-- The granule that errors of a byte are kept by: the page's in HBM; outside HBM, where DGRAN is ignored (R97),
a sector. -/
def granOf (g : BitVec 2) (pa : Nat) : BitVec 2 := if isHbm pa then g else 0

/-- The sectors of the granule of a byte (R93, R97). -/
def granuleSectors (g : BitVec 2) (pa : Nat) : List Nat :=
  let n := granuleBytes (granOf g pa) / 32
  (List.range n).map fun i => pa / (32 * n) * n + i

/-- Whether a byte reads as poisoned (R99). -/
def State.poisoned (s : State) (pa : Nat) : Bool := s.poison.contains (pa / 32)

/-- What a read finds wrong with a byte. -/
inductive Flaw where
  | none | poison
  /-- Clean data in error that has not been fetched again (R431). -/
  | broken
deriving DecidableEq, Repr

/-- What is wrong with a byte at L2. -/
def State.flaw (s : State) (pa : Nat) : Flaw :=
  if s.broken.contains (pa / 32) then .broken else if s.poisoned pa then .poison else .none

/-- A byte at L2 under a granule: undefined when it was written under another (R101). -/
def State.l2Byte (s : State) (g : BitVec 2) (pa : Nat) : Byte :=
  if isHbm pa && s.grainOf pa != g then Config.freeByte s.free pa else cellGet s.mem pa

/-- Bytes at L2. -/
def State.l2Bytes (s : State) (g : BitVec 2) (pa n : Nat) : List Byte :=
  (List.range n).map fun i => s.l2Byte g (pa + i)

/-- A sector marked poisoned (R99). -/
def State.addPoison (s : State) (sec : Nat) : State :=
  if s.poison.contains sec then s else { s with poison := sec :: s.poison }

/-- Sectors marked poisoned. -/
def State.addPoisons (s : State) (secs : List Nat) : State := secs.foldl (fun t k => t.addPoison k) s

/-! ### The lines of L2 (R92 to R94) -/

/-- The home slice of a line (R92). -/
def l2Slice (line : Nat) : Nat :=
  bits line 0 8 ^^^ bits line 8 8 ^^^ bits line 16 8 ^^^ bits line 24 8 ^^^ bits line 32 8 ^^^ bits line 40 4

/-- The set of a line within its slice (R92). -/
def l2Set (line : Nat) : Nat := bits line 8 9

/-- Whether two lines share a set of one slice. -/
def sameSet (a b : Nat) : Bool := l2Slice a == l2Slice b && l2Set a == l2Set b

/-- The lines that a hart's tiles, pre-stages and advice pins hold. -/
def Hart.pinned (h : Hart) : List Nat :=
  (h.adv.pins.filter fun p => p.2 != 0).map (·.1) ++ h.adv.stages.flatMap (·.pins)
    ++ h.tb.toList.flatMap fun t => match t with
      | some t => t.pins
      | none => []

/-- Whether a host address lies in an aperture of the partition of a number (R441). -/
def State.inAperture (s : State) (part pa : Nat) : Bool :=
  ((tget s.mgmt.apertures part).getD []).any fun a =>
    decide (a.base ≤ pa - 0x1000000000000 ∧ pa - 0x1000000000000 < a.base + a.size)

/-- The partition that a line belongs to (R447): of HBM by its ranges; of a host window by its apertures, that of the
context in focus first. -/
def State.l2Part (s : State) (line : Nat) : Option Partition :=
  let pa := 256 * line
  if isHost pa then
    (((s.ctx s.hart.ctx).part :: List.range s.mgmt.parts.length).find? fun p => s.inAperture p pa).bind
      (s.mgmt.parts[·]?)
  else s.mgmt.parts.find? fun p => p.ranges.any fun (b, n) => decide (b ≤ pa ∧ pa < b + n)

/-- The ways that a line may occupy: those of the partition that it belongs to (R92, R448). -/
def State.l2Ways (s : State) (line : Nat) : BitVec 16 :=
  match s.l2Part line with
  | some p => p.ways
  | none => BitVec.allOnes 16

/-- The sectors of a line that lie in the granule of a sector. -/
def granuleMask (g : BitVec 2) (sec : Nat) : BitVec 8 :=
  BitVec.ofNat 8 ((2 ^ 2 ^ g.toNat - 1) <<< (sec / 2 ^ g.toNat * 2 ^ g.toNat))

/-- The sectors that L2 writes back when it evicts a line: those of the granules that hold dirty data (R93). -/
def L2Line.granules (l : L2Line) : List Nat :=
  (List.range 8).filter fun k => granuleMask l.gran k &&& l.dirty != 0

/-- A line leaves L2: dirty data is written back in whole granules, a granule that holds poisoned data is written as
poison, and poison of clean data that stands in L2 only is gone (R93, R99, R101). -/
def State.l2Drop (s : State) (line : Nat) : State :=
  match tget s.l2 line with
  | none => s
  | some l =>
    let bad (k : Nat) : Bool := (List.range 8).any fun j =>
      (granuleMask l.gran k).getLsbD j && s.poison.contains (8 * line + j)
    let t := s.addPoisons ((l.granules.filter bad).map (8 * line + ·))
    let gone (k : Nat) : Bool := k / 8 == line && !l.granules.contains (k % 8) && t.l2Poison.contains k
    { t with
      l2 := tdel t.l2 line
      broken := t.broken.filter fun k => k / 8 != line
      poison := t.poison.filter fun k => !gone k
      l2Poison := t.l2Poison.filter fun k => k / 8 != line }

/-- Memory with some bytes written. -/
def cellsPut (m l : List Host.Cell) : List Host.Cell := l.foldl (fun m (c : Host.Cell) => cellSet m c.1 c.2) m

/-- A line leaves L2; where a clean sector of it held other bytes than the host's memory, those of the host are read
from now on (R442). -/
def State.l2Evict (s : State) (line : Nat) : State :=
  let dirty (a : Nat) : Bool := match tget s.l2 line with
    | some l => l.dirty.getLsbD (a % 256 / 32)
    | none => false
  let t := s.l2Drop line
  { t with
    mem := cellsPut t.mem (t.hostMem.filter fun c => c.1 / 256 == line && !dirty c.1)
    hostMem := t.hostMem.filter fun c => c.1 / 256 != line }

/-- Whether a line of L2 may go by itself: no pin holds it, its set has no such line of a lower replacement priority
(R92, R94, R208). -/
def State.l2Goes (s : State) (line : Nat) (l : L2Line) : Bool :=
  let pinned := s.harts.flatMap Hart.pinned
  !pinned.contains line && (!l.keep || s.l2.all fun (n, k) => !(sameSet line n && !pinned.contains n && !k.keep))

/-- The line of a set that makes room for another: one of the given ways, of the device's choice (R92, R94). A copy
that differs from the host's memory is not chosen: such a line goes by an eviction of its own. -/
def State.l2Victim (s : State) (line : Nat) (ways : BitVec 16) : Option Nat :=
  let cands := (s.l2.filter fun (n, l) =>
    sameSet line n && ways.getLsbD l.way && s.l2Goes n l && !(s.hostMem.any fun c => c.1 / 256 == n)).map (·.1)
  cands.foldl (fun a n => match a with
    | none => some n
    | some m => if Config.freeOrder s.free n < Config.freeOrder s.free m then some n else some m) none

/-- A line put into a way of its set, with nothing valid yet; a line of another device is in no L2 of this
one (R102), and a set with every permitted way pinned takes no line. -/
def State.l2Alloc (s : State) (g : BitVec 2) (line : Nat) : State :=
  if (tget s.l2 line).isSome || isDomain (256 * line) then s
  else
    let ways := s.l2Ways line
    let used := (s.l2.filter fun (n, _) => sameSet line n).map fun (_, l) => l.way
    let put (t : State) (w : Nat) : State :=
      { t with l2 := tset t.l2 line ⟨w, 0, 0, granOf g (256 * line), false, true⟩ }
    match (List.range 16).find? fun w => ways.getLsbD w && !used.contains w with
    | some w => put s w
    | none => match s.l2Victim line ways with
      | some v => match tget s.l2 v with
        | some l => put (s.l2Drop v) l.way
        | none => s
      | none => s

/-- A sector made valid in L2, with the whole granule that its fill reads (R93), which is the access's; `dirty` when
a write merges into it. -/
def State.l2Sector (s : State) (g : BitVec 2) (dirty : Bool) (sec : Nat) : State :=
  let t := s.l2Alloc g (sec / 8)
  match tget t.l2 (sec / 8) with
  | none => t
  | some l =>
    let g' := granOf g (32 * sec)
    { t with l2 := tset t.l2 (sec / 8) { l with
        valid := if l.valid.getLsbD (sec % 8) then l.valid else l.valid ||| granuleMask g' (sec % 8)
        dirty := if dirty then l.dirty ||| BitVec.ofNat 8 (2 ^ (sec % 8)) else l.dirty
        gran := g' } }

/-- Whether L2's copy of a host line was taken under CACHE 0 (R442). -/
def State.hostMark (s : State) (snoop : Bool) (line : Nat) : State :=
  match tget s.l2 line with
  | some l => { s with l2 := tset s.l2 line { l with snoop := snoop } }
  | none => s

/-- L2's copies of host lines as an access leaves them: no copy under CACHE 2, and otherwise whether the host snoops them
(R411, R442). -/
def State.hostCopy (s : State) (t : Xlat) (n : Nat) : State :=
  if isHost t.pa then
    let lines := ((List.range n).map fun i => (t.pa + i) / 256).eraseDups
    if t.cache = 2 then lines.foldl (fun (u : State) k => u.l2Evict k) s
    else lines.foldl (fun (u : State) k => u.hostMark (t.cache == 0) k) s
  else s

/-- What a read of some bytes leaves in L2 (R74, R93): the sectors that it missed are filled, but those that no L2
of this device holds (R102) or that CACHE 2 keeps out (R411). -/
def State.l2Take (s : State) (t : Xlat) (pa n : Nat) : State :=
  if isHost t.pa ∧ t.cache = 2 then s
  else
    let u := ((List.range n).map fun i => (pa + i) / 32).eraseDups.foldl
      (fun (u : State) k => u.l2Sector t.gran false k) s
    if isHost t.pa then
      ((List.range n).map fun i => (pa + i) / 256).eraseDups.foldl (fun (u : State) k => u.hostMark (t.cache == 0) k) u
    else u

/-- The hash regions with the leaf of a written byte marked dirty (R436). -/
def markHash (rs : Tbl HashRegion) (pa : Nat) : Tbl HashRegion :=
  rs.map fun (n, r) =>
    if r.base ≤ pa ∧ pa < r.base + r.size then
      let leaf := (pa - r.base) / 65536
      (n, if r.dirty.contains leaf then r else { r with dirty := r.dirty ++ [leaf] })
    else (n, r)

/-- The granule record of a byte written under a granule. -/
def markGrain (t : Tbl (BitVec 2)) (g : BitVec 2) (pa : Nat) : Tbl (BitVec 2) :=
  if isHbm pa then (if g = 3 then tdel t pa else tset t pa g) else t

/-- What the target of a host or domain window held, as its byte is written (R441, R446). -/
def markPosted (t m host : List Host.Cell) (pa : Nat) : List Host.Cell :=
  if isHost pa || isDomain pa then tset t pa ((tget host pa).getD (cellGet m pa)) else t

/-- One byte written at L2 under a granule. -/
def State.l2Put (s : State) (g : BitVec 2) (pa : Nat) (b : Byte) : State :=
  { s with
    mem := cellSet s.mem pa b
    posted := markPosted s.posted s.mem s.hostMem pa
    grain := markGrain s.grain g pa
    regions := markHash s.regions pa }

/-- The poison of the granules that some written bytes cover whole is gone (R99). -/
def State.clearPoison (s : State) (g : BitVec 2) (pas : List Nat) : State :=
  if s.poison.isEmpty then s
  else
    let covered (sec : Nat) : Bool :=
      let n := granuleBytes (granOf g (32 * sec))
      (List.range n).all fun i => pas.contains (sec * 32 / n * n + i)
    { s with
      poison := s.poison.filter fun k => !covered k
      l2Poison := s.l2Poison.filter fun k => !covered k }

/-- Bytes written at L2, given by address: each sector is made valid before the write merges into it (R93), and
a write that covers a whole poisoned granule clears its poison (R99). -/
def State.l2Write (s : State) (g : BitVec 2) (cells : List Host.Cell) : State :=
  let t := (cells.map fun (c : Host.Cell) => c.1 / 32).eraseDups.foldl (fun (t : State) k => t.l2Sector g true k) s
  (cells.foldl (fun (t : State) (c : Host.Cell) => t.l2Put g c.1 c.2) t).clearPoison g (cells.map (·.1))

/-- Bytes with their addresses. -/
def cellsAt (pa : Nat) (bs : List Byte) : List Host.Cell :=
  (List.range bs.length).zip bs |>.map fun (i, b) => (pa + i, b)

/-- Bytes written at L2 at rising addresses. -/
def State.l2WriteAt (s : State) (g : BitVec 2) (pa : Nat) (bs : List Byte) : State :=
  s.l2Write g (cellsAt pa bs)

/-! ### Translated addresses -/

/-- The base of the local window (R87). -/
def windowBase : Nat := 0xFFFFFFFFFFC00000

/-- Whether an address lies in the local window (R87). -/
def inWindow (va : Word) : Bool := decide (windowBase ≤ va.toNat)

/-- The device number and the offset a domain address names (R399). -/
def domainDevice (pa : Nat) : Nat := bits pa 39 10

/-- The partition of a context. -/
def State.partition (s : State) (c : Nat) : Option Partition := s.mgmt.parts[(s.ctx c).part]?

/-- HBM addresses of a context's partition (R448). -/
def State.hbmBacked (s : State) (c pa : Nat) : Bool :=
  match s.partition c with
  | some p => p.ranges.any fun (b, n) => decide (b ≤ pa ∧ pa < b + n)
  | none => false

/-- Whether a physical address responds to a context (R399, R441, R445, R448). -/
def State.backed (s : State) (c pa : Nat) : Bool :=
  if isHbm pa then s.hbmBacked c pa
  else if isHost pa then s.inAperture (s.ctx c).part pa
  else if isDomain pa then
    if domainDevice pa = s.mgmt.ownDevice then s.hbmBacked c (bits pa 0 39)
    else s.mgmt.present.getLsbD (domainDevice pa) && Config.remoteBacked (domainDevice pa) (s.ctx c).part (bits pa 0 39)
  else false

/-- The storage a physical address names: a domain window of the own number loops back (R445). -/
def State.home (s : State) (pa : Nat) : Nat :=
  if isDomain pa && domainDevice pa == s.mgmt.ownDevice then bits pa 0 39 else pa

/-! ### The scalar walk -/

/-- The kinds of a scalar access (R404). -/
inductive Kind where
  | read | write | rw | fetch
deriving DecidableEq, Repr

/-- The physical address of page-table entry storage: an uncorrectable read raises 0x305 (R431). -/
def State.readEntry (s : State) (pa : Nat) : Except Halt Nat := do
  need (s.poison.contains (pa / 32) = false) 0x305 (BitVec.ofNat 64 pa)
  return s.memVal pa 8

/-- The leaf sizes a level allows (R401). -/
def leafSize (level sz : Nat) : Bool :=
  (level == 2 && decide (6 ≤ sz ∧ sz ≤ 11)) || (level == 3 && decide (sz ≤ 5))

/-- The bytes of a page of size code k (R401). -/
def pageBytes (sz : Nat) : Nat := 4096 * 4 ^ sz

/-- Whether a leaf is well formed at its level (R404). -/
def leafOk (level e : Nat) : Bool :=
  leafSize level (bits e 52 4) && (bits e 12 40 * 4096 % pageBytes (bits e 52 4) == 0)
    && bits e 10 2 != 3 && !(bit e 3 && !bit e 2)

/-- The walk below a table, over the levels that remain (R404): the leaf entry. -/
def State.walkFrom (s : State) (va : Word) : List Nat → Nat → Except Halt Nat
  | [], _ => .error (.trap 0x103 va)
  | level :: rest, t => do
    let e ← s.readEntry (t + 8 * bits va.toNat (48 - 12 * level) 12)
    need (bit e 0) 0x102 va
    if bit e 1 then
      need (leafOk level e) 0x103 va
      return e
    else
      need (level ≠ 3 ∧ bits e 1 14 = 0 ∧ bits e 52 12 = 0) 0x103 va
      s.walkFrom va rest (bits e 15 37 * 32768)

/-- The walk of R404 from the root. -/
def State.walk (s : State) (va : Word) : Except Halt Nat := do
  let c := s.myCtx
  need (c.sttb.toNat * 4096 % 32768 = 0) 0x103 va
  s.walkFrom va [1, 2, 3] (c.sttb.toNat * 4096)

/-- The checks a leaf passes, and the physical address (R404). -/
def State.leafCheck (s : State) (kind : Kind) (va : Word) (e : Nat) : Except Halt Xlat := do
  need (s.hart.trap.priv ∨ bit e 5) 0x104 va
  need (kind = .write ∨ kind = .fetch ∨ bit e 2) 0x105 va
  need (kind = .read ∨ kind = .fetch ∨ bit e 3) 0x106 va
  need (kind ≠ .fetch ∨ (bit e 4 ∧ ¬ bit e 8)) 0x107 va
  let pa := bits e 12 40 * 4096 + va.toNat % pageBytes (bits e 52 4)
  need (s.backed s.hart.ctx pa) 0x108 va
  return { pa := s.home pa, shared := bit e 9, seq := bit e 8, mig := bit e 63
           lnk := isDomain pa, cache := bits e 10 2, gran := BitVec.ofNat 2 (bits e 6 2) }

/-- A cached translation that covers an address (R406). -/
def TlbEntry.covers (t : TlbEntry) (ctx : BitVec 16) (va : Word) : Bool :=
  t.ctx == ctx && decide (t.va ≤ va.toNat ∧ va.toNat < t.va + t.size)

/-- Canonical addresses (R400). -/
def canonical (va : Word) : Bool :=
  bits va.toNat 47 17 == 0 || bits va.toNat 47 17 == 0x1FFFF

/-- The leaf entry of an address: from the TLB, or by a walk that fills it (R400, R404, R406). -/
def State.leaf (s : State) (va : Word) : Except Halt (Nat × State) := do
  need (canonical va) 0x100 va
  need s.myCtx.sttbEn 0x101 va
  match s.hart.tlb.find? fun t => t.covers s.hart.trap.ctxid va with
  | some t => return (t.entry.toNat, s)
  | none =>
    let e ← s.walk va
    let n := pageBytes (bits e 52 4)
    let t : TlbEntry := ⟨s.hart.trap.ctxid, va.toNat / n * n, n, BitVec.ofNat 64 e⟩
    return (e, { s with hart := { s.hart with tlb := t :: s.hart.tlb } })

/-- The scalar translation of an address outside the local window, parks apart (R400 to R406). -/
def State.xlat (s : State) (kind : Kind) (va : Word) : Except Halt (Xlat × State) := do
  let (e, s') ← s.leaf va
  let t ← s'.leafCheck kind va e
  return (t, s')

/-- The translation of a fetch: a fetch from the local window raises 0x107 with no walk (R405). -/
def State.xlatFetch (s : State) (va : Word) : Except Halt (Xlat × State) := do
  need (inWindow va = false) 0x107 va
  s.xlat .fetch va

/-! ### The vector port -/

/-- Entry i of the table the core holds (R407, R408). -/
def State.vttEntry (s : State) (i : Nat) : Nat :=
  bytesVal (cellsGet (s.core s.hart.core).vtt (8 * i) 8)

/-- The entries of a table, as the core keeps them: its 128 KiB by offset (R407). -/
def vttLoad (m : List Host.Cell) (base : Nat) : List Host.Cell :=
  (m.filter fun (a, _) => decide (base ≤ a ∧ a < base + 131072)).map fun (a, b) => (a - base, b)

/-- The vector translation of an address outside the local window (R407 to R409). -/
def State.xlatVec (s : State) (rd wr : Bool) (va : Word) : Except Halt Xlat := do
  let c := s.myCtx
  let base := c.vwbase.toNat * 2 ^ 40
  need (base ≤ va.toNat ∧ va.toNat < base + 2 ^ 40) 0x140 va
  need c.vttbEn 0x141 va
  let o := va.toNat - base
  let e := s.vttEntry (o / 2 ^ 26)
  need (bit e 0) 0x142 va
  need (bits e 13 13 = 0 ∧ ¬ bit e 4 ∧ ¬ bit e 1 ∧ bits e 10 2 ≠ 3 ∧ ¬ (bit e 3 ∧ ¬ bit e 2)) 0x143 va
  need (s.hart.trap.priv ∨ bit e 5) 0x144 va
  need (¬ rd ∨ bit e 2) 0x145 va
  need (¬ wr ∨ bit e 3) 0x146 va
  let pa := bits e 26 26 * 2 ^ 26 + o % 2 ^ 26
  need (s.backed s.hart.ctx pa) 0x147 va
  return { pa := s.home pa, shared := bit e 9, seq := bit e 8, mig := bit e 12
           lnk := isDomain pa, cache := bits e 10 2, gran := BitVec.ofNat 2 (bits e 6 2) }

/-- The window address under which the core's table holds a page of a physical address in migration (R412): the
sequence agent's accesses name blocks by physical address, and a valid entry of their frame with MIG = 1 holds them
(DEDUCED, assumption log 57). -/
def State.blockParked (s : State) (pa : Nat) : Option Word :=
  let is := ((s.core s.hart.core).vtt.map fun c => c.1 / 8).eraseDups
  let at_ (i : Nat) : Bool :=
    let e := s.vttEntry i
    bit e 0 && bit e 12 && s.home (bits e 26 26 * 2 ^ 26 + pa % 2 ^ 26) == pa
  (is.find? at_).map fun i => BitVec.ofNat 64 (s.myCtx.vwbase.toNat * 2 ^ 40 + i * 2 ^ 26 + pa % 2 ^ 26)

/-! ### Scratchpad -/

/-- A byte of the hart's scratchpad region (R87): undefined until written (R78). -/
def State.scrByte (s : State) (o : Nat) : Byte :=
  (tget s.hart.scr o).getD (Config.freeScr s.hart.scrTag o)

/-- Bytes of the region. -/
def State.scrBytes (s : State) (o n : Nat) : List Byte :=
  (List.range n).map fun i => s.scrByte (o + i)

/-- The words of the region that some bytes lie in. -/
def scrWords (o n : Nat) : List Nat := ((List.range n).map fun i => (o + i) / 4).eraseDups

/-- Bytes read from the region: a word in error raises 0x304 (R431). -/
def State.scrRead (s : State) (o n : Nat) : Except Halt (List Byte) := do
  need ((scrWords o n).all fun w => !s.hart.scrBad.contains w) 0x304 (BitVec.ofNat 64 o)
  return s.scrBytes o n

/-- Bytes written into a region. -/
def scrSet : List Host.Cell → Nat → List Byte → List Host.Cell
  | m, _, [] => m
  | m, o, b :: bs => scrSet (tset m o b) (o + 1) bs

/-- Bytes written into the hart's region; a word that they cover whole is no longer in error. -/
def State.scrWrite (s : State) (o : Nat) (bs : List Byte) : State :=
  { s with hart := { s.hart with
      scr := scrSet s.hart.scr o bs
      scrBad := s.hart.scrBad.filter fun w => !decide (o ≤ 4 * w ∧ 4 * w + 4 ≤ o + bs.length) } }

/-- The window offset of an address (R87). -/
def windowOffset (va : Word) : Nat := va.toNat - windowBase

/-- The bound of the window (R87): an access with any byte at or above the declared size. -/
def State.windowCheck (s : State) (va : Word) (n : Nat) : Except Halt Unit :=
  need (windowOffset va + n ≤ s.hart.bounds.scratch) 0x082 (BitVec.ofNat 64 (windowOffset va))

/-! ### L1 and L0 -/

/-- A line with nothing valid. -/
def L1Line.fresh (t : Xlat) (prio : BitVec 2) : L1Line where
  data := 0
  valid := 0
  broken := 0
  dirty := 0
  poison := 0
  shared := t.shared
  gran := t.gran
  prio := prio

/-- Byte o of a line. -/
def L1Line.byte (l : L1Line) (o : Nat) : Byte := BitVec.ofNat 8 (l.data.toNat >>> (8 * o))

/-- Byte o of a line replaced. -/
def L1Line.put (l : L1Line) (o : Nat) (b : Byte) : L1Line :=
  { l with data := (l.data &&& ~~~ (BitVec.ofNat 2048 0xFF <<< (8 * o)))
                     ||| (BitVec.ofNat 2048 b.toNat <<< (8 * o)) }

/-- A line of L1 written. -/
def State.setLine (s : State) (c line : Nat) (l : L1Line) : State :=
  s.setCore c { s.core c with l1 := tset (s.core c).l1 line l }

/-- The lines of L0 that some bytes lie in are invalidated in the harts of a core that `which` names (R75,
R76). -/
def State.dropL0 (s : State) (c : Nat) (which : Nat → Bool) (pa n : Nat) : State :=
  s.mapHarts fun h =>
    if h.core = c ∧ which h.uid = true then
      { h with l0 := h.l0.filter fun p => decide (64 * p.1 + 64 ≤ pa ∨ pa + n ≤ 64 * p.1) }
    else h

/-- A line with the dirty bytes of some offsets written back: L2 merges them (R80), and poisoned dirty bytes
poison their sectors (R431). -/
def State.writeBack (s : State) (c line : Nat) (keep : Nat → Bool) : State :=
  match tget (s.core c).l1 line with
  | none => s
  | some l =>
    let offs := (List.range 256).filter fun o => l.dirty.getLsbD o && keep o
    if offs.isEmpty then s
    else
      let s1 := s.l2Write l.gran (offs.map fun o => (256 * line + o, l.byte o))
      let s2 := offs.foldl (fun (t : State) o =>
        if l.poison.getLsbD o then t.addPoison ((256 * line + o) / 32) else t) s1
      let clear := offs.foldl (fun (m : BitVec 256) o => m ||| BitVec.ofNat 256 (2 ^ o)) 0
      s2.setLine c line { l with dirty := l.dirty &&& ~~~ clear }

/-- A line written back and dropped, with the lines of L0 that mirror it (R111). -/
def State.dropLine (s : State) (c line : Nat) : State :=
  let s' := (s.writeBack c line fun _ => true).dropL0 c (fun _ => true) (256 * line) 256
  s'.setCore c { s'.core c with l1 := tdel (s'.core c).l1 line }

/-- The lines that a core's L1 holds beside its scratchpad (R11, R78). -/
def Core.l1Lines (k : Core) : Nat := (8 - k.split) * 2048

/-- The lowest priority that L1 holds (R83). -/
def Core.lowest (k : Core) : Nat :=
  (k.l1.map (fun p => p.2.prio.toNat) ++ k.gathered.map fun g => g.prio.toNat).foldl min 3

/-- One line leaves a core's L1: of those at the lowest priority, one of the device's choice (R83, R86). -/
def State.evictOne (s : State) (c : Nat) : State :=
  let k := s.core c
  let cands := (k.l1.filter fun p => p.2.prio.toNat == k.lowest).map (·.1)
  match cands with
  | [] => s.setCore c { k with gathered := k.gathered.eraseP fun g => g.prio.toNat == k.lowest }
  | n :: t => s.dropLine c (t.foldl (fun a b =>
      if Config.freeOrder s.free b < Config.freeOrder s.free a then b else a) n)

/-- Lines evicted until L1 holds at most some number. -/
def State.evictTo (s : State) (c n : Nat) : Nat → State
  | 0 => s
  | f + 1 =>
    if (s.core c).l1.length + (s.core c).gathered.length ≤ n then s else (s.evictOne c).evictTo c n f

/-- Room made in a core's L1 for one more line (R11, R78). -/
def State.l1Room (s : State) (c : Nat) : State :=
  s.evictTo c ((s.core c).l1Lines - 1) ((s.core c).l1.length + (s.core c).gathered.length)

/-- A missing sector filled from L2: its bytes that are not dirty, with their poison and its error (R79, R93,
R431). -/
def State.fillSector (s : State) (l : L1Line) (line sec : Nat) : L1Line :=
  if l.valid.getLsbD sec then l
  else
    let l' := (List.range 32).foldl (fun (a : L1Line) i =>
      let o := 32 * sec + i
      if a.dirty.getLsbD o then a
      else
        let pa := 256 * line + o
        let a' := a.put o (s.l2Byte l.gran pa)
        if s.poisoned pa then { a' with poison := a'.poison ||| BitVec.ofNat 256 (2 ^ o) }
        else a') l
    { l' with
      valid := l'.valid ||| BitVec.ofNat 8 (2 ^ sec)
      broken := if s.broken.contains (8 * line + sec) then l'.broken ||| BitVec.ofNat 8 (2 ^ sec) else l'.broken }

/-- A line of L1 with its missing sectors filled (R79, R83). -/
def State.l1Line (s : State) (c : Nat) (t : Xlat) (prio : BitVec 2) (line : Nat) : L1Line :=
  (List.range 8).foldl (fun (l : L1Line) sec => s.fillSector l line sec)
    ((tget (s.core c).l1 line).getD (L1Line.fresh t prio))

/-- The lines of an access of n bytes allocated, with room made for those that are absent, and filled. -/
def State.l1Fill (s : State) (c : Nat) (t : Xlat) (prio : BitVec 2) : Nat → State
  | 0 => s
  | n + 1 =>
    let s' := s.l1Fill c t prio n
    let line := (t.pa + n) / 256
    let r := if (tget (s'.core c).l1 line).isSome then s' else s'.l1Room c
    r.setLine c line (r.l1Line c t prio line)

/-- What an access of n bytes that fills L1 leaves in L2: its lines whole (R83, R93). -/
def State.l1Took (s : State) (t : Xlat) (n : Nat) : State :=
  let a := t.pa / 256 * 256
  s.l2Take t a ((t.pa + n + 255) / 256 * 256 - a)

/-- A byte as L1 holds it, with what is wrong with it: from L1 where the sector is valid or the byte dirty, else
from L2. -/
def State.l1Byte (s : State) (c : Nat) (g : BitVec 2) (pa : Nat) : Byte × Flaw :=
  match tget (s.core c).l1 (pa / 256) with
  | some l =>
    let o := pa % 256
    if l.dirty.getLsbD o || l.valid.getLsbD (o / 32) then
      (l.byte o, if l.poison.getLsbD o then .poison
                 else if l.broken.getLsbD (o / 32) && !l.dirty.getLsbD o then .broken else .none)
    else (s.l2Byte g pa, s.flaw pa)
  | none => (s.l2Byte g pa, s.flaw pa)

/-- A byte as a read at L2 takes it: a dirty byte of the core's L1, else L2 (R83, R113). -/
def State.dirtyByte (s : State) (c : Nat) (g : BitVec 2) (pa : Nat) : Byte × Flaw :=
  match tget (s.core c).l1 (pa / 256) with
  | some l =>
    if l.dirty.getLsbD (pa % 256) then
      (l.byte (pa % 256), if l.poison.getLsbD (pa % 256) then .poison else .none)
    else (s.l2Byte g pa, s.flaw pa)
  | none => (s.l2Byte g pa, s.flaw pa)

/-- The bytes of a read, or its first flaw: consuming poison raises 0x300, and reading data in error before it
is fetched again 0x304 (R431). -/
def consume (pa : Nat) : List (Byte × Flaw) → Except Halt (List Byte)
  | [] => .ok []
  | (b, p) :: t => do
    need (p ≠ .broken) 0x304 (BitVec.ofNat 64 pa)
    need (p ≠ .poison) 0x300 (BitVec.ofNat 64 pa)
    let bs ← consume (pa + 1) t
    return b :: bs

/-- Bytes as a read at L2 finds them. -/
def State.l2Flawed (s : State) (g : BitVec 2) (pa n : Nat) : List (Byte × Flaw) :=
  (List.range n).map fun i => (s.l2Byte g (pa + i), s.flaw (pa + i))

/-- Bytes read at L2 by an agent that consumes them. -/
def State.l2Read (s : State) (g : BitVec 2) (pa n : Nat) : Except Halt (List Byte) := consume pa (s.l2Flawed g pa n)

/-- The line numbers of a core's L1. -/
def State.lines (s : State) (c : Nat) (sharedOnly : Bool) : List Nat :=
  ((s.core c).l1.filter fun (_, l) => !sharedOnly || l.shared).map fun (n, _) => n

/-- Dirty bytes of a core written back, in shared pages or in all (R111). -/
def State.writeBackAll (s : State) (c : Nat) (sharedOnly : Bool) : State :=
  (s.lines c sharedOnly).foldl (fun t n => t.writeBack c n fun _ => true) s

/-- A core's lines and gathered lines invalidated, in shared pages or in all; dirty bytes are first
written back (R79, R111). -/
def State.invalidate (s : State) (c : Nat) (sharedOnly : Bool) : State :=
  let s' := (s.lines c sharedOnly).foldl (fun t n => t.dropLine c n) s
  s'.setCore c { s'.core c with
    gathered := (s'.core c).gathered.filter fun g => sharedOnly && !g.shared }

/-- Gathered lines that cover a written byte are invalidated (R86). -/
def State.dropGathered (s : State) (c pa n : Nat) : State :=
  let k := s.core c
  if k.gathered.isEmpty then s
  else s.setCore c { k with gathered := k.gathered.filter fun g =>
    !(g.elems.any fun e => decide (e.1 < pa + n ∧ pa < e.1 + g.esize)) }

/-- Advice fills in flight are cancelled by an acquire that invalidates (R194). -/
def State.cancelFills (s : State) (c : Nat) : State :=
  s.mapHarts fun h => if h.core = c then { h with adv := { h.adv with fills := h.adv.fills.filter (·.l2) } } else h

/-- The L1 action of a release (R111). -/
def State.release (s : State) (wide : Bool) : State :=
  if wide then s.writeBackAll s.hart.core true else s

/-- The L1 action of an acquire (R111, R194). -/
def State.acquire (s : State) (wide : Bool) : State :=
  if wide then (s.invalidate s.hart.core true).cancelFills s.hart.core else s

/-- The priority code of a line. -/
def Alloc.prio : Alloc → BitVec 2
  | .low => 0
  | .normal => 1
  | .high => 2
  | .around => 1
  | .nc => 1

/-- The page's CACHE attribute over the instruction's choice (R411). -/
def Alloc.under (a : Alloc) (t : Xlat) (load : Bool) : Alloc :=
  if t.cache = 0 then a else if load then .nc else .around

/-- A read of n bytes at a translated address (R74, R77, R83): .nc loads write back the dirty bytes they access
and read L2; an access to a domain window is on the LNK path, and looks in no L1 (R81, R105, R113). L2 and L1 take
what it missed. -/
def State.readPhys (s : State) (a : Alloc) (t : Xlat) (n : Nat) : Except Halt (List Byte × State) := do
  let c := s.hart.core
  if t.lnk then
    let bs ← s.l2Read t.gran t.pa n
    return (bs, s.l2Take t t.pa n)
  else match a with
  | .nc =>
    let s' := (List.range n).foldl (fun (u : State) i =>
      u.writeBack c ((t.pa + i) / 256) fun o => o == (t.pa + i) % 256) s
    let u := s'.hostCopy t n
    let bs ← u.l2Read t.gran t.pa n
    return (bs, u.l2Take t t.pa n)
  | .around =>
    let u := s.hostCopy t n
    let bs ← consume t.pa ((List.range n).map fun i => u.dirtyByte c t.gran (t.pa + i))
    return (bs, u.l2Take t t.pa n)
  | _ =>
    let s' := s.l1Fill c t a.prio n
    let bs ← consume t.pa ((List.range n).map fun i => s'.l1Byte c t.gran (t.pa + i))
    return (bs, s'.l1Took t n)

/-- Bytes put into a core's line where the line holds them (R79, R83): `mark` makes them dirty, `clean` clears
their dirty bits, and neither keeps those. -/
def State.putLine (s : State) (c : Nat) (mark clean : Bool) : Nat → List Byte → State
  | _, [] => s
  | pa, b :: bs =>
    let s' := match tget (s.core c).l1 (pa / 256) with
      | some l =>
        let o := pa % 256
        if l.valid.getLsbD (o / 32) || l.dirty.getLsbD o then
          let l' := l.put o b
          let m := BitVec.ofNat 256 (2 ^ o)
          s.setLine c (pa / 256) { l' with
            dirty := if mark then l'.dirty ||| m else if clean then l'.dirty &&& ~~~ m else l'.dirty
            poison := l'.poison &&& ~~~ m }
        else s
      | none => s
    s'.putLine c mark clean (pa + 1) bs

/-- Whether an access brings its lines into L1. -/
def Alloc.fills : Alloc → Bool
  | .low => true
  | .normal => true
  | .high => true
  | .around => false
  | .nc => false

/-- A write of bytes at a translated address: into L1 where it allocates, around it otherwise (R83). `home`
makes it perform at L2 before any copy of its own core is updated, as a release does (R112): the copy that the
hint allocates is then clean; one that it finds keeps its dirty bits where the hint allocates none. On the LNK path
the write performs at its home and changes no L1 (R81, R105). -/
def State.writePhys (s : State) (a : Alloc) (home : Bool) (t : Xlat) (bs : List Byte) : State :=
  let c := s.hart.core
  if t.lnk then s.l2WriteAt t.gran t.pa bs
  else
    let s0 := s.dropGathered c t.pa bs.length
    if a.fills then
      if home then
        (((s0.l2WriteAt t.gran t.pa bs).l1Fill c t a.prio bs.length).putLine c false true t.pa bs).l1Took t bs.length
      else ((s0.l1Fill c t a.prio bs.length).putLine c true false t.pa bs).l1Took t bs.length
    else ((((s0.hostCopy t bs.length).l2WriteAt t.gran t.pa bs)).putLine c false false t.pa bs).hostCopy t bs.length

/-- The number of a line of L0. -/
def l0Line (pa : Nat) : Nat := pa / 64

/-- The bytes of a line of L0. -/
def l0Bytes (d : BitVec 512) (o n : Nat) : List Byte :=
  (List.range n).map fun i => BitVec.ofNat 8 (d.toNat >>> (8 * (o + i)))

/-- A line put into L0: four lines of a set, and a full set drops one of the device's choice (R75). Lines of a
set have numbers equal modulo 64 (DESIGN CHOICE, assumption log 21). -/
def Hart.l0Put (h : Hart) (free n : Nat) (d : BitVec 512) : Hart :=
  let mine := (h.l0.filter fun p => p.1 % 64 == n % 64).map (·.1)
  let t := if mine.length < 4 || mine.contains n then h.l0
    else tdel h.l0 (mine.foldl (fun a b => if Config.freeOrder free b < Config.freeOrder free a then b else a)
      (mine.headD 0))
  { h with l0 := tset t n d }

/-- A scalar load's miss fills its line of L0 from L1, which takes the two sectors from L2 (R75); a line with
poison or an error is not taken. -/
def State.l0Fill (s : State) (t : Xlat) : State :=
  let c := s.hart.core
  let n := l0Line t.pa
  let u := s.l1Fill c { t with pa := 64 * n } Alloc.normal.prio 64
  let bs := (List.range 64).map fun i => u.l1Byte c t.gran (64 * n + i)
  if bs.all fun b => b.2 == .none then
    { u with hart := u.hart.l0Put u.free n (BitVec.ofNat 512 (bytesVal (bs.map (·.1)))) }
  else u

/-- A scalar read of n bytes at a translated address: L0 serves the loads that allocate (R74, R75, R77). -/
def State.readScalar (s : State) (a : Alloc) (t : Xlat) (n : Nat) : Except Halt (List Byte × State) :=
  if a.fills && !t.lnk then
    match tget s.hart.l0 (l0Line t.pa) with
    | some d => .ok (l0Bytes d (t.pa % 64) n, s)
    | none => do
      let (bs, s') ← s.readPhys a t n
      return (bs, s'.l0Fill t)
  else s.readPhys a t n

/-- The bytes of the hart's own line of L0 replaced by a store's (R75). -/
def Hart.l0Store (h : Hart) (pa : Nat) (bs : List Byte) : Hart :=
  match tget h.l0 (l0Line pa) with
  | some d =>
    let o := 8 * (pa % 64)
    let m := BitVec.ofNat 512 (2 ^ (8 * bs.length) - 1) <<< o
    { h with l0 := tset h.l0 (l0Line pa) ((d &&& ~~~ m) ||| (BitVec.ofNat 512 (bytesVal bs) <<< o)) }
  | none => h

/-- A scalar write: it first invalidates the other harts' lines of L0, then performs at L1, and updates the
hart's own line (R75). -/
def State.writeScalar (s : State) (a : Alloc) (home : Bool) (t : Xlat) (bs : List Byte) : State :=
  if t.lnk then s.writePhys a home t bs
  else
    let u := (s.dropL0 s.hart.core (· != s.hart.uid) t.pa bs.length).writePhys a home t bs
    { u with hart := u.hart.l0Store t.pa bs }

/-! ### Sequence pages -/

/-- The slot size (R169). -/
def Seq.slotSize (q : Seq) : Nat := 64 * 2 ^ q.slotlog

/-- The handle number of a sequence at an arena index (R166). -/
def Seq.handle (q : Seq) (idx : Nat) : BitVec 32 := BitVec.ofNat 32 (q.gen * 2 ^ 20 + idx)

/-- The number a descriptor holds (R169). -/
def Seq.descriptor (q : Seq) : Nat :=
  q.clen + q.rlen * 2 ^ 64 + (if q.parent.isSome then 1 else 0) * 2 ^ 192
    + (q.parent.getD 0).toNat * 2 ^ 224 + q.forklen * 2 ^ 256 + q.refcnt * 2 ^ 288
    + q.slotlog * 2 ^ 320 + q.cls * 2 ^ 324 + 1 * 2 ^ 326 + q.resv.length * 2 ^ 328
    + q.root * 2 ^ 384 + q.voids * 2 ^ 448 + q.gen * 2 ^ 480

/-- The number a free arena entry's descriptor holds: its generation and STATE 0 (R169, R180); R180 says no more of
the other fields, and the model reads them as zero (DESIGN CHOICE, assumption log 34). -/
def freeDescriptor (gen : Nat) : Nat := gen * 2 ^ 480

/-- The arena's base address (R374). -/
def Ctx.arenaBase (c : Ctx) : Nat := c.arena.toNat * 4096

/-- The arena index of a physical address, if it names a descriptor (R166). -/
def Ctx.arenaIndex (c : Ctx) (pa : Nat) : Option Nat :=
  if c.arenaEn ∧ c.arenaBase ≤ pa ∧ pa < c.arenaBase + 64 * 2 ^ c.arenaLog.toNat then
    some ((pa - c.arenaBase) / 64)
  else none

/-- Whether a byte of a block is VISIBLE in some sequence that holds the block (R176). -/
def Ctx.visible (c : Ctx) (blk off : Nat) : Bool :=
  c.seqs.any fun (_, q) =>
    decide (off < 16 * q.slotSize) && q.blocks.any fun (b, pa) =>
      pa == blk && decide (16 * b + off / q.slotSize < q.clen)

/-- The context whose arena, or else whose block, a physical address lies in (R166, R176). -/
def State.seqOwner (s : State) (pa : Nat) : Option Ctx :=
  match s.ctxs.find? fun p => (p.2.arenaIndex pa).isSome with
  | some p => some p.2
  | none => (s.ctxs.find? fun p => p.2.blocks.any fun r => decide (r.1 ≤ pa ∧ pa < r.1 + r.2.size)).map (·.2)

/-- A byte of a SEQ page as the sequence agent serves it, whichever context the sequence belongs to (R176), with
what is wrong with it. -/
def State.seqByte (s : State) (pa : Nat) : Byte × Flaw :=
  match s.seqOwner pa with
  | none => (0, .none)
  | some k => match k.arenaIndex pa with
    | some i =>
      let d := match tget k.seqs i with
        | some q => q.descriptor
        | none => freeDescriptor ((tget k.gens i).getD 0)
      (BitVec.ofNat 8 (d / 2 ^ (8 * ((pa - k.arenaBase) % 64))), .none)
    | none =>
      match k.blocks.find? fun (b, r) => decide (b ≤ pa ∧ pa < b + r.size) with
      | some (b, _) => if k.visible b (pa - b) then (cellGet s.mem pa, s.flaw pa) else (0, .none)
      | none => (0, .none)

/-- Bytes of a SEQ page read; poison is consumed as elsewhere (R99, R431). -/
def State.seqBytes (s : State) (pa n : Nat) : Except Halt (List Byte) :=
  consume pa ((List.range n).map fun i => s.seqByte (pa + i))

/-! ### Scalar accesses -/

/-- The checks of a scalar access after its alignment (R243, R246): window bound, translation, and
then the SEQ and MIGRATING attributes as the caller orders them. -/
def State.target (s : State) (kind : Kind) (va : Word) (n : Nat) : Except Halt (Target × State) := do
  if inWindow va then
    s.windowCheck va n
    return (.window (windowOffset va), s)
  else
    let (t, s') ← s.xlat kind va
    return (.phys t, s')

/-- A MIGRATING page parks the access (R412). -/
def parkCheck (t : Xlat) (va : Word) (vec : Bool) : Except Halt Unit :=
  if t.mig then .error (.wait (.parked va vec)) else .ok ()

/-- A scalar load of n bytes (R242, R243). -/
def State.load (s : State) (a : Alloc) (va : Word) (n : Nat) : Except Halt (Nat × State) := do
  need (va.toNat % n = 0) 0x0C0 va
  let (t, s1) ← s.target .read va n
  match t with
  | .window o =>
    let bs ← s1.scrRead o n
    return (bytesVal bs, s1)
  | .phys t =>
    parkCheck t va false
    if t.seq && !t.lnk then
      let bs ← s1.seqBytes t.pa n
      return (bytesVal bs, s1)
    else
      let (bs, s2) ← s1.readScalar (a.under t true) t n
      return (bytesVal bs, s2)

/-- A scalar store of n bytes (R242, R243): the first on its path after a wide release fence performs at L2
(R112); a store to a domain window is on the LNK path (R105), and performs at its home. Where it lags, it leaves the
hart and performs later (R110). -/
def State.store (s : State) (va : Word) (n v : Nat) : Except Halt State := do
  need (va.toNat % n = 0) 0x0C0 va
  let (t, s1) ← s.target .write va n
  match t with
  | .window o => return s1.scrWrite o (valBytes n v)
  | .phys t =>
    need (t.seq = false) 0x1C0 va
    parkCheck t va false
    let a := Alloc.normal.under t false
    if s.hart.lag && !s.hart.relScl && !t.lnk then
      return { s1 with hart := { s1.hart with pending := s1.hart.pending ++ [⟨true, t, a, valBytes n v⟩], lag := false } }
    else
      let s2 := s1.writeScalar a s.hart.relScl t (valBytes n v)
      return if t.lnk then s2 else { s2 with hart := { s2.hart with relScl := false } }

/-! ### Notifications -/

/-- A notification to a context's ring (R376): kind, the hart it names, detail and arguments. -/
def State.notify (s : State) (c kind uid detail a1 a2 : Nat) : State :=
  let k := s.ctx c
  let n := 2 ^ k.notLog.toNat
  let full : Bool := (k.ntail - k.nhead).toNat == n
  if !k.notifyEn || full then
    s.setCtx c { k with lost := if k.lost = BitVec.allOnes 32 then k.lost else k.lost + 1 }
  else
    let hn := ((s.findHart uid).map Hart.number).getD 0
    let entry := valBytes 8 s.time.toNat ++ valBytes 2 kind ++ valBytes 2 hn ++ valBytes 4 detail
      ++ valBytes 8 a1 ++ valBytes 8 a2
    let s1 := s.l2WriteAt 3 (k.notify.toNat * 4096 + 32 * (k.ntail.toNat % n)) entry
    let s2 := s1.setCtx c { k with ntail := k.ntail + 1 }
    s2.modHart uid fun h => { h with irqSoft := some ((k.ntail + 1).setWidth 64) }

/-! ### Taking an exception, and returning from one -/

/-- The handler's address (R416). -/
def TrapRegs.entry (t : TrapRegs) (cause : Cause) : Word :=
  let base := t.tvec.setWidth 64 <<< 2
  if t.vectored then base + BitVec.ofNat 64 (256 * (cause.toNat / 64)) else base

/-- Taking an exception (R416): TPC, TCAUSE, TVAL, TSTAT, the level and the interrupt enable, and the PC at the
handler, whose word is to be fetched (R418). Fetched-ahead words are dropped (R405). -/
def State.takeTrap (s : State) (cause : Cause) (tval at_ : Word) (vpart : Bool) : State :=
  let t := s.hart.trap
  { s with hart := { s.hart with
      pc := t.entry cause
      entry := some (t.entry cause)
      ibuf := []
      wait := .none
      status := .running
      trap := { t with
        tpc := (at_ >>> 2).setWidth 62
        tcause := cause
        tval := tval
        ppriv := t.priv
        pie := t.ie
        vpart := vpart
        priv := true
        ie := false } } }

/-- Data in error is fetched again: L2's, and a core's L1's with the lines of L0 that mirror it (R111, R431). -/
def State.refetch (s : State) (c : Nat) : State :=
  let k := s.core c
  let bad := (k.l1.filter fun p => p.2.broken != 0).map (·.1)
  let t := bad.foldl (fun (t : State) n => t.dropL0 c (fun _ => true) (256 * n) 256) { s with broken := [] }
  t.setCore c { k with l1 := k.l1.map fun p =>
    (p.1, { p.2 with valid := p.2.valid &&& ~~~ p.2.broken, broken := 0 }) }

/-- What a trap's cause records: consumed poison is logged (R432), and data in error is fetched again (R431). -/
def State.logConsumed (s : State) (cause : Cause) (tval : Word) : State :=
  let pa := tval.toNat
  if cause = 0x300 then s.logError (dieOf s.hart.core) 2 pa (s.grainOf pa).toNat 0
  else if cause = 0x304 then s.refetch s.hart.core
  else s

/-- A fault of the fetch at the entry PC: the hart enters no handler, the trap registers keep the
first trap's values, and the dispatcher holds the hart as host OP 1 does (R386, R418). -/
def State.noHandler (s : State) (c : Cause) (v : Word) : State :=
  let t := (s.logConsumed c v).notify s.hart.ctx 0x11 s.hart.uid c.toNat v.toNat 0
  { t with hart := { t.hart with wait := .entry, holdReq := true, saveReq := some .preempt, saveFrom := s.time } }

/-- Whether the hart's interrupted queue entry has a nonzero VSTART (R372, TSTAT.VPART). -/
def Hart.partial? (h : Hart) : Bool :=
  (h.queue.any fun e => e.interrupted) && h.csr.vstart != 0

/-- The return from an exception (R262, R369): PC from TPC, level and interrupt enable from TSTAT. -/
def State.returnTrap (s : State) : State :=
  let t := s.hart.trap
  { s with hart := { s.hart with
      pc := t.tpc.setWidth 64 <<< 2
      trap := { t with priv := t.ppriv, ie := t.pie } } }

/-- The status a wait gives a hart (R63). -/
def Wait.status : Wait → HStatus
  | .none => .running
  | .lanes => .laneWaiting
  | .waita .. => .sleeping
  | .vwait .. => .sleeping
  | .barrier _ => .sleeping
  | .join .. => .joinSleep
  | .wfi => .running
  | .pair .. => .running
  | .room _ => .running
  | .copyRoom => .running
  | .copyDrain => .running
  | .ctxWrite .. => .running
  | .parked .. => .running
  | .held => .running
  | .entry => .running

/-- The hart waits with its instruction at the PC. -/
def State.sleep (s : State) (w : Wait) : State :=
  { s with hart := { s.hart with
      wait := w
      status := w.status
      sleepAt := if s.hart.status = .sleeping then s.hart.sleepAt else s.time } }

/-- The hart runs again at the instruction it waited at. -/
def State.awake (s : State) : State :=
  { s with hart := { s.hart with wait := .none, status := .running } }

/-- The ticks left before a deadline: all ones stay (R250, R312). -/
def State.ticksLeft (s : State) (start left : Word) : Word :=
  if left = BitVec.allOnes 64 then left
  else BitVec.ofNat 64 (left.toNat - (s.time - start).toNat)

/-- The end of a sleep between rounds for a save, an interrupt or a trap of queued work: the ticks left stand in
the timeout register, and the wait instruction executes again (R250, R312). -/
def State.abandonWait (s : State) : State :=
  match s.hart.wait with
  | .waita _ _ d _ _ _ start left => (s.setX d (s.ticksLeft start left)).awake
  | .vwait _ _ _ xs _ _ start left _ => (s.setX xs (s.ticksLeft start left)).awake
  | _ => s.awake

/-- The step of an instruction that did not complete: its precise trap, or its wait. -/
def State.halt (s : State) : Halt → State
  | .trap c v => (s.logConsumed c v).takeTrap c v s.hart.pc s.hart.partial?
  | .wait w => s.sleep w

/-- The outcome of an instruction: its effect, its precise trap, or its wait. -/
def commit (s : State) (r : Except Halt State) : Host.Outcome State Fault Refusal :=
  match r with
  | .ok t => .next t
  | .error h => .next (s.halt h)

/-- The encoding cause of a major (R230). -/
def encCause (major : Nat) : Cause := BitVec.ofNat 10 major

/-- The TVAL of a word. -/
def wordVal (w : IWord) : Word := w.setWidth 64

end Sys2Proof.Machine
end

