-- ==== Sys2Proof/Machine/Formats.lean ====
section
/-! DEFINITION. The twelve formats of a descriptor, scales, flushing, conversions under every value of
RND, the windowed group sums, and the counter generator (07_number_formats.md, R341). -/

namespace Sys2Proof.Machine

/-! ### Formats by code (R150) -/

/-- The floating-point formats, codes 0 to 7. -/
def ffmt (code : Nat) : FFmt :=
  match code with
  | 0 => fp32
  | 1 => bf16
  | 2 => fp16
  | 3 => e5m2
  | 4 => e4m3
  | 5 => e3m2
  | 6 => e2m3
  | _ => e2m1

/-- Whether a code names a floating-point format. -/
def isFloatFmt (code : Nat) : Bool := decide (code ≤ 7)

/-- The element width of a format (R145). -/
def fmtWidth (code : Nat) : Nat :=
  match code with
  | 0 => 32
  | 1 => 16
  | 2 => 16
  | 7 => 4
  | 9 => 4
  | 11 => 32
  | _ => 8

/-- The source class of a format (R154): 0 narrow float, 1 16-bit float, 2 integer, 3 none. -/
def fmtClass (code : Nat) : Nat :=
  if 3 ≤ code ∧ code ≤ 7 then 0
  else if code = 1 ∨ code = 2 then 1
  else if 8 ≤ code ∧ code ≤ 10 then 2
  else 3

/-- The number a code of a format holds; BPI as its 8-bit integer (R143, R145, R146). -/
def fmtNum (fmt raw : Nat) : Num :=
  if isFloatFmt fmt then (ffmt fmt).decode (raw % 2 ^ ((ffmt fmt).low + 1))
  else Num.ofInt (sval (fmtWidth fmt) raw)

/-- A BPI element read at p planes (R149). -/
def bpiVal (p : Nat) (bias : Bool) (raw : Nat) : Int :=
  let u := raw % 256
  sval 8 (u - u % 2 ^ (8 - p)) + (if bias && p < 8 then 2 ^ (7 - p) else 0)

/-! ### The descriptor (R150) -/

/-- A format descriptor. -/
structure Desc where
  src1   : Nat
  src2   : Nat
  dst    : Nat
  rnd    : Nat
  flush  : Bool
  scale  : Nat
  planes : Nat
  resv   : Nat
deriving DecidableEq, Repr

/-- The fields of a descriptor register; bits [63:32] are not read. -/
def Desc.of (v : Word) : Desc where
  src1 := bits v.toNat 0 4
  src2 := bits v.toNat 4 4
  dst := bits v.toNat 8 4
  rnd := bits v.toNat 12 3
  flush := v.getLsbD 15
  scale := bits v.toNat 16 2
  planes := bits v.toNat 18 3
  resv := bits v.toNat 21 11

/-- Planes read of a BPI source. -/
def Desc.p (d : Desc) : Nat := d.planes + 1

/-- What an instruction accepts in a descriptor (R228): the codes of each field (empty: the field is
not used), whether its sources form a group sum, whether it checks SCALE, whether its destination
stands as the BPI operand (R289), and the values of RND it accepts. -/
structure Accept where
  src1  : List Nat
  src2  : List Nat
  dst   : List Nat
  group : Bool
  scale : Bool
  bpiDst : Bool
  rnds  : List Nat

/-- The checks of a descriptor in order (R151). The TVAL is the whole descriptor register, also the bits that R150
ignores; and a SRC2 of another class than SRC1 is 0x066, the class check of R151, and not the 0x061 that R228's
cell could be read as (assumption log 33). -/
def Desc.check (d : Desc) (a : Accept) (v : Word) : Except Halt Unit := do
  let used := [(d.src1, a.src1), (d.src2, a.src2), (d.dst, a.dst)].filter fun u => !u.2.isEmpty
  need (d.resv = 0) 0x062 v
  need (used.all (fun u => decide (u.1 < 12)) = true) 0x060 v
  need (used.all (fun u => u.2.contains u.1) = true) 0x061 v
  need (¬ a.group ∨ fmtClass d.src1 = fmtClass d.src2) 0x066 v
  let srcBpi := (!a.src1.isEmpty && d.src1 == 10) || (!a.src2.isEmpty && d.src2 == 10)
  need (¬ srcBpi ∨ d.planes ≠ 0) 0x063 v
  need (¬ a.scale ∨ ((d.scale = 3 ↔ (if a.bpiDst then d.dst == 10 else srcBpi) = true)
    ∧ ¬ (d.scale ≠ 0 ∧ ¬ a.dst.isEmpty ∧ d.dst = 11))) 0x065 v
  need (a.rnds.isEmpty ∨ a.rnds.contains d.rnd) 0x064 v

/-! ### Scales and flushing (R159, R160) -/

/-- The value of an E8M0 code (R147). -/
def e8m0 (c : Nat) : Num := if c % 256 = 255 then .nan true else .fin false 1 ((c % 256 : Nat) - 127) 1

/-- A value under a scale (R160): a NaN or infinite scale gives NaN. -/
def Num.scaled (x σ : Num) : Num :=
  if σ.isNan || σ.isInf then .nan true else (x.mul σ).1

/-- A value divided by a per-tensor scale (R289): a NaN, infinite or zero scale gives NaN. -/
def Num.unscaled (x σ : Num) : Num :=
  if σ.isNan || σ.isInf || σ.isZero then .nan true else (x.div σ).1

/-- A nonzero value whose exact magnitude lies below 2^−126 (R159). -/
def Num.subnormal32 (x : Num) : Bool :=
  match x with
  | .nan _ => false
  | .inf _ => false
  | .fin _ n e d => n != 0 && (Num.cmp (.fin false n e d) (.fin false 1 (-126) 1) == .lt)

/-- A source flushed to a zero of its sign. -/
def Num.flushed (x : Num) (fl : Bool) : Num :=
  if fl && x.subnormal32 then .zero x.sign else x

/-! ### Conversions (R155, R157, R158) -/

/-- An exact value converted to a format, after the flush of results (R159). -/
def convertTo (dst : Nat) (c : Choice) (fl : Bool) (x : Num) : Rounded :=
  if fl && x.subnormal32 then
    ⟨if isFloatFmt dst then (ffmt dst).signed x.sign 0 else 0, flUF ||| flNX⟩
  else if isFloatFmt dst then (ffmt dst).convert c x
  else
    let (z, f) := intConvert (fmtWidth dst) c x
    ⟨wrap (fmtWidth dst) z, f⟩

/-- Error-feedback rounding (R157): the code, the flags and the new residual. -/
def efRound (dst : Nat) (fl : Bool) (efr : BitVec 32) (x : Num) : Rounded × BitVec 32 :=
  let e := fp32.decode efr.toNat
  if x.isNan || x.isInf || e.isNan || e.isInf then (convertTo dst (.mode .rne) fl x, 0)
  else
    let sum := (x.add .rne e).1
    let y := convertTo dst (.mode .rne) fl sum
    if y.flags &&& (flOF ||| flNV) ≠ 0 then (y, 0)
    else
      let rest := (sum.add .rne (fmtNum dst y.code).neg).1
      (y, BitVec.ofNat 32 (fp32.convert (.mode .rne) rest).code)

/-! ### The counter generator (R341) -/

/-- Ten rounds of Philox4x32. -/
def philoxRounds : Nat → Nat → Nat → Nat → Nat → Nat → Nat → List Nat
  | 0, _, _, c0, c1, c2, c3 => [c0, c1, c2, c3]
  | n + 1, k0, k1, c0, c1, c2, c3 =>
    let p0 := 0xD2511F53 * c0
    let p1 := 0xCD9E8D57 * c2
    philoxRounds n ((k0 + 0x9E3779B9) % 2 ^ 32) ((k1 + 0xBB67AE85) % 2 ^ 32)
      (p1 / 2 ^ 32 ^^^ c1 ^^^ k0) (p1 % 2 ^ 32) (p0 / 2 ^ 32 ^^^ c3 ^^^ k1) (p0 % 2 ^ 32)

/-- The four draws of a key and a counter. -/
def philox (key : Word) (c0 c1 c2 c3 : Nat) : List Nat :=
  philoxRounds 10 (key.toNat % 2 ^ 32) (key.toNat / 2 ^ 32) c0 c1 c2 c3

/-- The draw of element i for the operands S, P and D (R158, R341). -/
def drawOf (key : Word) (S P D i : Nat) : Nat :=
  (philox key S ((P + i / 4) % 2 ^ 32) D 0).getD (i % 4) 0

/-! ### Conversion under a descriptor's RND -/

/-- The counter operands of stochastic rounding (R287). -/
structure DrawOps where
  key : Word
  S   : Nat
  P   : Nat
  D   : Nat
deriving DecidableEq, Repr

/-- Element i converted under RND (R152): the result and the new residual. -/
def convertRnd (dst rnd : Nat) (fl : Bool) (ops : DrawOps) (efr : BitVec 32) (i : Nat) (x : Num) :
    Rounded × BitVec 32 :=
  if rnd = 5 then efRound dst fl efr x
  else if rnd = 6 then (convertTo dst (.draw (drawOf ops.key ops.S ops.P ops.D i)) fl x, efr)
  else (convertTo dst (.mode (rmOf rnd)) fl x, efr)

/-! ### Block scales (R161) -/

/-- ⌊log2 (n × 2^e / d)⌋ of a positive value. -/
def floorLog2 (n : Nat) (e : Int) (d : Nat) : Int :=
  let k : Int := (Nat.log2 n : Int) - Nat.log2 d
  let ge : Bool := decide (n * 2 ^ (-k).toNat ≥ d * 2 ^ k.toNat)
  (if ge then k else k - 1) + e

/-- emax of a destination (R161). -/
def emaxOf (dst : Nat) : Int :=
  match dst with
  | 3 => 15
  | 4 => 8
  | 5 => 4
  | 6 => 2
  | 7 => 2
  | 9 => 2
  | _ => 6

/-- The largest magnitude of a list of finite values. -/
def amax (l : List Num) : Num :=
  l.foldl (fun a x => if (a.withSign false).cmp (x.withSign false) = .lt then x.withSign false else a)
    (.zero false)

/-- The scale code of a block (R161). -/
def blockScale (dst : Nat) (l : List Num) : Nat :=
  if l.any fun x => x.isNan || x.isInf then 0xFF
  else
    match amax l with
    | .fin _ n e d =>
      if n = 0 then 0x7F
      else (min 254 (max 0 (floorLog2 n e d - emaxOf dst + 127))).toNat
    | _ => 0xFF

/-- An element under its block's scale code: x / 2^(c − 127), or x itself under 0xFF (R161). -/
def byBlockScale (c : Nat) (x : Num) : Num :=
  if c = 0xFF then x
  else match x with
    | .fin s n e d => .fin s n (e - ((c : Int) - 127)) d
    | y => y

/-! ### Group sums (R162 to R165) -/

/-- The float-class group sum (R163): products of active terms with their flushed sources, one scale. -/
def groupSum (fl : Bool) (acc : Nat) (terms : List (Num × Num)) (scale : Num) : Nat :=
  let a := fp32.decode acc
  let prods := terms.map fun t => (t.1.mul t.2).1
  if terms.isEmpty then acc
  else if a.isNan || scale.isNan || scale.isInf || prods.any Num.isNan then 0x7FC00000
  else
    let infs := prods.filter Num.isInf
    if !infs.isEmpty then
      if infs.any Num.sign && infs.any (fun x => !x.sign) || scale.isZero then 0x7FC00000
      else
        let inf : Num := .inf ((infs.any Num.sign) != scale.sign)
        (fp32.result .rne (a.add .rne inf)).code
    else
      let fins := prods.filterMap fun x =>
        match x with
        | .fin s m e _ => if m = 0 then none else some (s, m, e)
        | _ => none
      match fins with
      | [] => acc
      | (_, _, e0) :: _ =>
        let emax := fins.foldl (fun (m : Int) t => max m t.2.2) e0
        let S : Int := fins.foldl (fun (z : Int) t =>
          let k := 12 - (emax - t.2.2)
          let m : Int := (shl t.2.1 k / 2 ^ (-k).toNat : Nat)
          if t.1 then z - m else z + m) 0
        let G := (Num.mul (.fin (decide (S < 0)) S.natAbs (emax - 12) 1) scale).1
        if G.isZero then acc
        else
          let sum := (a.add .rne G).1
          (convertTo 0 (.mode .rne) fl sum).code

/-- The integer-class block sum into INT32 (R164). -/
def blockSumInt (acc : Nat) (terms : List (Int × Int)) : Nat :=
  wrap 32 (sval 32 acc + terms.foldl (fun z t => z + t.1 * t.2) 0)

/-- The integer-class block sum into FP32 (R164). -/
def blockSumFp (fl : Bool) (acc : Nat) (terms : List (Int × Int)) (scale : Num) : Nat :=
  let a := fp32.decode acc
  if terms.isEmpty then acc
  else if a.isNan || scale.isNan || scale.isInf then 0x7FC00000
  else
    let T := terms.foldl (fun z t => z + t.1 * t.2) (0 : Int)
    let G := ((Num.ofInt T).mul scale).1
    if G.isZero then acc else (convertTo 0 (.mode .rne) fl (a.add .rne G).1).code

end Sys2Proof.Machine
end

