-- ==== Sys2Proof/Machine/Lanes.lean ====
section
/-! DEFINITION. The lane partition: VLMAX, grant points, the dispatcher's lane targets and LPART
(R44 to R49, R263, R373, R397). -/

namespace Sys2Proof.Machine

/-- The lane depth of a hart (R45). -/
def Hart.depth (h : Hart) : Nat := min 16 h.brim

/-- The bits of one vector register under the hart's grant: VLMAX1(w) × w for every w (R45, R263). -/
def Hart.regBits (h : Hart) : Nat := h.grant.lanes * h.depth * 32

/-- VLMAX for grouping 1 at a width (R45). -/
def Hart.vlmax1 (h : Hart) (w : Nat) : Nat := h.regBits / w

/-- VLMAX under a grouping (R263). -/
def Hart.vlmax (h : Hart) (g w : Nat) : Nat := g * h.vlmax1 w

/-- LGRANT: the current grant, 0 while the lanes are taken (R44, R49). -/
def Hart.lgrant (h : Hart) : Nat := if h.holds then h.grant.lanes else 0

/-- The address of a save area (R374, R377). -/
def Ctx.areaBase (k : Ctx) (i : Nat) : Nat := k.pool.toNat * 4096 + 0xC4000 * i

/-- A value of n bytes of the hart's save area, as the dispatcher reads it at L2 (R383). -/
def State.areaVal (s : State) (off n : Nat) : Nat :=
  match s.hart.saveIdx with
  | some i => bytesVal (s.l2Bytes 3 (s.myCtx.areaBase i + off) n)
  | none => 0

/-- The vector registers as the save area holds them: PIDX from the header, and the bits below it
(R379, R380). -/
def State.loadVregs (s : State) : State :=
  { s with
    free := s.free + 1
    hart := { s.hart with v := Vector.ofFn fun (i : Fin 32) =>
      let p := min (s.areaVal (0x40 + 4 * i.val) 4) 32768
      ⟨BitVec.ofNat 32768 (s.areaVal (0x20000 + 0x1000 * i.val) ((p + 7) / 8) % 2 ^ p), p, s.free * 32 + i.val⟩ } }

/-- The STATE word of the hart's save area written (R380). -/
def State.areaState (s : State) (v : Nat) : State :=
  match s.hart.saveIdx with
  | some i => s.l2WriteAt 3 (s.myCtx.areaBase i + 4) (valBytes 4 v)
  | none => s

/-- Whether two blocks share a lane. -/
def LaneBlock.meets (a b : LaneBlock) : Bool :=
  decide (a.base < b.base + b.lanes ∧ b.base < a.base + a.lanes)

/-- Whether every lane of a block is free or the hart's own (R46). -/
def State.blockFree (s : State) (b : LaneBlock) : Bool :=
  s.others.all fun h => !(h.core == s.hart.core && h.holds && h.grant.meets b)

/-- A register cut to a new VLMAX: elements below min(PIDX, VLMAX) keep their values (R47). -/
def VReg.cut (r : VReg) (n tag : Nat) : VReg where
  bits := r.bits &&& BitVec.ofNat 32768 (2 ^ min r.pidx n - 1)
  pidx := min r.pidx n
  tag := tag

/-! ### Targets (R397) -/

/-- A lane claimant of a core. -/
def Hart.claims (h : Hart) (core : Nat) : Bool :=
  h.core == core && h.inSlot && h.bounds.vregs != 0 && (!h.reclaimed || h.wait == .lanes || h.qwait == .lanes)

/-- The effective priority of a launch (R70). -/
def Launch.effective (l : Launch) : Nat := min 63 (l.prio + l.boost)

/-- The effective priority of a hart (R393). -/
def State.priority (s : State) (h : Hart) : Nat :=
  match tget s.launches (launchOf h.uid) with
  | some l => l.effective
  | none => 0

/-- A list with an element put before the first one that it precedes. -/
def insertBy {α : Type} (before : α → α → Bool) (a : α) : List α → List α
  | [] => [a]
  | b :: t => if before a b then a :: b :: t else b :: insertBy before a t

/-- A list sorted by a strict order; equal elements keep their places. -/
def sortBy {α : Type} (before : α → α → Bool) : List α → List α
  | [] => []
  | a :: t => insertBy (fun x y => !before y x) a (sortBy before t)

/-- The sizes of a row (R397). -/
def laneRow (n : Nat) : List Nat :=
  match n with
  | 0 => []
  | 1 => [64]
  | 2 => [32, 32]
  | 3 => [32, 16, 16]
  | _ => [16, 16, 16, 16]

/-- A size halved until it fits, down to 0 (R397). -/
def halveTo (left : Nat) : Nat → Nat
  | 64 => if 64 ≤ left then 64 else if 32 ≤ left then 32 else if 16 ≤ left then 16
          else if 8 ≤ left then 8 else 0
  | 32 => if 32 ≤ left then 32 else if 16 ≤ left then 16 else if 8 ≤ left then 8 else 0
  | 16 => if 16 ≤ left then 16 else if 8 ≤ left then 8 else 0
  | 8 => if 8 ≤ left then 8 else 0
  | _ => 0

/-- The sizes of the claimants in order (R397): a required grant stands in place of the size of the row; one that
does not fit the lanes that remain is halved until it fits, so that no claimant has a target of 0 while lanes are
free (R398), and its hart waits for the grant it requires (R270). -/
def laneSizes : List (Hart × Nat) → Nat → List (Nat × Nat)
  | [], _ => []
  | (h, row) :: t, left =>
    let n := halveTo left (if h.required = 0 then row else h.required)
    (h.uid, n) :: laneSizes t (left - n)

/-- The lowest free aligned block of a size among blocks already given. -/
def lowestBlock (used : List LaneBlock) (n : Nat) : LaneBlock :=
  if n = 0 then ⟨0, 0⟩
  else match (List.range (64 / n)).find? fun i => used.all fun u => !(LaneBlock.meets ⟨n, i * n⟩ u) with
    | some i => ⟨n, i * n⟩
    | none => ⟨0, 0⟩

/-- The blocks, given in order of size, largest first, and then in claimant order. -/
def laneBlocks : List (Nat × Nat) → List LaneBlock → List (Nat × LaneBlock)
  | [], _ => []
  | (uid, n) :: t, used =>
    let b := lowestBlock used n
    (uid, b) :: laneBlocks t (b :: used)

/-- The targets of a core's claimants (R397). -/
def State.laneTargets (s : State) (core : Nat) : List (Nat × LaneBlock) :=
  let cl := sortBy (fun (a b : Hart) => decide (a.slot < b.slot)) (s.harts.filter fun h => h.claims core)
  let first := cl.filter fun h => h.required != 0
  let rest := sortBy (fun (a b : Hart) => decide (s.priority b < s.priority a))
    (cl.filter fun h => h.required == 0)
  let sizes := laneSizes ((first ++ rest).zip (laneRow cl.length)) 64
  laneBlocks (sortBy (fun (a b : Nat × Nat) => decide (b.2 < a.2)) sizes) []

/-- The targets recomputed: a hart of the core that claims nothing has none; the moment of a change
is kept (R48, R397). -/
def State.retarget (s : State) (core : Nat) : State :=
  let ts := s.laneTargets core
  s.mapHarts fun h =>
    if h.core = core then
      let t := ((ts.find? fun p => p.1 == h.uid).map (·.2)).getD ⟨0, 0⟩
      if t = h.target then h else { h with target := t, targetAt := s.time }
    else h

/-- The hart's lanes go back to the pool; G stays what it was until the next grant point (R45). -/
def State.giveLanes (s : State) : State :=
  { s with hart := { s.hart with holds := false } }

/-! ### Grant points (R46, R47, R49) -/

/-- The registers cut to the layout of the hart's grant (R47). -/
def State.cutRegs (s : State) : State :=
  { s with
    free := s.free + 1
    hart := { s.hart with v := Vector.ofFn fun (i : Fin 32) =>
      (s.hart.v.get i).cut s.hart.regBits (s.free * 32 + i.val) } }

/-- A new grant taken (R47): lanes that a reclaim took come back with the vector state that the save
area holds (R49). -/
def State.relayout (s : State) (g : LaneBlock) : State :=
  let old := s.hart.grant.lanes
  let t : State := { s with hart := { s.hart with grant := g, holds := true, reclaimed := false, required := 0 } }
  if s.hart.reclaimed then (t.loadVregs.cutRegs).areaState 2
  else if g.lanes = old ∧ s.hart.holds then t
  else t.cutRegs

/-- A hart that is never a claimant (R46, R397). -/
def Hart.noLanes (h : Hart) : Bool := h.bounds.vregs == 0

/-! ### LPART (R373) -/

/-- The size code of a block. -/
def laneCode (n : Nat) : Nat :=
  match n with
  | 8 => 1
  | 16 => 2
  | 32 => 3
  | 64 => 4
  | _ => 0

/-- A block's number: first lane ÷ size; 0 for sizes 0 and 64. -/
def LaneBlock.number (b : LaneBlock) : Nat := if b.lanes = 0 then 0 else b.base / b.lanes

/-- The 16 bits of LPART of one hart. -/
def Hart.lpart (h : Hart) : Nat :=
  let g : LaneBlock := if h.holds then h.grant else ⟨0, 0⟩
  g.number * 2 ^ 11 + laneCode g.lanes * 2 ^ 8 + h.target.number * 2 ^ 3 + laneCode h.target.lanes

/-- LPART of the hart's core. -/
def State.lpart (s : State) : Nat :=
  (s.harts.filter fun h => h.core == s.hart.core && h.inSlot).foldl
    (fun n h => n + h.lpart * 2 ^ (16 * h.slot)) 0

end Sys2Proof.Machine
end

