-- ==== Sys2Proof/Machine/Operands.lean ====
section
/-! DEFINITION. Operands of queued instructions: type state (R223 to R227), elements of grouped
registers (R263, R267), predicates, second sources (R271), scale registers (R287), scalar operands
captured at queue entry (R23), the checks at queue entry (R225, R233, R265), and the way an
instruction enters its queue, stops inside itself or completes (R37, R268, R300, R428). -/

namespace Sys2Proof.Machine

/-! ### Type state (R223) -/

/-- VT.ETYPE. -/
def vtType (vt : BitVec 16) : Nat := bits vt.toNat 0 5

/-- The register grouping, 1, 2, 4 or 8. -/
def vtGroup (vt : BitVec 16) : Nat := 2 ^ bits vt.toNat 5 2

/-- VT.SHAPE. -/
def vtShape (vt : BitVec 16) : Nat := bits vt.toNat 8 8

/-- The width of an element type in bits; 0 for a reserved one. -/
def typeWidth (e : Nat) : Nat :=
  match e with
  | 0 => 32
  | 1 => 16
  | 2 => 16
  | 7 => 4
  | 9 => 16
  | 10 => 32
  | 11 => 64
  | 13 => 16
  | 14 => 32
  | 15 => 64
  | _ => if e < 23 then 8 else 0

/-- Float types f32 to e2m1. -/
def typeFloat (e : Nat) : Bool := decide (e ≤ 7)

/-- Integer types i8 to n64. -/
def typeInt (e : Nat) : Bool := decide (8 ≤ e ∧ e ≤ 15)

/-- Signed integer types. -/
def typeSigned (e : Nat) : Bool := decide (8 ≤ e ∧ e ≤ 11)

/-- Bit-plane types bp2 to bp8. -/
def typePlanes (e : Nat) : Bool := decide (16 ≤ e ∧ e ≤ 22)

/-- Whether a VT value is one setvt accepts (R223). -/
def vtOk (vt : BitVec 16) : Bool :=
  decide (vtType vt ≤ 22) && decide (vtShape vt ≤ 11) && !vt.getLsbD 7

/-- The VT a queued instruction was decoded against (R224, R381). -/
def State.qvt (s : State) : BitVec 16 :=
  match s.hart.replay with
  | some e => e.vt
  | none => s.hart.csr.vt

/-- The VL a queued instruction took at entry. -/
def State.qvl (s : State) : Nat :=
  match s.hart.replay with
  | some e => e.vl.toNat
  | none => s.hart.csr.vl.toNat

/-- The scalar operand j captured at entry (R23, R381), or the register's value now. -/
def State.qop (s : State) (j : Nat) (now : Word) : Word :=
  match s.hart.replay with
  | some e => e.ops.getD j 0
  | none => now

/-- The element width of a queued instruction. -/
def State.qw (s : State) : Nat := typeWidth (vtType s.qvt)

/-- The grouping of a queued instruction. -/
def State.qg (s : State) : Nat := vtGroup s.qvt

/-- VSTART as a number. -/
def State.vstart (s : State) : Nat := s.hart.csr.vstart.toNat

/-- VSTART written. -/
def State.setVstart (s : State) (n : Nat) : State :=
  s.setCsr { s.hart.csr with vstart := BitVec.ofNat 17 n }

/-! ### Vector registers (R263, R267) -/

/-- n bits of a register from bit lo: the bits at and above the progress index are free values. -/
def VReg.raw (r : VReg) (lo n : Nat) : Nat :=
  if lo + n ≤ r.pidx then r.bits.toNat >>> lo % 2 ^ n
  else
    let k := r.pidx - lo
    r.bits.toNat >>> lo % 2 ^ k + (Config.freeVec r.tag).toNat >>> (lo + k) % 2 ^ (n - k) * 2 ^ k

/-- Register n. -/
def State.vreg (s : State) (n : Nat) : VReg := s.hart.v.get (Fin.ofNat 32 n)

/-- Element i at width w of a grouped operand (R263). -/
def State.elem (s : State) (field w i : Nat) : Nat :=
  let m := s.hart.vlmax1 w
  (s.vreg (field + i / m)).raw (i % m * w) w

/-- Byte i of a grouped operand. -/
def State.vbyte (s : State) (field i : Nat) : Nat := s.elem field 8 i

/-- The elements of a register packed, the lowest first. -/
def packElems (w : Nat) (f : Nat → Nat) : Nat → Nat
  | 0 => 0
  | n + 1 => packElems w f n + (f n % 2 ^ w) <<< (n * w)

/-- Elements at width w written over g registers, `cnt r` of them into register r, with their
progress indices (R267). -/
def State.putRegs (s : State) (field w : Nat) (cnt f : Nat → Nat) : Nat → State
  | 0 => s
  | r + 1 =>
    let t := s.putRegs field w cnt f r
    let m := s.hart.vlmax1 w
    let n := cnt r
    let reg : VReg := ⟨BitVec.ofNat 32768 (packElems w (fun j => f (r * m + j)) n), n * w, s.free * 32 + r⟩
    let q := (field + r) % 32
    let u : State := { t with hart := { t.hart with
      v := t.hart.v.set q reg (Nat.mod_lt _ (by decide)) } }
    if n = 0 then u else u.markDirty q

/-- P elements written over a grouped destination; what they leave undefined is fresh (R267, R268). -/
def State.putVec (s : State) (field g w P : Nat) (f : Nat → Nat) : State :=
  (s.putRegs field w (fun r => min (P - r * s.hart.vlmax1 w) (s.hart.vlmax1 w)) f g).bumpFree

/-- A grouped destination written up to element E by an instruction that stops there: PIDX is the
greater of its old value and what was written (R268). -/
def State.putVecTo (s : State) (field g w E : Nat) (f : Nat → Nat) : State :=
  (s.putRegs field w (fun r =>
    max (min (E - r * s.hart.vlmax1 w) (s.hart.vlmax1 w))
      (((s.vreg (field + r)).pidx + w - 1) / w)) f g).bumpFree

/-- Bit i of a predicate (R216). -/
def State.active (s : State) (k : KReg) (i : Nat) : Bool := k == 0 || (s.mask k).getLsbD i

/-- A mask of bits 0 to n − 1 given by a function; the others 0. -/
def maskOf (n : Nat) (f : Nat → Bool) : Mask :=
  BitVec.ofNat 65536 (packElems 1 (fun i => if f i then 1 else 0) n)

/-! ### The second source (R271) -/

/-- The register a form reads as a scalar at queue entry (R23). -/
def State.srcScalar (s : State) (b : VSrc) : Word :=
  match b with
  | .vv _ => 0
  | .vx r => s.x r
  | .vi _ => 0
  | .vf r => s.f r

/-- The scalar operands that a second source captures at queue entry (R23, R381). -/
def State.srcOps (s : State) (b : VSrc) : List Word :=
  match b with
  | .vv _ => []
  | .vx r => [s.x r]
  | .vi _ => []
  | .vf r => [s.f r]

/-- The value of a vi constant for a type (R271). -/
def viValue (e : Nat) (c : BitVec 5) : Nat :=
  let w := typeWidth e
  if typeFloat e then
    let f := ffmt e
    let r := f.convert (.mode .rne) (Num.ofInt c.toInt)
    if r.flags &&& flOF = 0 then r.code else f.signed (decide (c.toInt < 0)) f.maxCode
  else wrap w c.toInt

/-- Element i of the second source; `sc` is the captured scalar. -/
def State.srcElem (s : State) (b : VSrc) (sc : Word) (i : Nat) : Nat :=
  let w := s.qw
  match b with
  | .vv r => s.elem r.toNat w i
  | .vx _ => sc.toNat % 2 ^ w
  | .vi c => viValue (vtType s.qvt) c
  | .vf _ => sc.toNat % 2 ^ w

/-- The vector span of a second source. -/
def srcSpan (b : VSrc) (g : Nat) : List (Nat × Nat) :=
  match b with
  | .vv r => [(r.toNat, g)]
  | .vx _ => []
  | .vi _ => []
  | .vf _ => []

/-- Whether a form's kind matches a type: vx integer types, vf float types, vv and vi every type
(R225, R271). -/
def srcMatches (b : VSrc) (e : Nat) : Bool :=
  match b with
  | .vv _ => true
  | .vx _ => typeInt e
  | .vi _ => true
  | .vf _ => typeFloat e

/-! ### Checks at queue entry -/

/-- What an instruction checks against header bounds and type state (R225, R233): the spans of its
vector operands in written order, then the four type-state conditions. -/
structure VCheck where
  spans : List (Nat × Nat)
  types : Bool
  group : Bool
  shape : Bool
  width : Bool
deriving DecidableEq, Repr

/-- Whether every field is a multiple of its span. -/
def spansAligned (l : List (Nat × Nat)) : Bool := l.all fun p => p.1 % p.2 == 0

/-- The header bound on vector registers (R233): the highest register an operand spans. -/
def State.boundV (s : State) : List (Nat × Nat) → Except Halt Unit
  | [] => .ok ()
  | (f, n) :: t => do
    need (n = 0 ∨ f + n - 1 < s.hart.bounds.vregs) 0x080 (BitVec.ofNat 64 (f + n - 1))
    s.boundV t

/-- Header bounds, then type state in order (R225, R230). -/
def State.vcheck (s : State) (c : VCheck) : Except Halt Unit := do
  let vt := s.hart.csr.vt.setWidth 64
  s.boundV c.spans
  need c.types 0x040 vt
  need c.group 0x041 vt
  need c.shape 0x043 vt
  need c.width 0x044 vt

/-- The VL check (R265), for a VLMAX. -/
def State.vlCheck (s : State) (vlmax : Nat) : Except Halt Unit :=
  need (s.hart.csr.vl.toNat ≤ vlmax) 0x0C4 (s.hart.csr.vl.setWidth 64)

/-- VLMAX under the current VT. -/
def State.vlmaxNow (s : State) : Nat :=
  s.hart.vlmax (vtGroup s.hart.csr.vt) (typeWidth (vtType s.hart.csr.vt))

/-! ### Running a queued instruction -/

/-- How a queued instruction ends: done; stopped at an element boundary with VSTART set (R48, R300);
stopped with VSTART set by a reliability cause (R428); with a precise cause, elements below VSTART
performed (R298, R299); waiting, elements below VSTART performed (R412); or probed, and left to perform from its
queue (R297). -/
inductive Ran where
  | done (s : State)
  | cut (s : State)
  | stopped (s : State) (cause : Cause) (tval : Word)
  | faulted (s : State) (cause : Cause) (tval : Word)
  | waiting (s : State) (w : Wait)
  | probed (s : State) (ts : List (Nat × Target))

/-- The entries a queue holds for a hart (R37). -/
def QKind.room (k : QKind) : Nat :=
  match k with
  | .viq => 32
  | .vmq => 32
  | .mq => 16

/-- Whether an instruction of a kind has an entry in a queue (R37): the execute half of a vector memory
instruction stands in the VIQ beside its address half in the VMQ. -/
def QKind.stands (k q : QKind) : Bool :=
  match k, q with
  | .viq, .viq => true
  | .vmq, .viq => true
  | .vmq, .vmq => true
  | .mq, .mq => true
  | _, _ => false

/-- The entries that a queue holds. -/
def Hart.entries (h : Hart) (q : QKind) : Nat := (h.queue.filter fun e => e.kind.stands q).length

/-- Whether the queues have room for an instruction (R37). -/
def Hart.hasRoom (h : Hart) (k : QKind) : Bool :=
  [QKind.viq, .vmq, .mq].all fun q => !k.stands q || decide (h.entries q < q.room)

/-- Whether a reliability trap holds the queues: a queued instruction that a handler issues waits, and
the hart makes no progress (R428). -/
def Hart.fenced (h : Hart) : Bool := h.queue.any fun e => e.rhold

/-- Whether the gauntlet checks an instruction that enters a queue now (R424): matrix instructions never, mread
among them. -/
def State.checkedNow (s : State) (k : QKind) (w : IWord) : Bool :=
  k != .mq && major w != 0x37 && (s.hart.csr.check == 2 || (s.hart.csr.check == 1 && s.hart.sample == 0))

/-- The gauntlet's sample count rises for each instruction that enters the VIQ (R424). -/
def State.sampled (s : State) (k : QKind) : State :=
  if k = .mq then s else { s with hart := { s.hart with sample := s.hart.sample + 1 } }

/-- Whether a word is a mepi (R319). -/
def isMepi (w : IWord) : Bool := major w == 0x37 && (fld w 27 5).toNat == 6

/-- Whether a word is an mtile (R319). -/
def isMtile (w : IWord) : Bool := major w == 0x37 && (fld w 27 5).toNat == 0

/-- An entry as the instruction at the PC captures it now (R23, R224, R268, R381). -/
def State.entryOf (s : State) (k : QKind) (w : IWord) (ops : List Word) (waited : Bool) : QEntry where
  kind := k
  word := w
  vt := s.hart.csr.vt
  vl := s.hart.csr.vl
  ops := ops
  valloc := s.hart.csr.valloc
  checked := s.checkedNow k w
  interrupted := false
  rhold := false
  pc := s.hart.pc
  waited := waited
  probe := none
  data := []
  zero := false

/-- The youngest entry of the queues. -/
def State.pushEntry (s : State) (e : QEntry) : State :=
  { s with hart := { s.hart with queue := s.hart.queue ++ [e] } }

/-- The entry under replay back at the head of the queues. -/
def State.requeue (s : State) (e : QEntry) : State :=
  { s with hart := { s.hart with queue := e :: s.hart.queue, replay := none } }

/-- A front end that waits for entries of the queues looks again once one of them has gone (R40). -/
def Wait.released (w : Wait) : Wait := if w = .held then .none else w

/-- Replay over: the entry has left its queue. -/
def State.endReplay (s : State) : State :=
  { s with hart := { s.hart with replay := none, wait := s.hart.wait.released } }

/-- The dispatcher's stop has happened. -/
def State.clearCut (s : State) : State := { s with hart := { s.hart with cut := none } }

/-- What the oldest entry of the queues waits for. -/
def State.setQwait (s : State) (w : Wait) : State := { s with hart := { s.hart with qwait := w } }

/-- VALLOC as a queued instruction took it at entry (R257). -/
def State.qvalloc (s : State) : Nat :=
  match s.hart.replay with
  | some e => e.valloc.toNat
  | none => s.hart.csr.valloc.toNat

/-- The elements of an element group (R38). -/
def State.egroup (s : State) : Nat := max 1 (s.hart.grant.lanes * 32 / s.qw)

/-! ### What the queues still write (R40, R267, R297) -/

/-- The vector registers that a queued instruction writes: the first, and how many. -/
def QEntry.vdst (e : QEntry) : Nat × Nat :=
  let g := vtGroup e.vt
  let w := e.word
  let d := (rrD w).toNat
  match major w with
  | 0x0A => (d, g)
  | 0x0B => (d, g)
  | 0x0C => (d, g)
  | 0x0D => (d, g)
  | 0x2E => (d, g)
  | 0x2F => (d, g)
  | 0x31 => (d, if rrFn w = 7 then 0 else g)
  | 0x32 =>
    let sc := (Desc.of (e.ops.getD 0 0)).scale
    ((fld w 12 5).toNat, if (fld w 6 3).toNat = 1 ∧ (sc = 1 ∨ sc = 3) then g + 1 else g)
  | 0x33 => (d, if rrFn w ≤ 1 then 0 else g)
  | 0x34 => (d, if rrFn w = 3 then g + 1 else g)
  | 0x36 => (d, if rrFn w = 1 then g else 0)
  | 0x37 => ((fld w 21 5).toNat, if (fld w 27 5).toNat = 5 then g else 0)
  | _ => (0, 0)

/-- The mask register that a queued instruction writes; k0 stands for none. -/
def QEntry.kdst (e : QEntry) : KReg :=
  let w := e.word
  match major w with
  | 0x0E => fld w 28 3
  | 0x30 => if rrFn w ≤ 9 then lo3 (rrD w) else 0
  | 0x33 => if rrFn w = 4 then vK w else 0
  | 0x36 => if rrFn w = 1 then vK w else 0
  | _ => 0

/-- Whether an entry of the queues writes one of some vector registers. -/
def State.writesSoon (s : State) (field n : Nat) : Bool :=
  s.hart.queue.any fun e => decide (e.vdst.1 < field + n ∧ field < e.vdst.1 + e.vdst.2)

/-- Whether an entry of the queues writes a mask register. -/
def State.masksSoon (s : State) (k : KReg) : Bool := k != 0 && s.hart.queue.any fun e => e.kdst == k

/-! ### What a resumption requires (R49, R270, R382) -/

/-- The VLMAX that a grant of some lanes would give (R45, R263). -/
def Hart.vlmaxWith (h : Hart) (lanes : Nat) (vt : BitVec 16) (w : Nat) : Nat :=
  vtGroup vt * (lanes * h.depth * 32 / w)

/-- The lengths a queued entry needs, with their widths (R382), as its checks at queue entry: its VL, for vdeq,
vcvt and vbunpack also at the destination's width (R265); 1,024 at 8 bits for vbpack, vbunpack and vldp (R291,
R303); vbound's block count at width 32 (R339). -/
def QEntry.needs (e : QEntry) : List (BitVec 16 × Nat × Nat) :=
  let at_ (w : Nat) := (e.vt, w, e.vl.toNat)
  let own := at_ (typeWidth (vtType e.vt))
  let byte := (e.vt, 8, 1024)
  let dst := at_ (fmtWidth (Desc.of (e.ops.getD 0 0)).dst)
  match major e.word with
  | 0x32 => match decodeVnar e.word with
    | .ok (.vbpack ..) => [own, byte]
    | .ok (.vbunpack ..) => [own, at_ 8, byte]
    | .ok (.vdeq ..) => [own, dst]
    | .ok (.vcvt ..) => [own, dst]
    | _ => [own]
  | 0x33 => match decodeVatt e.word with
    | .ok (.vbound ..) => [own, (e.vt, 32, bits (e.ops.getD 0 0).toNat 32 16)]
    | _ => [own]
  | 0x34 => match decodeVld e.word with
    | .ok (.vldp ..) => [own, byte]
    | _ => [own]
  | _ => [own]

/-- The smallest grant that a resumption requires (R49, R270, R382): for the VT and VL registers, and for every
entry of the queues, the one that executes among them. -/
def Hart.requiredGrant (h : Hart) : Nat :=
  let es := h.replay.toList ++ h.queue
  let all := (h.csr.vt, typeWidth (vtType h.csr.vt), h.csr.vl.toNat) :: es.flatMap QEntry.needs
  let meets (n : Nat) : Bool := all.all fun c => decide (c.2.2 ≤ h.vlmaxWith n c.1 c.2.1)
  ([0, 8, 16, 32].find? meets).getD 64

/-- A hart whose lanes a reclaim took is a claimant again at its grant point, with the grant that its
restore requires of what its queues hold then (R49, R397). -/
def State.reclaimTargets (s : State) : State :=
  if s.hart.reclaimed then
    let h := { s.hart with qwait := .lanes, required := s.hart.requiredGrant }
    let t := ({ s with hart := h } : State).retarget s.hart.core
    { t with hart := { t.hart with qwait := s.hart.qwait } }
  else s

/-- Whether the hart can take its target now: every lane free or its own, and no less than its
resumption requires (R46, R270, R382). -/
def State.canTake (s : State) : Bool :=
  s.blockFree s.hart.target && decide (s.hart.required ≤ s.hart.target.lanes)
    && !(s.hart.reclaimed && s.hart.target.lanes == 0)

/-- A grant point (R46): the target where its block is free, else the grant as it was. A change of VLMAX first
drains the queues (R47). -/
def State.grantPoint (s : State) : Except Halt State :=
  if s.hart.noLanes then .ok s
  else
    let t := s.reclaimTargets
    let lanes := if t.canTake then t.hart.target.lanes else t.hart.grant.lanes
    if lanes ≠ s.hart.grant.lanes ∧ ¬ s.hart.queue.isEmpty then .error (.wait .held)
    else if t.canTake then .ok (t.relayout t.hart.target)
    else .ok t

/-- Whether a hart with a nonzero request waits at its grant point: it holds no lanes (R46). -/
def State.lacksLanes (s : State) : Bool := s.hart.lgrant == 0 && !s.hart.noLanes

/-- Before a vector instruction leaves its queue, lanes that a reclaim or a save took are restored
through a grant point (R49). -/
def State.regain (s : State) : Except Halt State :=
  if s.hart.holds || s.hart.noLanes || s.hart.grant.lanes == 0 then .ok s
  else
    let t := s.reclaimTargets
    if t.canTake && t.hart.target.lanes != 0 then .ok (t.relayout t.hart.target)
    else .error (.wait .lanes)

/-! ### The gauntlet and single-lane rollback (R425, R427) -/

/-- The decision of an element (R425), from what runs 1 to 4 differ by from its right value: the difference that
stands, and the run under suspicion; none raises 0x301. Where run 4 decides, the suspect is the one of runs 1 and 2
that it overrules, and run 2 where it overrules both (DESIGN CHOICE, assumption log 26). -/
def decideRuns (d1 d2 d3 d4 : Word) : Option (Word × Option Nat) :=
  if d1 = d2 then some (d1, none)
  else if d3 = d1 then some (d3, some 2)
  else if d3 = d2 then some (d3, some 1)
  else if d4 = d2 then some (d4, some 1)
  else if d4 = d3 then some (d4, some 2)
  else none

/-- The lane of the grant that run r of an element uses (R38, R425): each run is one lane further, at 64 bits one
pair of lanes. -/
def State.laneOf (s : State) (elem r : Nat) : Nat :=
  let j := elem % s.egroup
  let G := max 1 s.hart.grant.lanes
  if s.qw = 64 then (2 * j + 2 * (r - 1)) % G else (j / (32 / s.qw) + (r - 1)) % G

/-- A result of an element as its lane delivers it: with the bits that came out wrong. -/
def State.lane (s : State) (elem v : Nat) : Nat :=
  match s.hart.trouble with
  | some (.wrong l) => v ^^^ ((tget l elem).getD 0).toNat
  | _ => v

/-- The same for a mask bit. -/
def State.laneBit (s : State) (elem : Nat) (b : Bool) : Bool :=
  match s.hart.trouble with
  | some (.wrong l) => b != ((tget l elem).getD 0 != 0)
  | _ => b

/-- The same for a result in a scalar register, to which every element belongs. -/
def State.laneX (s : State) (v : Word) : Word :=
  match s.hart.trouble with
  | some (.wrong l) => l.foldl (fun x p => x ^^^ p.2) v
  | _ => v

/-- A note on a lane that erred (R425, R427): the element group, the notification kind, the lane, and the first
argument. -/
structure LaneNote where
  group : Nat
  kind  : Nat
  lane  : Nat
  arg   : Nat

/-- The end of an instruction whose lanes erred: each of its groups that completed below an element is notified to
the hart's context (R425, R427). -/
def State.lanesDone (s : State) (L bound : Nat) (notes : List LaneNote) : State :=
  let t := (notes.filter fun n => decide (n.group * L + L ≤ bound)).foldl (fun (t : State) n =>
    t.notify t.hart.ctx n.kind t.hart.uid n.lane n.arg 0) s
  { t with hart := { t.hart with trouble := none } }

/-- The same for each way in which a run ends: a finished one has completed every group, another those below
VSTART. -/
def Ran.lanesDone (L : Nat) (notes : List LaneNote) : Ran → Ran
  | .done t => .done (t.lanesDone L (65536 + L) notes)
  | .cut t => .cut (t.lanesDone L t.vstart notes)
  | .stopped t c v => .stopped (t.lanesDone L t.vstart notes) c v
  | .faulted t c v => .faulted (t.lanesDone L t.vstart notes) c v
  | .waiting t x => .waiting (t.lanesDone L t.vstart notes) x
  | .probed t x => .probed t x

/-- An instruction that stops at an element group: what lies before has performed, and nothing of a whole
instruction (R269, R428). -/
def State.stopAtGroup (s : State) (elem : Nat) (w : IWord) (run : State → Except Halt Ran) : Except Halt Ran :=
  match run { s with hart := { s.hart with cut := some elem } } with
  | .ok (.cut t) => .ok (.stopped t.clearCut 0x301 (wordVal w))
  | .ok (.done _) => .ok (.stopped s 0x301 (wordVal w))
  | r => r

/-- The notes of the elements that a third or fourth run decided: one for each group, with the suspect of the lowest
such element (R425). -/
def State.runNotes (s : State) (w : IWord) (l : List LaneRuns) : List LaneNote :=
  let all := l.filterMap fun r => match decideRuns r.d1 r.d2 r.d3 r.d4 with
    | some (_, some n) => some (⟨r.elem / s.egroup, 0x12, s.laneOf r.elem n, w.toNat⟩ : LaneNote)
    | _ => none
  all.foldl (fun z n => if z.any fun m => m.group == n.group then z else z ++ [n]) []

/-- A vector instruction runs in lanes that err. Each element of a checked instruction whose runs differ is decided
by them, rightly or wrongly (R425); an unchecked one keeps its first run's value. A lane's own check is answered by
its re-execution (R427). What is not decided, or fails again, raises 0x301 at its group (R428). -/
def State.runLanes (s : State) (w : IWord) (checked : Bool) (runs : List LaneRuns) (fails : List LaneFail)
    (run : State → Except Halt Ran) : Except Halt Ran :=
  let L := s.egroup
  let here := runs.filter fun r => s.vstart ≤ r.elem && decide (r.elem < s.qvl)
  let lanes := fails.filter fun f => decide (s.vstart < f.group * L + L ∧ f.group * L < s.qvl)
    && decide (f.lane < s.hart.grant.lanes)
  let value (r : LaneRuns) : Option Word :=
    if checked then (decideRuns r.d1 r.d2 r.d3 r.d4).map (·.1) else some r.d1
  let stops := (here.filter fun r => (value r).isNone).map (·.elem / L) ++ (lanes.filter (·.again)).map (·.group)
  let wrong := here.foldl (fun (z : Tbl Word) r => match value r with
    | some d => if d = 0 then z else tset z r.elem d
    | none => z) []
  let notes := (if checked then s.runNotes w here else [])
    ++ (lanes.filter fun f => !f.again).map fun f => ⟨f.group, 0x13, f.lane, 0⟩
  let t : State := { s with hart := { s.hart with trouble := if wrong.isEmpty then none else some (.wrong wrong) } }
  (match stops.min? with
    | none => run t
    | some g => t.stopAtGroup (g * L) w run).map (Ran.lanesDone L notes)

/-- A queued instruction runs, with what goes wrong in its lanes; a matrix instruction uses none of them. -/
def State.runChecked (s : State) (k : QKind) (w : IWord) (checked : Bool) (run : State → Except Halt Ran) :
    Except Halt Ran :=
  if s.hart.lag && s.hart.replay.isNone then run s
  else match s.hart.trouble with
  | some (.lanes runs fails) => if k = .mq ∨ major w = 0x37 then run s else s.runLanes w checked runs fails run
  | _ => run s

/-! ### How a run ends -/

/-- A trap of a queued instruction: taken at the front end's next instruction boundary (R428). -/
def State.queuedTrap (s : State) (c : Cause) (v : Word) : State :=
  (s.abandonWait.logConsumed c v).takeTrap c v s.hart.pc s.hart.partial?

/-- A precise cause of an entry that executes again. Where the front end has executed nothing after it, TPC holds
its address, and it leaves its queue (R297, R417); otherwise it is held, and TPC holds the next instruction (DESIGN
CHOICE, assumption log 27). -/
def State.entryFault (s : State) (e : QEntry) (c : Cause) (v : Word) : State :=
  if e.pc + 4 = s.hart.pc ∧ s.hart.queue.isEmpty = true then
    (s.endReplay.logConsumed c v).takeTrap c v e.pc (s.hart.csr.vstart != 0)
  else (s.requeue { e with interrupted := true, rhold := true }).queuedTrap c v

/-- A sleep in which the front end takes part: the entry leaves its queue, and the front end waits at its
instruction (R312). -/
def State.sleepOut (s : State) (e : QEntry) (w : Wait) : State := (s.endReplay.jump e.pc).sleep w

/-- VSTART := 0 of a later setvl or claim, in queue order (R266). -/
def State.zeroed (s : State) (e : QEntry) : State := if e.zero then s.setVstart 0 else s

/-- The end of an entry's execution from a queue. -/
def State.replayed (s : State) (e : QEntry) (r : Except Halt Ran) : State :=
  match r with
  | .ok (.done t) => t.endReplay.zeroed e
  | .ok (.cut t) => (t.requeue { e with interrupted := true, data := [] }).clearCut
  | .ok (.stopped t c v) => (t.requeue { e with interrupted := true, rhold := true, data := [] }).queuedTrap c v
  | .ok (.faulted t c v) => t.entryFault e c v
  | .ok (.waiting t w) =>
    if w.status = .sleeping then t.sleepOut e w
    else (t.requeue { e with interrupted := true }).setQwait w
  | .ok (.probed t ts) => t.requeue { e with probe := some ts }
  | .error (.trap c v) => s.entryFault e c v
  | .error (.wait w) => (s.requeue e).setQwait w

/-- The effect of an instruction at the front end that runs at once, its queues being empty: `e` is its entry.
What stops or waits stays in the queue, and the front end goes on (R40), unless it waits at the instruction
(`holds`). -/
def ranNow (e : QEntry) (holds : Bool) : Ran → State
  | .done t => t.advance
  | .cut t => ((t.pushEntry { e with interrupted := true }).advance).clearCut
  | .stopped t c v => ((t.pushEntry { e with interrupted := true, rhold := true }).advance).queuedTrap c v
  | .faulted t c v => (t.logConsumed c v).takeTrap c v t.hart.pc (t.hart.csr.vstart != 0)
  | .waiting t w =>
    if holds then t.sleep w else ((t.pushEntry { e with interrupted := true }).advance).setQwait w
  | .probed t ts => (t.pushEntry { e with probe := some ts }).advance

/-- An instruction's run at the front end: it enters its empty queue and leaves it at once. Without its lanes (R49)
it stays in the queue, or, where the front end waits for it, at the PC. -/
def State.runNow (s : State) (k : QKind) (w : IWord) (ops : List Word) (holds waited : Bool)
    (run : State → Except Halt Ran) : Except Halt State := do
  let e := s.entryOf k w ops waited
  match (s.sampled k).regain with
  | .error (.trap c v) => .error (.trap c v)
  | .error (.wait x) =>
    if holds then return (s.sleep .held).setQwait x
    else return (((s.sampled k).pushEntry e).advance).setQwait x
  | .ok t => match t.runChecked k w e.checked run with
    | .error (.trap c v) => .error (.trap c v)
    | .error (.wait x) =>
      if holds then .error (.wait x) else return ((t.pushEntry e).advance).setQwait x
    | .ok r => return ranNow e holds r

/-- The run of an entry from its queue. -/
def State.runEntry (s : State) (k : QKind) (w : IWord) (e : QEntry) (run : State → Except Halt Ran) : State :=
  s.replayed e (do
    let t ← s.regain
    t.runChecked k w e.checked run)

/-- An instruction enters its queue (R37, R224): its checks, then its effect as if in entry order
(R324): at once when the queues are empty, unless it lags, and behind their entries when they are not. -/
def State.enter (s : State) (k : QKind) (w : IWord) (ops : List Word) (checks : Except Halt Unit)
    (run : State → Except Halt Ran) : Host.Outcome State Fault Refusal :=
  match s.hart.replay with
  | some e => .next (s.runEntry k w e run)
  | none =>
    commit s (do
      checks
      if s.hart.queue.isEmpty && !s.hart.lag then s.runNow k w ops false false run
      else if s.hart.fenced then .error (.wait .held)
      else if s.hart.hasRoom k then
        return ((s.sampled k).pushEntry (s.entryOf k w ops false)).advance
      else .error (.wait (.room k)))

/-- An instruction whose result the front end waits for (R40, R297): earlier entries drain first. -/
def State.enterWait (s : State) (k : QKind) (w : IWord) (ops : List Word) (checks : Except Halt Unit)
    (run : State → Except Halt Ran) : Host.Outcome State Fault Refusal :=
  match s.hart.replay with
  | some e => .next (s.runEntry k w e run)
  | none =>
    commit s (do
      checks
      if s.hart.queue.isEmpty then
        ({ s with hart := { s.hart with lag := false } } : State).runNow k w ops true true run
      else .error (.wait .held))

/-- Whether the hart has its lanes, or needs none: no grant point stands before its next queued instruction (R49). -/
def Hart.hasLanes (h : Hart) : Bool := h.holds || h.noLanes || h.grant.lanes == 0

/-- The state in which an instruction is probed behind entries of the queues: each of them leaves VSTART at 0
(R266, R268). -/
def State.probing (s : State) : State :=
  { s with hart := { s.hart with
      lag := true
      csr := if s.hart.queue.isEmpty then s.hart.csr else { s.hart.csr with vstart := 0 } } }

/-- Whether the trap of an instruction whose probe fails leaves a vector instruction with a nonzero VSTART: itself,
or an interrupted entry before it (R416). -/
def State.probePart (s : State) : Bool :=
  if s.hart.queue.isEmpty then s.hart.csr.vstart != 0 else s.hart.partial?

/-- An instruction is probed at queue entry, and its entry keeps the translations that the probe read (R296, R297);
it faults with no effect, or performs from its queue. -/
def State.probeBehind (s : State) (k : QKind) (w : IWord) (ops : List Word) (run : State → Except Halt Ran) :
    Except Halt State :=
  let e := s.entryOf k w ops false
  let t := s.sampled k
  match run t.probing with
  | .error h => .error h
  | .ok (.probed _ ts) => .ok (t.pushEntry { e with probe := some ts }).advance
  | .ok (.faulted _ c v) => .ok ((t.logConsumed c v).takeTrap c v t.hart.pc t.probePart)
  | .ok _ => .ok (t.pushEntry { e with probe := some [] }).advance

/-- An instruction whose probe the front end waits for (R297, R322, R328): it performs at once where nothing stands
before it, and enters its queue behind other entries once its probe has passed. The probe waits for the entries that
write its mask or its index (`late`), and one that reads a register (`reads`) for the hart's lanes. -/
def State.enterProbe (s : State) (k : QKind) (w : IWord) (ops : List Word) (late reads : Bool)
    (checks : Except Halt Unit) (run : State → Except Halt Ran) : Host.Outcome State Fault Refusal :=
  match s.hart.replay with
  | some e => .next (s.runEntry k w e run)
  | none =>
    commit s (do
      checks
      if late then .error (.wait .held)
      else if s.hart.queue.isEmpty && !s.hart.lag && s.hart.hasLanes then s.runNow k w ops false false run
      else if s.hart.fenced then .error (.wait .held)
      else if reads && !s.hart.hasLanes then
        if s.hart.queue.isEmpty then return (s.sleep .held).setQwait .lanes else .error (.wait .held)
      else if s.hart.hasRoom k then s.probeBehind k w ops run
      else .error (.wait (.room k)))

/-- The checks of an instruction whose vector operands are all grouped (R225, R233, R265), with further
spans. -/
def State.vstd (s : State) (fields : List Nat) (extra : List (Nat × Nat)) (types : Bool) :
    Except Halt Unit := do
  let g := vtGroup s.hart.csr.vt
  let spans := (fields.map fun f => (f, g)) ++ extra
  s.vcheck ⟨spans, types, spansAligned spans, true, true⟩
  s.vlCheck s.vlmaxNow

/-- VT.ETYPE now. -/
def State.etype (s : State) : Nat := vtType s.hart.csr.vt

/-- A front-end instruction that waits for the hart's queues to drain (R40, R257). -/
def State.drained (s : State) : Except Halt Unit :=
  if s.hart.queue.isEmpty then .ok () else .error (.wait .held)

/-! ### Elementwise and unit-resumable execution (R268, R269) -/

/-- Where an instruction of unit U stops: VL, or the element-group boundary, a multiple of U, at which
the dispatcher cuts it (R48, R269). -/
def State.stopAt (s : State) (U : Nat) : Nat :=
  match s.hart.cut with
  | some b =>
    let L := max U s.egroup
    if b / L * L > s.vstart then min s.qvl (b / L * L) else s.qvl
  | none => s.qvl

/-- The end of an elementwise instruction at element E: VSTART is 0, or E where it was cut. -/
def State.finish (s : State) (E : Nat) : Ran :=
  if E < s.qvl then .cut (s.setVstart E) else .done (s.setVstart 0)

/-- The elementwise form (R268): active elements from VSTART below the stop take their result, the
others keep their value, and PIDX covers what was written. -/
def State.elementwise (s : State) (d : Reg) (w : Nat) (k : KReg) (f : Nat → Nat) : Ran :=
  let E := s.stopAt 1
  let v0 := s.vstart
  if s.qvl ≤ v0 then .done (s.setVstart 0)
  else
    let old := s.elem d.toNat w
    let g (i : Nat) := if v0 ≤ i && i < E && s.active k i then s.lane i (f i) else old i
    let t := if E < s.qvl then s.putVecTo d.toNat s.qg w E g else s.putVec d.toNat s.qg w s.qvl g
    t.finish E

/-- The elementwise form with flags: the flags of active elements are ORed (R156). -/
def State.elementwiseF (s : State) (d : Reg) (w : Nat) (k : KReg) (f : Nat → Rounded) : Ran :=
  let E := s.stopAt 1
  let v0 := s.vstart
  let fl := (List.range E).foldl (fun (a : BitVec 8) i =>
    if v0 ≤ i && s.active k i then a ||| (f i).flags else a) 0
  (s.raiseFlags fl).elementwise d w k fun i => (f i).code

/-- The elementwise form over a mask destination (R268): masked-off bits are unchanged, and bits VL and
above are cleared. -/
def State.elementwiseK (s : State) (kd : KReg) (k : KReg) (f : Nat → Bool) : Ran :=
  let E := s.stopAt 1
  let v0 := s.vstart
  if s.qvl ≤ v0 then .done (s.setVstart 0)
  else
    let old := s.mask kd
    let t := s.setMask kd (maskOf s.qvl fun i =>
      if v0 ≤ i && i < E && s.active k i then s.laneBit i (f i) else old.getLsbD i)
    t.finish E

/-! ### Whole instructions (R269) -/

/-- A whole instruction that writes P elements of a grouped destination; nothing at VL = 0 (R42). -/
def State.whole (s : State) (d : Reg) (P : Nat) (f : Nat → Nat) : Ran :=
  if s.qvl = 0 then .done (s.setVstart 0)
  else .done ((s.putVec d.toNat s.qg s.qw P fun i => s.lane i (f i)).setVstart 0)

/-- A whole instruction that writes an x register. -/
def State.wholeX (s : State) (d : Reg) (v : Word) : Ran := .done ((s.setX d (s.laneX v)).setVstart 0)

end Sys2Proof.Machine
end

