-- ==== Sys2Proof/Machine/Sync.lean ====
section
/-! DEFINITION. Fences, waits on a word and hardware barriers (R247 to R253), with their L1 actions
(R111, R112). -/

namespace Sys2Proof.Machine

/-! ### Fences -/

/-- The release side of a fence (R111, R112): the write-back, and the next plain write on each path
made a release. -/
def State.fenceRelease (s : State) (sc : Scope) : State :=
  if sc.wide then
    let t := s.release true
    { t with hart := { t.hart with relScl := true, relVec := true } }
  else s

/-- What a fence of an order and a scope does to L1 (R111). -/
def State.fenceAct (s : State) (o : FenceOrder) (sc : Scope) : State :=
  match o with
  | .acq => s.acquire sc.wide
  | .rel => s.fenceRelease sc
  | .ar => (s.fenceRelease sc).acquire sc.wide
  | .full => (s.fenceRelease sc).acquire sc.wide

/-- fence (R247). -/
def execFence (o : FenceOrder) (sc : Scope) (s : State) : Host.Outcome State Fault Refusal :=
  .next (s.fenceAct o sc).advance

/-- The paths of the core's own accesses. -/
def nearPath : Path → Bool
  | .scl => true
  | .vec => true
  | .mtx => false
  | .cpy => false
  | .lnk => false
  | .seq => false

/-- The five commands of the copy engine. -/
inductive CopyKind where
  | cpy | gather | copyx | sum | coll
deriving DecidableEq, Repr

/-- The command of a word (R347, R348). -/
def copyKind (w : IWord) : CopyKind :=
  if fld w 0 6 = 0x38 then (if w.getLsbD 26 then .gather else .cpy)
  else match (fld w 26 6).toNat with
    | 0 => .copyx
    | 1 => .sum
    | _ => .coll

/-- Whether a command has payload on a path (R104, R105): a collective on LNK, and the bytes of any command in a
domain window; a gather's blocks and the bytes read from a SEQ page on SEQ. -/
def CopyCmd.on (c : CopyCmd) (p : Path) : Bool :=
  match p with
  | .scl => false
  | .vec => false
  | .mtx => false
  | .cpy => copyKind c.word != .coll
  | .lnk => copyKind c.word == .coll || c.lnk
  | .seq => copyKind c.word == .gather || c.seq

/-- Whether the hart has commands that have not performed on a first path (R111). -/
def State.pathBusy (s : State) (p : Path) : Bool := s.hart.copyq.any fun c => c.on p

/-- What a two-path fence does to L1 (R111). -/
def State.fencePaths (s : State) (p q : Path) (sc : Scope) : State :=
  if nearPath p then
    if nearPath q then s.fenceAct .full sc else s.writeBackAll s.hart.core false
  else if nearPath q then (s.invalidate s.hart.core false).cancelFills s.hart.core
  else s

/-- fence.p (R248): it first waits for the first path's commands (R111). -/
def execFenceP (p q : Path) (sc : Scope) (s : State) : Host.Outcome State Fault Refusal :=
  commit s (if s.pathBusy p then .error (.wait .copyDrain)
            else .ok (s.fencePaths p q sc).advance)

/-! ### Waiting on a word (R249, R250) -/

/-- A condition on the value read and the value wanted, in the extension of its kind (R249). -/
def WCond.met (c : WCond) (n v want : Nat) : Bool :=
  let w := 8 * n
  match c with
  | .eq => v % 2 ^ w == want % 2 ^ w
  | .ne => v % 2 ^ w != want % 2 ^ w
  | .lt => decide (sval w v < sval w want)
  | .ge => decide (sval w want ≤ sval w v)
  | .ltu => decide (v % 2 ^ w < want % 2 ^ w)
  | .geu => decide (want % 2 ^ w ≤ v % 2 ^ w)

/-- One read of a waita: at L2 with the core's dirty bytes (R58, R113), after its checks (R249). -/
def State.waitaRead (s : State) (va : Word) (n : Nat) : Except Halt (Nat × State) := do
  need (va.toNat % n = 0) 0x0C1 va
  let (t, s1) ← s.target .read va n
  match t with
  | .window o =>
    let bs ← s1.scrRead o n
    return (bytesVal bs, s1)
  | .phys t =>
    parkCheck t va false
    if t.seq && !t.lnk then
      let bs ← s1.seqBytes t.pa n
      return (bytesVal bs, s1)
    else
      let (bs, s2) ← s1.readPhys .around t n
      return (bytesVal bs, s2)

/-- Whether a deadline has passed (R249): a timeout of all ones never does. -/
def State.expired (s : State) (start left : Word) : Bool :=
  left != BitVec.allOnes 64 && decide (left.toNat ≤ (s.time - start).toNat)

/-- The end of a wait: its status in x[d], the hart running past the instruction. -/
def State.waitDone (s : State) (d : Reg) (status : Word) : State :=
  let t := (s.setX d status).advance
  { t with hart := { t.hart with wait := .none, status := .running } }

/-- One round of the loop of R249. -/
def State.waitaRound (s : State) (c : WCond) (n : Nat) (d : Reg) (addr want : Word) (sc : Scope)
    (start left : Word) : Except Halt State := do
  let (v, t) ← s.waitaRead addr n
  if c.met n v want.toNat then return (t.acquire sc.wide).waitDone d 0
  else if t.expired start left then return t.waitDone d 1
  else return t.sleep (.waita c n d addr want sc start left)

/-- The bytes of a waita (R249). -/
def waitaBytes (w32 : Bool) : Nat := if w32 then 4 else 8

/-- A waita at the front end. -/
def waita (c : WCond) (d a b : Reg) (w32 : Bool) (sc : Scope) (s : State) :
    Host.Outcome State Fault Refusal :=
  commit s (s.waitaRound c (waitaBytes w32) d (s.x a) (s.x b) sc s.time (s.x d))

/-- waita.eq (R249). -/
def execWaitaEq (d a b : Reg) (w32 : Bool) (sc : Scope) (s : State) : Host.Outcome State Fault Refusal :=
  waita .eq d a b w32 sc s

/-- waita.ne (R249). -/
def execWaitaNe (d a b : Reg) (w32 : Bool) (sc : Scope) (s : State) : Host.Outcome State Fault Refusal :=
  waita .ne d a b w32 sc s

/-- waita.lt (R249). -/
def execWaitaLt (d a b : Reg) (w32 : Bool) (sc : Scope) (s : State) : Host.Outcome State Fault Refusal :=
  waita .lt d a b w32 sc s

/-- waita.ge (R249). -/
def execWaitaGe (d a b : Reg) (w32 : Bool) (sc : Scope) (s : State) : Host.Outcome State Fault Refusal :=
  waita .ge d a b w32 sc s

/-- waita.ltu (R249). -/
def execWaitaLtu (d a b : Reg) (w32 : Bool) (sc : Scope) (s : State) : Host.Outcome State Fault Refusal :=
  waita .ltu d a b w32 sc s

/-- waita.geu (R249). -/
def execWaitaGeu (d a b : Reg) (w32 : Bool) (sc : Scope) (s : State) : Host.Outcome State Fault Refusal :=
  waita .geu d a b w32 sc s

/-! ### Barriers (R251 to R253) -/

/-- Whether a hart takes part in barrier n of a core (R251). -/
def Hart.joins (h : Hart) (core n : Nat) : Bool :=
  h.core == core && h.status != .exited && decide (n < h.bounds.barriers)

/-- Whether a hart has arrived in phase p of barrier n (R251, R253). -/
def Hart.arrivedIn (h : Hart) (n : Fin 16) (p : Nat) : Bool :=
  h.arrived.getLsbD n.val && h.phase.get n == p

/-- The end of a bar.wait of a hart (R251, R253). -/
def Hart.barrierDone (h : Hart) (n : Fin 16) : Hart :=
  { h with
    arrived := h.arrived &&& ~~~ BitVec.ofNat 16 (2 ^ n.val)
    pc := h.pc + 4
    wait := .none
    status := .running }

/-- Harts asleep in bar.wait whose phase has completed wake (R251). -/
def State.wakeBarrier (s : State) (core : Nat) (n : Fin 16) : State :=
  let p := (s.core core).phase.get n
  s.mapHarts fun h =>
    if h.core = core ∧ h.wait = .barrier (BitVec.ofFin n) ∧ h.status = .sleeping ∧ h.phase.get n < p
    then h.barrierDone n else h

/-- The phase of barrier n completes when every participant has arrived in it (R251). -/
def State.closeBarrier (s : State) (core : Nat) (n : Fin 16) : State :=
  let k := s.core core
  let p := k.phase.get n
  let parts := s.harts.filter fun h => h.joins core n.val
  if !parts.isEmpty && parts.all fun h => h.arrivedIn n p then
    (s.setCore core { k with phase := k.phase.set n.val (p + 1) n.isLt }).wakeBarrier core n
  else s

/-- Every barrier of a core, after a participant has left it (R251). -/
def State.closeBarriers (s : State) (core : Nat) : State :=
  (List.finRange 16).foldl (fun t n => t.closeBarrier core n) s

/-- The bound on a barrier number (R233, R251). -/
def State.barrierBound (s : State) (n : BitVec 4) : Except Halt Unit :=
  need (n.toNat < s.hart.bounds.barriers) 0x083 (n.setWidth 64)

/-- The hart's arrival in the current phase (R251). -/
def State.arrive (s : State) (n : Fin 16) : State :=
  let p := (s.core s.hart.core).phase.get n
  { s with hart := { s.hart with
      arrived := s.hart.arrived ||| BitVec.ofNat 16 (2 ^ n.val)
      phase := s.hart.phase.set n.val p n.isLt } }

/-- bar.arrive: after every earlier copy-engine command has performed (R251 to R253). -/
def execBarArrive (n : BitVec 4) (s : State) : Host.Outcome State Fault Refusal :=
  commit s (do
    s.barrierBound n
    need (s.hart.arrived.getLsbD n.toNat = false) 0x241 (n.setWidth 64)
    if s.hart.copyq.isEmpty then
      return ((s.arrive n.toFin).advance).closeBarrier s.hart.core n.toFin
    else .error (.wait .copyDrain))

/-- bar.wait: the hart sleeps until the phase it arrived in completes (R251, R253). -/
def execBarWait (n : BitVec 4) (s : State) : Host.Outcome State Fault Refusal :=
  commit s (do
    s.barrierBound n
    need (s.hart.arrived.getLsbD n.toNat) 0x240 (n.setWidth 64)
    if s.hart.phase.get n.toFin < (s.core s.hart.core).phase.get n.toFin then
      return { s with hart := s.hart.barrierDone n.toFin }
    else .error (.wait (.barrier n)))

end Sys2Proof.Machine
end

