-- ==== Sys2Proof/Machine/Events.lean ====
section
/-! DEFINITION. What the steps without a word share: a step of a named hart, and the boundaries at which a hart
is stopped from outside. -/

namespace Sys2Proof.Machine

/-- A step of the hart of an identity, which comes into focus; a hart that does not exist has no step and
nothing changes. -/
def onHart (uid : Nat) (s : State) (f : State → State) : Host.Outcome State Fault Refusal :=
  .next (match s.focus uid with
    | some t => f t
    | none => s)

/-- The step of a waiting instruction at a later moment: its effect, its trap, or its wait. -/
def State.settle (s : State) (r : Except Halt State) : State :=
  match r with
  | .ok t => t
  | .error h => s.halt h

/-- Whether the front end stands at an instruction boundary where a trap that comes from outside its
instructions is taken: it runs, or it sleeps in a waita or a vwait (R250, R312, R420). -/
def Hart.atBoundary (h : Hart) : Bool :=
  match h.status, h.wait with
  | .running, .none => true
  | .running, .room _ => true
  | .running, .copyRoom => true
  | .running, .copyDrain => true
  | .running, .held => true
  | .running, .entry => true
  | .sleeping, .waita .. => true
  | .sleeping, .vwait .. => true
  | _, _ => false

end Sys2Proof.Machine
end

