-- ==== Sys2Proof/Machine/Hash.lean ====
section
/-! DEFINITION. CRC-64 with the ECMA-182 polynomial (R348) and SHA-256 (R197, R435). -/

namespace Sys2Proof.Machine

/-! ### CRC-64 (R348) -/

/-- One bit of the CRC: no reflection. -/
def crcBits : Nat → BitVec 64 → BitVec 64
  | 0, c => c
  | n + 1, c => crcBits n (if c.msb then (c <<< 1) ^^^ 0x42F0E1EBA9EA3693 else c <<< 1)

/-- The CRC-64 of bytes, from a running value. -/
def crcFrom : BitVec 64 → List Byte → BitVec 64
  | c, [] => c
  | c, b :: bs => crcFrom (crcBits 8 (c ^^^ (b.setWidth 64 <<< 56))) bs

/-- The CRC-64 of bytes: initial value 0, no final XOR. -/
def crc64 (bs : List Byte) : BitVec 64 := crcFrom 0 bs

/-! ### SHA-256 -/

/-- The integer part of the k-th root of n among the numbers below 2^b that extend r, bit by bit. -/
def rootBits (k n : Nat) : Nat → Nat → Nat
  | 0, r => r
  | b + 1, r => rootBits k n b (if (r + 2 ^ b) ^ k ≤ n then r + 2 ^ b else r)

/-- The first 32 bits of the fractional part of the k-th root of p. -/
def rootFraction (k p : Nat) : BitVec 32 := BitVec.ofNat 32 (rootBits k (p * 2 ^ (32 * k)) 37 0)

/-- The primes below 312. -/
def smallPrimes : List Nat :=
  (List.range 312).filter fun p => 2 ≤ p && [2, 3, 5, 7, 11, 13, 17].all fun q => p == q || p % q != 0

/-- The 64 round constants: from the cube roots of the first primes. -/
def shaK : List (BitVec 32) := smallPrimes.map (rootFraction 3)

/-- Rotation to the right. -/
def rotr (x : BitVec 32) (n : Nat) : BitVec 32 := (x >>> n) ||| (x <<< (32 - n))

/-- The XOR of three rotations of a word. -/
def turns (x : BitVec 32) (i j k : Nat) : BitVec 32 := rotr x i ^^^ rotr x j ^^^ rotr x k

/-- Half of the working variables, the newest first. -/
structure ShaHalf where
  n1 : BitVec 32
  n2 : BitVec 32
  n3 : BitVec 32
  n4 : BitVec 32
deriving DecidableEq, Repr

/-- A word entering a half; the oldest leaves. -/
def ShaHalf.enter (x : ShaHalf) (w : BitVec 32) : ShaHalf := ⟨w, x.n1, x.n2, x.n3⟩

/-- Two halves added word by word. -/
def ShaHalf.plus (x y : ShaHalf) : ShaHalf := ⟨x.n1 + y.n1, x.n2 + y.n2, x.n3 + y.n3, x.n4 + y.n4⟩

/-- The bytes of a half, big-endian. -/
def ShaHalf.bytes (x : ShaHalf) : List Byte :=
  [x.n1, x.n2, x.n3, x.n4].flatMap fun w => (valBytes 4 w.toNat).reverse

/-- The initial hash value: from the square roots of the first eight primes. -/
def shaStart : ShaHalf × ShaHalf :=
  let r := rootFraction 2
  (⟨r 2, r 3, r 5, r 7⟩, ⟨r 11, r 13, r 17, r 19⟩)

/-- The message schedule, newest word first. -/
def shaSchedule : Nat → List (BitVec 32) → List (BitVec 32)
  | 0, w => w
  | n + 1, w =>
    let back (i : Nat) : BitVec 32 := w.getD (i - 1) 0
    let near := rotr (back 2) 17 ^^^ rotr (back 2) 19 ^^^ (back 2 >>> 10)
    let far := rotr (back 15) 7 ^^^ rotr (back 15) 18 ^^^ (back 15 >>> 3)
    shaSchedule n ((near + back 7 + far + back 16) :: w)

/-- One round on the two halves, with the sum of its schedule word and its constant. -/
def shaRound (v : ShaHalf × ShaHalf) (kw : BitVec 32) : ShaHalf × ShaHalf :=
  let (x, y) := v
  let pick := y.n3 ^^^ (y.n1 &&& (y.n2 ^^^ y.n3))
  let most := (x.n1 &&& (x.n2 ||| x.n3)) ||| (x.n2 &&& x.n3)
  let t := kw + y.n4 + turns y.n1 6 11 25 + pick
  (x.enter (t + turns x.n1 2 13 22 + most), y.enter (x.n4 + t))

/-- The big-endian 32-bit words of bytes. -/
def beWords : List Byte → List (BitVec 32)
  | a :: b :: c :: d :: t => (a ++ b ++ c ++ d) :: beWords t
  | _ => []

/-- The hash value after the blocks of a padded message. -/
def shaBlocks : Nat → ShaHalf × ShaHalf → List Byte → ShaHalf × ShaHalf
  | 0, v, _ => v
  | n + 1, v, m =>
    let w := (shaSchedule 48 (beWords (m.take 64)).reverse).reverse
    let r := (List.zipWith (· + ·) w shaK).foldl shaRound v
    shaBlocks n (v.1.plus r.1, v.2.plus r.2) (m.drop 64)

/-- The padded message. -/
def shaPad (m : List Byte) : List Byte :=
  let z := (119 - m.length % 64) % 64
  m ++ [0x80] ++ List.replicate z 0 ++ (valBytes 8 (8 * m.length)).reverse

/-- SHA-256 of bytes, as its 32 bytes. -/
def sha256 (m : List Byte) : List Byte :=
  let p := shaPad m
  let v := shaBlocks (p.length / 64) shaStart p
  v.1.bytes ++ v.2.bytes

end Sys2Proof.Machine
end

