-- ==== Sys2Proof/Machine/SeqAgent.lean ====
section
/-! DEFINITION. The sequence agent (R166 to R184): storage, slot states, reserve, commit, close, abandon,
drop, fork and the freeing of sequences. The agent's data lies in physical memory under G256
(assumption log 8). -/

namespace Sys2Proof.Machine

/-! ### Ranges of physical memory -/

/-- Memory with the bytes of a range zero: nothing is listed there. -/
def clearCells (m : List Host.Cell) (a n : Nat) : List Host.Cell :=
  m.filter fun c => !decide (a ≤ c.1 ∧ c.1 < a + n)

/-- The hash leaves that a written range touches marked dirty (R436). -/
def markHashRange (rs : Tbl HashRegion) (a n : Nat) : Tbl HashRegion :=
  rs.map fun (i, r) =>
    let lo := max a r.base
    let hi := min (a + n) (r.base + r.size)
    if lo < hi then
      let first := (lo - r.base) / 65536
      let last := (hi - 1 - r.base) / 65536
      let hit := (List.range (last + 1)).filter fun l => first ≤ l && !r.dirty.contains l
      (i, { r with dirty := r.dirty ++ hit })
    else (i, r)

/-- Sectors that stay poisoned when a range is written: those of granules it does not cover (R99). -/
def poisonAfter (ps : List Nat) (a n : Nat) : List Nat :=
  ps.filter fun p => !decide (a ≤ p / 8 * 256 ∧ p / 8 * 256 + 256 ≤ a + n)

/-- The lines of L2 that a range touches leave it: an agent writes whole granules behind them. -/
def State.l2EvictRange (s : State) (a n : Nat) : State :=
  (s.l2.filter fun p => decide (256 * p.1 < a + n ∧ a < 256 * p.1 + 256)).foldl (fun (t : State) p => t.l2Evict p.1) s

/-- A range of storage set to zero by an agent. -/
def State.zeroRange (s : State) (a n : Nat) : State :=
  let t := s.l2EvictRange a n
  { t with
    mem := clearCells t.mem a n
    poison := poisonAfter t.poison a n
    grain := t.grain.filter fun g => !decide (a ≤ g.1 ∧ g.1 < a + n)
    regions := markHashRange t.regions a n }

/-- A range of storage copied by an agent; poisoned sectors stay poisoned in the copy. -/
def State.copyRange (s : State) (src dst n : Nat) : State :=
  let t := s.zeroRange dst n
  let cells := s.mem.filter fun c => decide (src ≤ c.1 ∧ c.1 < src + n)
  let bad := s.poison.filter fun p => decide (src ≤ p * 32 ∧ p * 32 < src + n)
  let u := { t with mem := cells.foldl (fun m (c : Host.Cell) => cellSet m (c.1 - src + dst) c.2) t.mem }
  bad.foldl (fun (v : State) p => v.addPoison (p + dst / 32 - src / 32)) u

/-! ### Storage (R170, R181, R182) -/

/-- The bytes of a block of a sequence (R182). -/
def Seq.blockSize (q : Seq) : Nat :=
  if 16 * q.slotSize ≤ 32768 then 8192 * (q.cls + 1) else 16 * q.slotSize

/-- The bytes of a root or leaf table (R170). -/
def tableSize : Nat := 2048

/-- A piece of storage of a size: a free one of that size, or else a new one: tables and blocks of the four classes
from their pool, blocks of larger slots from their own (R182; assumption log 8). -/
def Ctx.alloc (k : Ctx) (n : Nat) : Option (Nat × Ctx) :=
  match k.freeList.find? fun p => p.1 == n with
  | some p => some (p.2, { k with freeList := k.freeList.erase p })
  | none =>
    if n ≤ 32768 then
      if k.poolNext + n ≤ k.poolEnd then some (k.poolNext, { k with poolNext := k.poolNext + n }) else none
    else if k.bigNext + n ≤ k.bigEnd then some (k.bigNext, { k with bigNext := k.bigNext + n })
    else none

/-- A piece given back. -/
def Ctx.release (k : Ctx) (n a : Nat) : Ctx := { k with freeList := (n, a) :: k.freeList }

/-- A leaf table for a block where the sequence has none (R170). -/
def Ctx.leafFor (k : Ctx) (q : Seq) (b : Nat) : Option (Ctx × Seq) :=
  match tget q.leaves (b / 256) with
  | some _ => some (k, q)
  | none => do
    let (a, k') ← k.alloc tableSize
    return (k', { q with leaves := tset q.leaves (b / 256) a })

/-- A block of storage where the sequence has none (R170). -/
def Ctx.blockFor (k : Ctx) (q : Seq) (b : Nat) : Option (Ctx × Seq) :=
  match tget q.blocks b with
  | some _ => some (k, q)
  | none => do
    let (k1, q1) ← k.leafFor q b
    let (a, k2) ← k1.alloc q.blockSize
    return ({ k2 with blocks := tset k2.blocks a ⟨q.blockSize, 1, 0⟩ }, { q1 with blocks := tset q1.blocks b a })

/-- Storage for several blocks, or none of it. -/
def Ctx.blocksFor (k : Ctx) (q : Seq) : List Nat → Option (Ctx × Seq)
  | [] => some (k, q)
  | b :: t => do
    let (k', q') ← k.blockFor q b
    k'.blocksFor q' t

/-! ### The block tables in memory (R170) -/

/-- The tables of a sequence, its root and its leaves. -/
def Seq.tables (q : Seq) : List Nat := q.root :: q.leaves.map (·.2)

/-- The entries of a sequence's tables that are not 0: address and value (R170). -/
def Seq.entries (q : Seq) : List (Nat × Nat) :=
  q.leaves.map (fun l => (q.root + 8 * l.1, l.2)) ++
    q.blocks.filterMap fun b => (tget q.leaves (b.1 / 256)).map fun a => (a + 8 * (b.1 % 256), b.2)

/-- Whether an address lies in a table. -/
def inTable (t a : Nat) : Bool := decide (t ≤ a ∧ a < t + tableSize)

/-- The tables of a sequence written as they now are, from what they were (R170): a new table is zero but for its
entries, and an entry that has changed is written. -/
def State.putTables (s : State) (old : Option Seq) (q : Seq) : State :=
  let tables := match old with
    | some o => o.tables
    | none => []
  let was := match old with
    | some o => o.entries
    | none => []
  let s1 := (q.tables.filter fun t => !tables.contains t).foldl (fun (u : State) t => u.zeroRange t tableSize) s
  let gone := was.filter fun e => !(q.entries.any fun f => f.1 == e.1) && q.tables.any fun t => inTable t e.1
  (gone.map (fun e => (e.1, 0)) ++ q.entries.filter fun e => !was.contains e).foldl
    (fun (u : State) e => u.l2WriteAt 3 e.1 (valBytes 8 e.2)) s1

/-- A reference to a block dropped: at zero its storage goes back (R181). -/
def Ctx.unref (k : Ctx) (pa : Nat) : Ctx :=
  match tget k.blocks pa with
  | some r =>
    if r.ref ≤ 1 then ({ k with blocks := tdel k.blocks pa }).release r.size pa
    else { k with blocks := tset k.blocks pa { r with ref := r.ref - 1 } }
  | none => k

/-! ### Handles (R166, R167) -/

/-- The arena index of a handle number. -/
def handleIndex (h : BitVec 32) : Nat := h.toNat % 2 ^ 20

/-- The live sequence a handle number names, with its arena index (R168). -/
def Ctx.seqOf (k : Ctx) (h : BitVec 32) : Option (Nat × Seq) :=
  let i := handleIndex h
  if i < 2 ^ k.arenaLog.toNat then
    match tget k.seqs i with
    | some q => if q.gen = h.toNat / 2 ^ 20 then some (i, q) else none
    | none => none
  else none

/-- The same, or 0x1C5 (R168). -/
def State.seqOf (s : State) (h : BitVec 32) : Except Halt (Nat × Seq) :=
  match s.myCtx.seqOf h with
  | some p => .ok p
  | none => .error (.trap 0x1C5 (h.setWidth 64))

/-- A sequence of the hart's context written. -/
def State.putSeq (s : State) (i : Nat) (q : Seq) : State :=
  s.setCtx s.hart.ctx { s.myCtx with seqs := tset s.myCtx.seqs i q }

/-! ### Slots (R171) -/

/-- Whether a reservation holds a slot. -/
def Resv.holds (r : Resv) (slot : Nat) : Bool := decide (r.first ≤ slot ∧ slot < r.first + r.count)

/-- RESERVED: at or above CLEN, below RLEN and not committed (R171). -/
def Seq.reserved (q : Seq) (slot : Nat) : Bool :=
  decide (q.clen ≤ slot ∧ slot < q.rlen) && !q.pending.contains slot

/-- RESERVED under a tag: the hart's identity and its handle register (R171, R315). -/
def Seq.owned (q : Seq) (uid reg slot : Nat) : Bool :=
  q.reserved slot && q.resv.any fun r => r.holds slot && r.uid == uid && r.reg == reg

/-- Whether every slot of [a, a + n) is RESERVED under a tag. -/
def Seq.ownedAll (q : Seq) (uid reg a n : Nat) : Bool :=
  decide (q.clen ≤ a ∧ a + n ≤ q.rlen) && (List.range n).all fun i => q.owned uid reg (a + i)

/-- Reservations whose slots are all committed or abandoned leave the record (R173). -/
def Seq.retire (q : Seq) : Seq :=
  { q with resv := q.resv.filter fun r => (List.range r.count).any fun i => q.reserved (r.first + i) }

/-- The physical address of a slot. -/
def Seq.slotAddr (q : Seq) (slot : Nat) : Option Nat :=
  (tget q.blocks (slot / 16)).map (· + slot % 16 * q.slotSize)

/-- Zero the slots [a, a + n), block by block. -/
def State.zeroSlots (s : State) (q : Seq) (a n : Nat) : State :=
  (List.range ((a + n + 15) / 16)).foldl (fun (t : State) b =>
    let lo := max a (16 * b)
    let hi := min (a + n) (16 * b + 16)
    if lo < hi then
      match tget q.blocks b with
      | some pa => t.zeroRange (pa + (lo - 16 * b) * q.slotSize) ((hi - lo) * q.slotSize)
      | none => t
    else t) s

/-! ### Reserve, commit, close, abandon (R173, R174) -/

/-- CLEN moves across the committed slots, at most n of them (R174). -/
def Seq.closeBy : Nat → Seq → Seq
  | 0, q => q
  | n + 1, q =>
    if q.clen < q.rlen ∧ q.pending.contains q.clen then
      Seq.closeBy n { q with clen := q.clen + 1, pending := q.pending.erase q.clen }
    else q

/-- close(): ascending hole closing (R173, R174). -/
def Seq.close (q : Seq) : Seq := q.closeBy (q.rlen - q.clen)

/-- The answer of a reservation that cannot be granted now (R173). -/
def busyWord : Word := BitVec.allOnes 64

/-- A block in migration holds the operation that would read or write it (R412). -/
def State.heldBlock (s : State) (pa : Option Nat) : Except Halt Unit :=
  match pa.bind s.blockParked with
  | some va => .error (.wait (.parked va true))
  | none => .ok ()

/-- reserve() of R173: its base, or busy. -/
def State.seqReserve (s : State) (h : BitVec 32) (reg : Nat) (n : Nat) : Except Halt (Word × State) := do
  let (i, q) ← s.seqOf h
  need (n ≤ 1024) 0x1C6 (h.setWidth 64)
  if n = 0 then return (BitVec.ofNat 64 q.rlen, s)
  need (q.rlen + n ≤ 2 ^ 20) 0x1C9 (h.setWidth 64)
  if q.clen + 1024 < q.rlen + n ∨ q.resv.length = 64 then return (busyWord, s)
  let first := q.rlen / 16
  let blocks := (List.range ((q.rlen + n + 15) / 16)).filter fun b => first ≤ b
  match s.myCtx.blocksFor q blocks with
  | none => return (busyWord, s)
  | some (k, q1) =>
    s.heldBlock (tget q.blocks first)
    let q2 := { q1 with rlen := q.rlen + n, resv := q1.resv ++ [⟨q.rlen, n, s.hart.uid, reg⟩] }
    let s1 := ((s.setCtx s.hart.ctx { k with seqs := tset k.seqs i q2 }).putTables (some q) q2).zeroSlots q2 q.rlen n
    return (BitVec.ofNat 64 q.rlen, s1)

/-- Slots marked committed, reservations retired, holes closed (R173). -/
def Seq.commitSlots (q : Seq) (slots : List Nat) : Seq :=
  ({ q with pending := q.pending ++ slots } : Seq).retire.close

/-- commit() of R173. -/
def State.seqCommit (s : State) (h : BitVec 32) (reg a n : Nat) : Except Halt State := do
  let (i, q) ← s.seqOf h
  if n = 0 then return s
  need (q.ownedAll s.hart.uid reg a n) 0x1C2 (h.setWidth 64)
  return s.putSeq i (q.commitSlots ((List.range n).map fun j => a + j))

/-- RLEN falls to a slot: reservations are cut, and blocks and leaf tables that hold no slot below it go
back (R173, R181). -/
def Ctx.cutTo (k : Ctx) (q : Seq) (a : Nat) : Ctx × Seq :=
  let goneB := q.blocks.filter fun b => decide (a ≤ 16 * b.1)
  let goneL := q.leaves.filter fun l => decide (a ≤ 4096 * l.1)
  let k1 := goneB.foldl (fun (k : Ctx) b => k.unref b.2) k
  let k2 := goneL.foldl (fun (k : Ctx) l => k.release tableSize l.2) k1
  (k2, ({ q with
    rlen := a
    resv := q.resv.map fun r => { r with count := min r.count (a - r.first) }
    blocks := q.blocks.filter fun b => !decide (a ≤ 16 * b.1)
    leaves := q.leaves.filter fun l => !decide (a ≤ 4096 * l.1) } : Seq).retire)

/-- abandon() of R173. -/
def State.seqAbandon (s : State) (h : BitVec 32) (reg a n : Nat) : Except Halt State := do
  let (i, q) ← s.seqOf h
  if n = 0 then return s
  need (a + n = q.rlen) 0x1C3 (h.setWidth 64)
  need (q.ownedAll s.hart.uid reg a n) 0x1C3 (h.setWidth 64)
  let (k, q') := s.myCtx.cutTo q a
  return (s.setCtx s.hart.ctx { k with seqs := tset k.seqs i q' }).putTables (some q) q'

/-! ### Freeing and dropping (R178, R180) -/

/-- A reference to a sequence dropped: at zero its blocks, tables and entry are freed, and its parent
loses one (R180); at most n sequences along the chain. -/
def Ctx.unhold : Nat → Ctx → Nat → Ctx
  | 0, k, _ => k
  | n + 1, k, i =>
    match tget k.seqs i with
    | none => k
    | some q =>
      if 1 < q.refcnt then { k with seqs := tset k.seqs i { q with refcnt := q.refcnt - 1 } }
      else
        let k1 := q.blocks.foldl (fun (k : Ctx) b => k.unref b.2) k
        let k2 := q.leaves.foldl (fun (k : Ctx) l => k.release tableSize l.2) k1
        let k3 := k2.release tableSize q.root
        let k4 := { k3 with seqs := tdel k3.seqs i, gens := tset k3.gens i ((q.gen + 1) % 4096) }
        match q.parent with
        | some p => Ctx.unhold n k4 (handleIndex p)
        | none => k4

/-- The longest run of a reservation's RESERVED slots that ends below a slot. -/
def Seq.topRun (q : Seq) (r : Resv) : Nat → Nat → Nat
  | 0, _ => 0
  | n + 1, top =>
    if 0 < top ∧ r.holds (top - 1) ∧ q.reserved (top - 1) then Seq.topRun q r n (top - 1) + 1 else 0

/-- One outstanding reservation closed at a drop (R178): its top run abandoned, its other RESERVED slots
voided. -/
def State.closeResv (s : State) (c i : Nat) (r : Resv) : State :=
  match tget (s.ctx c).seqs i with
  | none => s
  | some q =>
    let run := q.topRun r r.count q.rlen
    let (k, q1) := if run = 0 then (s.ctx c, q) else (s.ctx c).cutTo q (q.rlen - run)
    let left := ((List.range r.count).map (r.first + ·)).filter q1.reserved
    let q2 := ({ q1 with pending := q1.pending ++ left, voids := q1.voids + left.length } : Seq).retire
    left.foldl (fun (t : State) x => t.zeroSlots q2 x 1)
      ((s.setCtx c { k with seqs := tset k.seqs i q2 }).putTables (some q) q2)

/-- A binding of a hart's handle register dropped, as SQDROP drops it (R178). -/
def State.seqDrop (s : State) (c uid reg : Nat) (h : BitVec 32) : State :=
  match (s.ctx c).seqOf h with
  | none => s
  | some (i, q) =>
    let mine := (q.resv.filter fun r => r.uid == uid && r.reg == reg).reverse
    let s1 := mine.foldl (fun (t : State) r => t.closeResv c i r) s
    let k := s1.ctx c
    match tget k.seqs i with
    | none => s1
    | some q1 =>
      let k1 := { k with seqs := tset k.seqs i q1.close }
      s1.setCtx c (k1.unhold (k1.seqs.length + 1) i)

/-- A handle register of the hart in focus. -/
def State.sqReg (s : State) (r : SqReg) : Option SqBinding := s.hart.sq.get r.toFin

/-- A handle register written. -/
def State.setSq (s : State) (r : SqReg) (b : Option SqBinding) : State :=
  { s with hart := { s.hart with sq := s.hart.sq.set r.toNat b r.isLt } }

/-- The binding of a register dropped and the register emptied; nothing where it is empty. -/
def State.dropReg (s : State) (r : SqReg) : State :=
  match s.sqReg r with
  | none => s
  | some b => (s.seqDrop s.hart.ctx s.hart.uid r.toNat b.handle).setSq r none

/-- A register bound; its old binding is dropped after the new one stands (R168, R315). -/
def State.rebind (s : State) (r : SqReg) (h : BitVec 32) (clen : Nat) : State :=
  (s.dropReg r).setSq r (some ⟨h, BitVec.ofNat 64 clen⟩)

/-! ### Creation, opening and forking (R168, R179) -/

/-- The free arena entry that a new sequence takes: the lowest, so that the handle number depends on the arena alone
(R13, R433; DESIGN CHOICE, assumption log 93). -/
def State.freeEntry (s : State) : Option Nat :=
  let k := s.myCtx
  (List.range (min (k.seqs.length + 1) (2 ^ k.arenaLog.toNat))).find? fun i => (tget k.seqs i).isNone

/-- The smallest fitting class of a slot size of at most 2 KiB (R182). -/
def fitClass (slot : Nat) : Nat := if slot ≤ 512 then 0 else if slot = 1024 then 1 else 3

/-- Whether a slot size is a power of two from 64 to 65,536 (R168). -/
def slotSizeOk (n : Nat) : Bool := (List.range 11).any fun i => n == 64 * 2 ^ i

/-- The class a create word asks for, or none where it is invalid (R168, R182). -/
def createClass (w : Nat) : Option Nat :=
  let slot := bits w 0 17
  let req := bits w 17 2
  if bits w 19 44 ≠ 0 ∨ !slotSizeOk slot then none
  else if 2048 < slot then some 3
  else if req ≠ 0 ∧ req < fitClass slot then none
  else some (if req = 0 then fitClass slot else req)

/-- A new sequence's descriptor (R169). -/
def Seq.fresh (gen root cls slotlog : Nat) : Seq where
  gen := gen
  voids := 0
  root := root
  cls := cls
  slotlog := slotlog
  refcnt := 1
  forklen := 0
  parent := none
  rlen := 0
  clen := 0
  pending := []
  resv := []
  leaves := []
  blocks := []

/-- A create or an open of a creation word: the handle number and CLEN (R168, R374). R168 names 0x1CA for the
reserved bits of a create word only; the model raises it for those of an open word too, before the handle is looked
at (DESIGN CHOICE, assumption log 35). -/
def State.seqCreate (s : State) (w : Word) : Except Halt (BitVec 32 × Nat × State) := do
  let k := s.myCtx
  need k.arenaEn 0x1C8 w
  if w.getLsbD 63 then
    need (bits w.toNat 32 31 = 0) 0x1CA w
    let h := w.setWidth 32
    let (i, q) ← s.seqOf h
    return (h, q.clen, s.putSeq i { q with refcnt := q.refcnt + 1 })
  else
    match createClass w.toNat with
    | none => .error (.trap 0x1CA w)
    | some cls =>
      match s.freeEntry, k.alloc tableSize with
      | some i, some (root, k1) =>
        let q := Seq.fresh ((tget k.gens i).getD 0) root cls (Nat.log2 (bits w.toNat 0 17) - 6)
        return (q.handle i, 0, (s.setCtx s.hart.ctx { k1 with seqs := tset k1.seqs i q }).putTables none q)
      | _, _ => .error (.trap 0x1C8 w)

/-- The child of a fork before its partial block (R179): tables, shared blocks and their references. -/
def Ctx.shareBlocks (k : Ctx) (src child : Seq) : List Nat → Option (Ctx × Seq)
  | [] => some (k, child)
  | b :: t => do
    let (k1, c1) ← k.leafFor child b
    match tget src.blocks b with
    | none => k1.shareBlocks src c1 t
    | some pa =>
      let k2 := match tget k1.blocks pa with
        | some r => { k1 with blocks := tset k1.blocks pa { r with ref := r.ref + 1 } }
        | none => k1
      k2.shareBlocks src { c1 with blocks := tset c1.blocks b pa } t

/-- The storage of a fork: root table, shared blocks, and a fresh block where L is no multiple of 16. -/
def Ctx.forkStorage (k : Ctx) (src : Seq) (gen L : Nat) (h : BitVec 32) : Option (Ctx × Seq) := do
  let (root, k1) ← k.alloc tableSize
  let c0 := { Seq.fresh gen root src.cls src.slotlog with
    clen := L, rlen := L, forklen := L, parent := some h }
  let (k2, c1) ← k1.shareBlocks src c0 (List.range (L / 16))
  if L % 16 = 0 then return (k2, c1) else k2.blockFor c1 (L / 16)

/-- The copy of the partial block of a fork: slots below L, the rest zero (R179). -/
def State.forkCopy (s : State) (src child : Seq) (L : Nat) : State :=
  if L % 16 = 0 then s
  else match tget src.blocks (L / 16), tget child.blocks (L / 16) with
    | some a, some b =>
      (s.zeroRange b child.blockSize).copyRange a b (L % 16 * src.slotSize)
    | _, _ => s

/-- fork() of R179: the child's handle number. -/
def State.seqFork (s : State) (h : BitVec 32) (L : Nat) : Except Halt (BitVec 32 × State) := do
  let k := s.myCtx
  let hv := h.setWidth 64
  need k.arenaEn 0x1C8 hv
  let (i, q) ← s.seqOf h
  need (L ≤ q.clen) 0x1C4 hv
  match s.freeEntry with
  | none => .error (.trap 0x1C8 hv)
  | some j =>
    match k.forkStorage q ((tget k.gens j).getD 0) L h with
    | none => .error (.trap 0x1C8 hv)
    | some (k1, child) =>
      s.heldBlock (if L % 16 = 0 then none else tget q.blocks (L / 16))
      let k2 := { k1 with seqs := tset (tset k1.seqs i { q with refcnt := q.refcnt + 1 }) j child }
      return (child.handle j, ((s.setCtx s.hart.ctx k2).putTables none child).forkCopy q child L)

/-! ### Data (R175, R177) -/

/-- The physical address of a sequence byte, where its block exists. -/
def Seq.byteAddr (q : Seq) (b : Nat) : Option Nat :=
  (tget q.blocks (b / (16 * q.slotSize))).map (· + b % (16 * q.slotSize))

/-- The first of some bytes of a sequence whose block is in migration, as the agent's accesses of it hold
(R412). -/
def State.seqParked (s : State) (q : Seq) (bs : List Nat) : Except Halt Unit :=
  match bs.findSome? fun b => (q.byteAddr b).bind s.blockParked with
  | some va => .error (.wait (.parked va true))
  | none => .ok ()

/-- Bytes of a sequence below a committed length, from one slot; none at or above it (R177). -/
def State.seqRead (s : State) (q : Seq) (b n limit : Nat) : Except Halt (Option Nat) :=
  if b / q.slotSize < limit then
    match q.byteAddr b with
    | none => .ok (some 0)
    | some pa => do
      let bs ← s.l2Read 3 pa n
      return some (bytesVal bs)
  else .ok none

/-- Bytes of a sequence written by its agent (R175): the lines of L0 and the gathered lines of the core that they
overlap are invalidated first (R76, R86). -/
def State.seqWrite (s : State) (q : Seq) (b : Nat) (bs : List Byte) : State :=
  match q.byteAddr b with
  | none => s
  | some pa =>
    let c := s.hart.core
    ((s.dropL0 c (fun _ => true) pa bs.length).dropGathered c pa bs.length).l2WriteAt 3 pa bs

end Sys2Proof.Machine
end

