-- ==== Sys2Proof/Machine/SeqControl.lean ====
section
/-! DEFINITION. Sequence control instructions (R313 to R315), and the compaction engine's move (R183). -/

namespace Sys2Proof.Machine

/-- The header bound on a handle register (R233). -/
def State.boundSq (s : State) (r : SqReg) : Except Halt Unit :=
  need (r.toNat < s.hart.bounds.seqs) 0x084 (r.setWidth 64)

/-- The binding of a register within its bound, or 0x1C5 (R167). -/
def State.binding (s : State) (r : SqReg) : Except Halt SqBinding :=
  match s.sqReg r with
  | some b => .ok b
  | none => .error (.trap 0x1C5 (BitVec.ofNat 64 (2 ^ 63 + r.toNat)))

/-- The shadow of a register refreshed to CLEN (R167). -/
def State.refreshShadow (s : State) (r : SqReg) (h : BitVec 32) : State :=
  match s.myCtx.seqOf h with
  | some (_, q) => s.setSq r (some ⟨h, BitVec.ofNat 64 q.clen⟩)
  | none => s

/-- sqnew: create or open, then the old binding is dropped (R168, R315). -/
def execSqnew (d : SqReg) (a : Reg) (s : State) : Host.Outcome State Fault Refusal :=
  commit s (do
    s.boundSq d
    s.drained
    let (h, clen, t) ← s.seqCreate (s.x a)
    return (t.rebind d h clen).advance)

/-- sqres: the base of n reserved slots, or busy (R173, R315). -/
def execSqres (d : Reg) (a : SqReg) (b : Reg) (s : State) : Host.Outcome State Fault Refusal :=
  commit s (do
    s.boundSq a
    s.drained
    let bind ← s.binding a
    let (v, t) ← s.seqReserve bind.handle a.toNat (s.x b).toNat
    return (t.setX d v).advance)

/-- sqcmt: commit, close, and the shadow refreshed (R173, R315). -/
def execSqcmt (a : SqReg) (b m : Reg) (s : State) : Host.Outcome State Fault Refusal :=
  commit s (do
    s.boundSq a
    s.drained
    let bind ← s.binding a
    let t ← s.seqCommit bind.handle a.toNat (s.x b).toNat (s.x m).toNat
    return (t.refreshShadow a bind.handle).advance)

/-- sqabn (R173, R315). -/
def execSqabn (a : SqReg) (b m : Reg) (s : State) : Host.Outcome State Fault Refusal :=
  commit s (do
    s.boundSq a
    s.drained
    let bind ← s.binding a
    let t ← s.seqAbandon bind.handle a.toNat (s.x b).toNat (s.x m).toNat
    return t.advance)

/-- sqlen: CLEN, and the shadow refreshed (R315). -/
def execSqlen (d : Reg) (a : SqReg) (s : State) : Host.Outcome State Fault Refusal :=
  commit s (do
    s.boundSq a
    s.drained
    let bind ← s.binding a
    let (_, q) ← s.seqOf bind.handle
    return ((s.refreshShadow a bind.handle).setX d (BitVec.ofNat 64 q.clen)).advance)

/-- sqlen.h: the handle number (R315). -/
def execSqlenH (d : Reg) (a : SqReg) (s : State) : Host.Outcome State Fault Refusal :=
  commit s (do
    s.boundSq a
    s.drained
    let bind ← s.binding a
    return (s.setX d (bind.handle.setWidth 64)).advance)

/-- sqfork: the child takes the destination register (R179, R315). -/
def execSqfork (d a : SqReg) (b : Reg) (s : State) : Host.Outcome State Fault Refusal :=
  commit s (do
    s.boundSq d
    s.boundSq a
    s.drained
    let bind ← s.binding a
    let (h, t) ← s.seqFork bind.handle (s.x b).toNat
    return (t.rebind d h (s.x b).toNat).advance)

/-- sqdrop (R178). -/
def execSqdrop (d : SqReg) (s : State) : Host.Outcome State Fault Refusal :=
  commit s (do
    s.boundSq d
    s.drained
    let _ ← s.binding d
    return (s.dropReg d).advance)

/-! ### Compaction (R183) -/

/-- The storage of moved blocks that no gather still reads goes back to its free list (R183). -/
def State.returnMoved (s : State) (c : Nat) : State :=
  let k := s.ctx c
  let busy (g : Nat × Word) : Bool := match s.findHart g.1 with
    | some h => h.copyq.any fun x => copyKind x.word == .gather && x.issued == g.2
    | none => false
  let still (m : Moved) : Bool := m.gathers.any busy
  if k.moved.all still then s
  else
    let gone := k.moved.filter fun m => !still m
    s.setCtx c { k with
      moved := k.moved.filter still
      blocks := gone.foldl (fun t m => tdel t m.addr) k.blocks
      freeList := k.freeList ++ gone.map fun m => (m.size, m.addr) }

/-- Whether the compaction engine may move a block of a sequence (R183). -/
def Ctx.movable (k : Ctx) (q : Seq) (b pa : Nat) : Bool :=
  match tget k.blocks pa with
  | some r => r.ref == 1 && !r.version.getLsbD 0 && decide (16 * b + 16 ≤ q.clen) && decide (16 * q.slotSize ≤ 32768)
  | none => false

/-- Free storage of a size taken at an address: a free piece, or the next of the pool. -/
def Ctx.allocAt (k : Ctx) (n a : Nat) : Option Ctx :=
  if k.freeList.contains (n, a) then some { k with freeList := k.freeList.erase (n, a) }
  else if a = k.poolNext ∧ k.poolNext + n ≤ k.poolEnd then some { k with poolNext := k.poolNext + n }
  else none

/-- The gathers of a context that have begun and have not completed: those at the head of their queues. -/
def State.gathering (s : State) (c : Nat) : List (Nat × Word) :=
  s.harts.filterMap fun h => match h.copyq with
    | [] => none
    | x :: _ => if h.ctx = c ∧ copyKind x.word = .gather then some (h.uid, x.issued) else none

/-- A block moved to free storage of its class (R183): the old location's counter becomes odd and stays so, the
block is copied unchanged, the leaf entry names the new place, whose counter is even; the old storage goes back
once no gather that began before has still to complete. -/
def State.moveBlock (s : State) (c i b newPa : Nat) : State :=
  let k := s.ctx c
  match tget k.seqs i with
  | none => s
  | some q =>
    match tget q.blocks b with
    | none => s
    | some pa =>
      if k.movable q b pa then
        match k.allocAt q.blockSize newPa with
        | none => s
        | some k1 =>
          let r := (tget k.blocks pa).getD ⟨q.blockSize, 1, 0⟩
          let q' := { q with blocks := tset q.blocks b newPa }
          let k2 := { k1 with
            seqs := tset k1.seqs i q'
            blocks := tset (tset k1.blocks pa { r with ref := 0, version := r.version + 1 }) newPa { r with version := 0 }
            moved := k1.moved ++ [⟨pa, q.blockSize, s.gathering c⟩] }
          (((s.copyRange pa newPa q.blockSize).putTables (some q) q').setCtx c k2).returnMoved c
      else s

/-- COMPACTION_MOVE (R183). -/
def execCompactionMove (ctx seq block newPa : Nat) (s : State) : Host.Outcome State Fault Refusal :=
  .next (s.moveBlock ctx seq block newPa)

end Sys2Proof.Machine
end

