-- ==== Sys2Proof/Machine/VMem.lean ====
section
/-! DEFINITION. Vector loads, stores and scatters (R292 to R306): addresses, allocation (R82 to R86), the
probe and its faults. -/

namespace Sys2Proof.Machine

/-! ### Units and addresses (R293, R294) -/

/-- The bytes of one unit: an element, or two 4-bit elements. -/
def unitBytes (w : Nat) : Nat := max 1 (w / 8)

/-- The elements of one unit. -/
def unitElems (w : Nat) : Nat := if w = 4 then 2 else 1

/-- The active units of [lo, hi) in elements. -/
def State.units (s : State) (k : KReg) (lo hi : Nat) : List Nat :=
  let n := unitElems s.qw
  (List.range ((hi + n - 1) / n)).filter fun u => lo / n ≤ u && s.active k (u * n)

/-- The width of an index element (R293). -/
def indexWidth (w : Nat) : Nat := max 32 w

/-- The grouping of an index operand (R293). -/
def indexGroup (g w : Nat) : Nat := g * indexWidth w / max w 8

/-- The address of unit i for a stride in bytes. -/
def strideAddr (base stride : Word) (i : Nat) : Word := base + BitVec.ofNat 64 i * stride

/-- The address of unit i of an indexed form (R293). -/
def State.indexAddr (s : State) (base : Word) (idx : Reg) (i : Nat) : Word :=
  base + sext64 (indexWidth s.qw) (s.elem idx.toNat (indexWidth s.qw) i)

/-- The checks of a vector memory word: header bounds, type state and VL (R225, R226, R233, R293, R295). -/
def State.vmemChecks (s : State) (data : Reg) (idx : Option Reg) (types : Bool) : Except Halt Unit := do
  let g := vtGroup s.hart.csr.vt
  let gi := indexGroup g (typeWidth s.etype)
  let spans := (data.toNat, g) :: match idx with
    | some r => [(r.toNat, gi)]
    | none => []
  s.vcheck ⟨spans, types, spansAligned spans && (idx.isNone || gi ≤ 8), true, true⟩
  s.vlCheck s.vlmaxNow

/-- Whether an entry of the queues writes the index or the mask of an indexed form (R297). -/
def State.indexSoon (s : State) (idx : Reg) (k : KReg) : Bool :=
  s.writesSoon idx.toNat (indexGroup (vtGroup s.hart.csr.vt) (typeWidth s.etype)) || s.masksSoon k

/-! ### The probe (R296) -/

/-- The checks of one unit: `rd` and `wr` are the permissions it needs, `at_` says that a host window is
refused. -/
def State.probe1 (s : State) (rd wr at_ : Bool) (n : Nat) (va : Word) : Except Halt Target := do
  need (va.toNat % n = 0) 0x0C5 va
  if inWindow va then
    s.windowCheck va n
    return .window (windowOffset va)
  else
    let t ← s.xlatVec rd wr va
    need (wr = false ∨ t.seq = false) 0x1C0 va
    need (at_ = false ∨ isHost t.pa = false) 0x0C7 va
    return .phys t

/-- A unit parks when it lies in a MIGRATING page (R412). -/
def Target.parks : Target → Bool
  | .window _ => false
  | .phys t => t.mig

/-- The targets of units, or the first failing check. -/
def State.probeAll (s : State) (rd wr at_ : Bool) (n : Nat) (addr : Nat → Word) :
    List Nat → Except Halt (List (Nat × Target))
  | [] => .ok []
  | i :: t => do
    let x ← s.probe1 rd wr at_ n (addr i)
    let xs ← s.probeAll rd wr at_ n addr t
    return (i, x) :: xs

/-- The targets that the probe of the entry under execution read, of the units that are left (R296). -/
def State.probedAt (s : State) (is : List Nat) : Option (List (Nat × Target)) :=
  (s.hart.replay.bind (·.probe)).map fun ts => ts.filter fun p => is.contains p.1

/-- The targets of units with those that parked translated again (R413), or the first failing check. -/
def State.probeAgain (s : State) (rd wr at_ : Bool) (n : Nat) (addr : Nat → Word) :
    List (Nat × Target) → Except Halt (List (Nat × Target))
  | [] => .ok []
  | p :: t => do
    let x ← if p.2.parks then s.probe1 rd wr at_ n (addr p.1) else .ok p.2
    let xs ← s.probeAgain rd wr at_ n addr t
    return (p.1, x) :: xs

/-- An instruction past its probe performs, unless a unit is still parked: then it waits (R412). -/
def performUnparked (addr : Nat → Word) (perform : List (Nat × Target) → Except Halt Ran)
    (ts : List (Nat × Target)) : Except Halt Ran :=
  match ts.find? fun p => p.2.parks with
  | some p => .error (.wait (.parked (addr p.1) true))
  | none => perform ts

/-- An instruction probed as a whole (R298): it faults with no effect or performs. Where it lags, or has parked units
(R412) and the front end does not wait for it (`holds`), it leaves its probe with its entry (R297); parked units
translate again when the entry executes (R413). -/
def State.probed (s : State) (holds rd wr at_ : Bool) (n : Nat) (addr : Nat → Word) (is : List Nat)
    (perform : List (Nat × Target) → Except Halt Ran) : Except Halt Ran :=
  match s.probedAt is with
  | some ts =>
    match s.probeAgain rd wr at_ n addr ts with
    | .error (.trap c v) => .ok (.faulted s c v)
    | .error (.wait w) => .error (.wait w)
    | .ok us => performUnparked addr perform us
  | none =>
    match s.probeAll rd wr at_ n addr is with
    | .error (.trap c v) => .ok (.faulted s c v)
    | .error (.wait w) => .error (.wait w)
    | .ok ts =>
      if s.hart.lag || (!holds && ts.any fun p => p.2.parks) then .ok (.probed s ts)
      else performUnparked addr perform ts

/-! ### Performing units in order -/

/-- What a pass over units leaves: the state, the values by unit, and the unit that failed. -/
structure Pass where
  s      : State
  vals   : List (Nat × Nat)
  failed : Option (Nat × Halt)

/-- Units performed one after another until one fails. -/
def Pass.over (f : State → Nat × Target → Except Halt (Nat × State)) : List (Nat × Target) → Pass → Pass
  | [], p => p
  | u :: t, p =>
    match f p.s u with
    | .ok (v, s') => Pass.over f t { p with s := s', vals := p.vals ++ [(u.1, v)] }
    | .error h => { p with failed := some (u.1, h) }

/-- Where a reliability cause at a unit leaves VSTART (R301, R428). -/
def State.groupStart (s : State) (U u : Nat) : Nat :=
  let L := max U s.egroup
  max (u * unitElems s.qw / L * L) s.vstart

/-- Units performed up to the stop. A unit that consumes poison stops the instruction before its element
group, of which nothing performs (R301, R428). `done` builds the outcome from the values below an
element. -/
def State.performed (s : State) (U : Nat) (f : State → Nat × Target → Except Halt (Nat × State))
    (ts : List (Nat × Target)) (E : Nat) (done : State → List (Nat × Nat) → Nat → State) : Except Halt Ran :=
  let below (b : Nat) := ts.filter fun u => u.1 * unitElems s.qw < b
  let p := Pass.over f (below E) ⟨s, [], none⟩
  match p.failed with
  | none => .ok ((done p.s p.vals E).finish E)
  | some (_, .wait w) => .error (.wait w)
  | some (u, .trap c v) =>
    let B := s.groupStart U u
    let q := Pass.over f (below B) ⟨s, [], none⟩
    .ok (.stopped ((done q.s q.vals B).setVstart B) c v)

/-! ### Allocation (R82, R83) -/

/-- The hint of a load, for a footprint. -/
def loadAlloc (h : Hint) (F valloc : Nat) : Alloc :=
  match h.toNat with
  | 0 => if F ≤ valloc then .high else .around
  | 1 => .high
  | 2 => .around
  | _ => .low

/-- The hint of a store or an atomic, for a footprint. A line that a store or an atomic allocates takes the normal
priority, for which the rule names none (DESIGN CHOICE, assumption log 95). -/
def storeAlloc (h : Hint) (F valloc : Nat) : Alloc :=
  match h.toNat with
  | 0 => if F ≤ valloc then .normal else .around
  | 1 => .normal
  | 2 => .around
  | _ => .low

/-- The bytes of VL elements. -/
def spanBytes (w vl : Nat) : Nat := (vl * w + 7) / 8

/-- The footprint of a strided access (R82). At width 4 it counts VL elements as R82 has it, each of one byte at
the least (DESIGN CHOICE, assumption log 22: R294's units of two elements are not named there). -/
def strideFoot (w vl : Nat) (stride : Word) : Nat := (vl - 1) * stride.toInt.natAbs + unitBytes w

/-! ### Loads (R302) -/

/-- Whether an allocating access to a page enters L1 (R81, R105, R411). -/
def Xlat.cached (t : Xlat) : Bool := t.cache == 0 && !t.lnk && !t.seq

/-- The load data that the VMU has fetched for a unit of the entry under execution (R37, R39). -/
def State.fetched (s : State) (u : Nat) : Option Nat := s.hart.replay.bind fun e => tget e.data u

/-- One unit read. `gather` reads through a gathered line: no ordinary line is filled (R85). -/
def readUnit (a : Alloc) (gather : Bool) (n : Nat) (s : State) (u : Nat × Target) : Except Halt (Nat × State) :=
  match u.2 with
  | .window o => do
    let bs ← s.scrRead o n
    return (bytesVal bs, s)
  | .phys t =>
    if t.seq && !t.lnk then do
      let bs ← s.seqBytes t.pa n
      return (bytesVal bs, s)
    else if gather && t.cached then do
      let bs ← consume t.pa ((List.range n).map fun i => s.l1Byte s.hart.core t.gran (t.pa + i))
      return (bytesVal bs, s)
    else do
      let (bs, s') ← s.readPhys (a.under t true) t n
      return (bytesVal bs, s')

/-- One unit of a load: from the load data queue, or read (R37). -/
def loadUnitOf (a : Alloc) (gather : Bool) (n : Nat) (s : State) (u : Nat × Target) : Except Halt (Nat × State) :=
  match s.fetched u.1 with
  | some v => .ok (v, s)
  | none => readUnit a gather n s u

/-- A loaded element: from its unit's value, or the old element (R294, R302). -/
def State.loadedElem (s : State) (d : Reg) (vals : List (Nat × Nat)) (i : Nat) : Nat :=
  let n := unitElems s.qw
  match tget vals (i / n) with
  | some v => s.lane i (v / 2 ^ (s.qw * (i % n)) % 2 ^ s.qw)
  | none => s.elem d.toNat s.qw i

/-- The loaded units written over the destination, up to element E. -/
def State.writeLoaded (s : State) (d : Reg) (t : State) (vals : List (Nat × Nat)) (E : Nat) : State :=
  if E < s.qvl then t.putVecTo d.toNat s.qg s.qw E (s.loadedElem d vals)
  else t.putVec d.toNat s.qg s.qw s.qvl (s.loadedElem d vals)

/-- The elements that gathered line m of a strided load covers: those in ordinary pages, masked-off ones
included, with their clean values (R85). -/
def State.gatherElems (s : State) (n per m : Nat) (addr : Nat → Word) (units : Nat) : List (Nat × Nat) :=
  ((List.range per).map (m * per + ·)).filterMap fun u =>
    if units ≤ u then none
    else match s.probe1 true false false n (addr u) with
      | .ok (.phys t) =>
        let bs := (List.range n).map fun i => s.l1Byte s.hart.core t.gran (t.pa + i)
        if t.cached && !t.mig && bs.all (·.2 == .none) then some (t.pa, bytesVal (bs.map (·.1))) else none
      | .ok (.window _) => none
      | .error _ => none

/-- A gathered line put into L1, in place of one of the same tag (R85). -/
def State.putGathered (s : State) (g : Gathered) : State :=
  let c := s.hart.core
  let t := s.l1Room c
  t.setCore c { t.core c with gathered := ((t.core c).gathered.filter fun h =>
    !(h.base == g.base && h.stride == g.stride && h.esize == g.esize && h.count == g.count)) ++ [g] }

/-- The gathered lines a strided load builds (R85). -/
def State.buildGathered (s : State) (prio : BitVec 2) (base stride : Word) (n : Nat) : State :=
  let per := if n = 8 then 32 else 64
  let units := (s.qvl + unitElems s.qw - 1) / unitElems s.qw
  let addr := strideAddr base stride
  let shared (m : Nat) : Bool := (List.range (min per (units - m * per))).any fun j => match s.probe1 true false false n (addr (m * per + j)) with
    | .ok (.phys t) => t.shared
    | .ok (.window _) => false
    | .error _ => false
  (List.range ((units + per - 1) / per)).foldl (fun (t : State) m =>
    let es := s.gatherElems n per m addr units
    if es.isEmpty then t
    else t.putGathered
      { base := addr (m * per)
        stride := stride
        esize := n
        count := min per (units - m * per)
        elems := es
        shared := shared m
        prio := prio }) s

/-- A vector load from VSTART (R302): `gathers` names the stride of a load that builds gathered lines. -/
def State.vload (s : State) (d : Reg) (k : KReg) (a : Alloc) (addr : Nat → Word)
    (gathers : Option (Word × Word)) : Except Halt Ran :=
  if s.qvl ≤ s.vstart then .ok (.done (s.setVstart 0))
  else
    let n := unitBytes s.qw
    s.probed false true false false n addr (s.units k s.vstart s.qvl) fun ts =>
      s.performed 1 (loadUnitOf a gathers.isSome n) ts (s.stopAt 1) fun t vals E =>
        let t' := match gathers with
          | some (b, st) => t.buildGathered a.prio b st n
          | none => t
        s.writeLoaded d t' vals E

/-- The types of vector loads and stores: all but the bit planes (R226). -/
def memType (e : Nat) : Bool := decide (e ≤ 15)

/-- A unit-stride load. -/
def loadUnit (w : IWord) (nc : Bool) (d base : Reg) (k : KReg) (h : Hint) (s : State) :
    Host.Outcome State Fault Refusal :=
  s.enterProbe .vmq w [s.x base] (s.masksSoon k) false (s.vmemChecks d none (memType s.etype)) fun t =>
    let a := if nc then .nc else loadAlloc h (spanBytes t.qw t.qvl) t.qvalloc
    let b := t.qop 0 (t.x base)
    t.vload d k a (strideAddr b (BitVec.ofNat 64 (unitBytes t.qw))) none

/-- A strided load; with |stride| of 32 or more and allocating it builds gathered lines (R85). -/
def loadStride (w : IWord) (nc : Bool) (d base stride : Reg) (k : KReg) (h : Hint) (s : State) :
    Host.Outcome State Fault Refusal :=
  s.enterProbe .vmq w [s.x base, s.x stride] (s.masksSoon k) false (s.vmemChecks d none (memType s.etype)) fun t =>
    let b := t.qop 0 (t.x base)
    let st := t.qop 1 (t.x stride)
    let a := if nc then .nc else loadAlloc h (strideFoot t.qw t.qvl st) t.qvalloc
    let g := decide (32 ≤ st.toInt.natAbs) && a != .nc && a != .around
    t.vload d k a (strideAddr b st) (if g then some (b, st) else none)

/-- An indexed load. -/
def loadIndex (w : IWord) (nc : Bool) (d base idx : Reg) (k : KReg) (h : Hint) (s : State) :
    Host.Outcome State Fault Refusal :=
  s.enterProbe .vmq w [s.x base] (s.indexSoon idx k) true (s.vmemChecks d (some idx) (memType s.etype)) fun t =>
    let a := if nc then .nc else loadAlloc h (t.qvl * 32) t.qvalloc
    let b := t.qop 0 (t.x base)
    t.vload d k a (t.indexAddr b idx) none

/-- vld (R302). -/
def execVld (d base : Reg) (k : KReg) (h : Hint) (s : State) : Host.Outcome State Fault Refusal :=
  loadUnit (encode (.vld d base k h)) false d base k h s

/-- vlds (R302). -/
def execVlds (d base stride : Reg) (k : KReg) (h : Hint) (s : State) : Host.Outcome State Fault Refusal :=
  loadStride (encode (.vlds d base stride k h)) false d base stride k h s

/-- vldx (R302). -/
def execVldx (d base idx : Reg) (k : KReg) (h : Hint) (s : State) : Host.Outcome State Fault Refusal :=
  loadIndex (encode (.vldx d base idx k h)) false d base idx k h s

/-- vld.nc (R77, R302). -/
def execVldNc (d base : Reg) (k : KReg) (s : State) : Host.Outcome State Fault Refusal :=
  loadUnit (encode (.vldNc d base k)) true d base k 0 s

/-- vlds.nc (R77, R302). -/
def execVldsNc (d base stride : Reg) (k : KReg) (s : State) : Host.Outcome State Fault Refusal :=
  loadStride (encode (.vldsNc d base stride k)) true d base stride k 0 s

/-- vldx.nc (R77, R302). -/
def execVldxNc (d base idx : Reg) (k : KReg) (s : State) : Host.Outcome State Fault Refusal :=
  loadIndex (encode (.vldxNc d base idx k)) true d base idx k 0 s

/-! ### What an entry's accesses touch -/

/-- Whether an entry's accesses are outstanding: one of the VMQ, or a tile fetch or a matrix store. -/
def QEntry.accesses (e : QEntry) : Bool := e.kind == .vmq || isMtile e.word || isMepi e.word

/-- Whether an entry is a vector atomic (R308). -/
def QEntry.atomic (e : QEntry) : Bool := decide (0x0A ≤ major e.word ∧ major e.word ≤ 0x0D)

/-- Whether an entry reads memory. -/
def QEntry.reads (e : QEntry) : Bool :=
  e.atomic || isMtile e.word || match major e.word with
  | 0x0E => true
  | 0x34 => true
  | 0x35 => rrFn e.word == 4
  | 0x36 => rrFn e.word == 1
  | _ => false

/-- Whether an entry writes memory. -/
def QEntry.writes (e : QEntry) : Bool :=
  e.atomic || isMepi e.word || match major e.word with
  | 0x35 => true
  | 0x36 => rrFn e.word == 0
  | _ => false

/-- Whether an entry's reads are an acquire on the SCL and VEC paths (R104). -/
def QEntry.acquires (e : QEntry) : Bool := e.atomic && e.word.getLsbD 28

/-- Whether an entry's writes are a release (R104). -/
def QEntry.releases (e : QEntry) : Bool := e.atomic && e.word.getLsbD 27

/-- The bytes of one unit of an entry's accesses. -/
def QEntry.unit (e : QEntry) : Nat :=
  if e.kind = .mq ∨ typePlanes (vtType e.vt) = true then 32 else unitBytes (typeWidth (vtType e.vt))

/-- Whether n bytes at one place share a byte with m at another. -/
def Target.overlaps (x : Target) (n : Nat) (y : Target) (m : Nat) : Bool :=
  match x, y with
  | .window o, .window p => decide (o < p + m ∧ p < o + n)
  | .phys t, .phys u => decide (t.pa < u.pa + m ∧ u.pa < t.pa + n)
  | .window _, .phys _ => false
  | .phys _, .window _ => false

/-- Whether an entry may touch n bytes at a place: as its probe says, and any while it has none. -/
def QEntry.touches (e : QEntry) (x : Target) (n : Nat) : Bool :=
  match e.probe with
  | none => true
  | some ts => ts.any fun u => x.overlaps n u.2 e.unit

/-- Whether an entry may touch the bytes of a delayed store. -/
def QEntry.meets (e : QEntry) (d : Delayed) : Bool := e.touches (.phys d.xlat) d.bytes.length

/-! ### Load data (R37, R39) -/

/-- How a queued load meets L1, and whether it gathers: the entry stands under execution. -/
def State.loadWay (s : State) (w : IWord) : Option (Alloc × Bool) :=
  let stride := s.qop 1 0
  let far := decide (32 ≤ stride.toInt.natAbs)
  match decodeVld w with
  | .ok (.vld _ _ _ h) => some (loadAlloc h (spanBytes s.qw s.qvl) s.qvalloc, false)
  | .ok (.vlds _ _ _ _ h) =>
    let a := loadAlloc h (strideFoot s.qw s.qvl stride) s.qvalloc
    some (a, far && a != .around)
  | .ok (.vldx _ _ _ _ h) => some (loadAlloc h (s.qvl * 32) s.qvalloc, false)
  | .ok (.vldNc ..) => some (.nc, false)
  | .ok (.vldsNc ..) => some (.nc, false)
  | .ok (.vldxNc ..) => some (.nc, false)
  | _ => none

/-- The element groups that lie in a load data queue. -/
def State.dataGroups (s : State) (e : QEntry) : Nat :=
  let L := max 1 (s.hart.grant.lanes * 32 / typeWidth (vtType e.vt))
  ((e.data.map fun p => p.1 * unitElems (typeWidth (vtType e.vt)) / L).eraseDups).length

/-- The units of the first element groups that an entry has no load data for. -/
def State.nextUnits (s : State) (e : QEntry) (groups : Nat) : List (Nat × Target) :=
  let left := (e.probe.getD []).filter fun p => (tget e.data p.1).isNone && !p.2.parks
  let group (p : Nat × Target) : Nat := p.1 * unitElems s.qw / s.egroup
  let gs := ((left.map group).eraseDups).take groups
  left.filter fun p => gs.contains (group p)

/-- Load data fetched for one entry, as far as it is not poisoned. -/
def State.fetchFor (s : State) (e : QEntry) (groups : Nat) : QEntry × State :=
  let t : State := { s with hart := { s.hart with replay := some e } }
  match t.loadWay e.word with
  | none => (e, s)
  | some (a, g) =>
    let p := Pass.over (readUnit a g (unitBytes t.qw)) (t.nextUnits e groups) ⟨t, [], none⟩
    ({ e with data := p.vals.foldl (fun d v => tset d v.1 v.2) e.data },
      { p.s with hart := { p.s.hart with replay := none } })

/-- Whether a load and an earlier entry have no byte in common that the earlier one writes (R113). -/
def QEntry.apart (e f : QEntry) : Bool :=
  !f.writes || f.kind != .vmq || (e.probe.getD []).all fun u => !f.touches u.2 e.unit

/-- The first entry that a run of the VMU may fetch load data for (`open_`), with those before it: only loads, and
probed stores to other bytes, stand before it in the VMQ. -/
def splitLoad (open_ : QEntry → Bool) : List QEntry → List QEntry → Option (List QEntry × QEntry × List QEntry)
  | _, [] => none
  | before, e :: t =>
    if e.rhold then none
    else if major e.word = 0x34 ∧ open_ e ∧ before.all (fun f => e.apart f) then some (before, e, t)
    else if e.kind != .vmq || major e.word == 0x34 || (major e.word == 0x35 && e.probe.isSome) then
      splitLoad open_ (before ++ [e]) t
    else none

/-- The VMU fetches load data ahead of the lanes, up to 64 element groups (R37, R39). -/
def State.vmuRead (s : State) (groups : Nat) : State :=
  let held := (s.hart.queue.map s.dataGroups).sum
  let open_ (e : QEntry) : Bool :=
    ((e.probe.getD []).any fun u => !u.2.parks && (tget e.data u.1).isNone)
      && s.hart.pending.all fun d => !e.meets d
  match splitLoad open_ [] s.hart.queue with
  | none => s
  | some (before, e, after) =>
    let (e', t) := s.fetchFor e (min groups (64 - held))
    { t with hart := { t.hart with queue := before ++ e' :: after } }

/-! ### vldp (R303) -/

/-- Planes of a bit-plane type (R223). -/
def typePlaneCount (e : Nat) : Nat := e - 14

/-- The sectors of tile t: header and planes (R148, R303). -/
def tileSectors (p t : Nat) : List Nat := (List.range (4 * p + 1)).map fun c => 33 * t + c

/-- The address of a sector of the tiles. -/
def sectorAddr (base : Word) (u : Nat) : Word := base + BitVec.ofNat 64 (32 * u)

/-- Byte o of sector u among the values read, or the old byte. -/
def sectorByte (vals : List (Nat × Nat)) (u o : Nat) : Option Nat :=
  (tget vals u).map fun v => v / 2 ^ (8 * o) % 256

/-- Whole tiles loaded from VSTART rounded down to 1,024 (R303). A failing probe reports the address of its sector, and a
poisoned byte belongs to the group of its whole tile (R296, R301; DESIGN CHOICE, assumption log 97). -/
def State.vloadPlanes (s : State) (d base : Reg) (h : Hint) : Except Halt Ran :=
  let p := typePlaneCount (vtType s.qvt)
  let b := s.qop 0 (s.x base)
  let T := (s.qvl + 1023) / 1024
  let t0 := s.vstart / 1024
  let E := s.stopAt 1024
  if s.qvl = 0 then
    .ok (.done (((s.putVec d.toNat s.qg 8 0 fun _ => 0).putVec (d.toNat + s.qg) 1 8 0 fun _ => 0).setVstart 0))
  else if b.toNat % 32 ≠ 0 ∧ t0 < T then .ok (.faulted s 0x0C6 b)
  else
    let a := loadAlloc h (T * (32 + 128 * p)) s.qvalloc
    let us := ((List.range T).filter fun t => t0 ≤ t).flatMap (tileSectors p)
    s.probed false true false false 32 (sectorAddr b) us fun ts =>
      let put (t : State) (vals : List (Nat × Nat)) (B : Nat) : State :=
        let n := (B + 1023) / 1024
        let code (i : Nat) : Nat :=
          let r := i % 1024
          if i / 1024 < t0 then s.elem d.toNat 8 i
          else if r / 128 < p then s.lane i ((sectorByte vals (33 * (i / 1024) + 1 + r / 32) (r % 32)).getD 0)
          else 0
        let head (i : Nat) : Nat := (sectorByte vals (33 * (i / 32)) (i % 32)).getD (s.elem (d.toNat + s.qg) 8 i)
        if B < s.qvl then (t.putVecTo d.toNat s.qg 8 B code).putVecTo (d.toNat + s.qg) 1 8 (B / 32) head
        else (t.putVec d.toNat s.qg 8 (1024 * n) code).putVec (d.toNat + s.qg) 1 8 (32 * n) head
      let below (B : Nat) := ts.filter fun u => u.1 / 33 * 1024 < B
      let r := Pass.over (readUnit a false 32) (below E) ⟨s, [], none⟩
      match r.failed with
      | none => .ok ((put r.s r.vals E).finish E)
      | some (_, .wait w) => .error (.wait w)
      | some (u, .trap c v) =>
        let B := max (u / 33 * 1024) s.vstart
        let q := Pass.over (readUnit a false 32) (below (u / 33 * 1024)) ⟨s, [], none⟩
        .ok (.stopped ((put q.s q.vals (u / 33 * 1024)).setVstart B) c v)

/-- vldp (R303): bit-plane types only. -/
def execVldp (d base : Reg) (h : Hint) (s : State) : Host.Outcome State Fault Refusal :=
  let w := encode (.vldp d base h)
  let g := vtGroup s.hart.csr.vt
  let checks : Except Halt Unit := do
    need (d.toNat + g ≤ 31) 0x034 (wordVal w)
    s.vcheck ⟨[(d.toNat, g), (d.toNat + g, 1)], typePlanes s.etype,
      spansAligned [(d.toNat, g)] && decide (1024 ≤ s.hart.vlmax g 8), true, true⟩
    s.vlCheck s.vlmaxNow
  s.enterProbe .vmq w [s.x base] false false checks fun t => t.vloadPlanes d base h

/-! ### Stores and scatters (R304, R305) -/

/-- The value of unit u of the data register (R294): the nibble past VL is 0. -/
def State.unitVal (s : State) (d : Reg) (u : Nat) : Nat :=
  if s.qw = 4 then
    s.lane (2 * u) (s.elem d.toNat 4 (2 * u)) % 16
      + (if 2 * u + 1 < s.qvl then 16 * (s.lane (2 * u + 1) (s.elem d.toNat 4 (2 * u + 1)) % 16) else 0)
  else s.lane u (s.elem d.toNat s.qw u)

/-- One unit written; `home` makes it perform at L2 (R112, R305). The lines of L0 that it overlaps go first, in
every hart of the core (R76). -/
def writeUnit (a : Alloc) (home : Bool) (n : Nat) (val : Nat → Nat) (s : State) (u : Nat × Target) :
    Except Halt (Nat × State) :=
  match u.2 with
  | .window o => .ok (0, s.scrWrite o (valBytes n (val u.1)))
  | .phys t =>
    .ok (0, (s.dropL0 s.hart.core (fun _ => true) t.pa n).writePhys (a.under t false) home t (valBytes n (val u.1)))

/-- The poison of the granules that an instruction's own writes at L2 cover whole is gone (R99). -/
def State.coverWhole (s : State) (n : Nat) (at_ : Xlat → Bool) (ts : List (Nat × Target)) : State :=
  if s.poison.isEmpty then s
  else
    let pas (g : BitVec 2) : List Nat := ts.flatMap fun u => match u.2 with
      | .window _ => []
      | .phys t => if t.gran = g ∧ at_ t = true then (List.range n).map (t.pa + ·) else []
    [0#2, 1#2, 2#2, 3#2].foldl (fun (t : State) g => t.clearPoison g (pas g)) s

/-- The release that a fence attached to the next plain vector write is over once that write has performed whole
(R112): what is left of an instruction that stops inside itself still belongs to it. -/
def State.vecWritten (s : State) (ts : List (Nat × Target)) (whole : Bool) : State :=
  if whole && ts.any fun u => match u.2 with
    | .window _ => false
    | .phys t => !t.lnk
  then { s with hart := { s.hart with relVec := false } } else s

/-- Whether a unit may stay on its way while the others perform (R117): no later unit writes its bytes. -/
def staysBehind (names : List Nat) (n : Nat) : List (Nat × Target) → List (Nat × Target)
  | [] => []
  | u :: l => match u.2 with
    | .window _ => staysBehind names n l
    | .phys t =>
      let later := l.any fun w => match w.2 with
        | .window _ => false
        | .phys x => decide (x.pa < t.pa + n ∧ t.pa < x.pa + n)
      if names.contains u.1 && !t.lnk && !later then u :: staysBehind names n l else staysBehind names n l

/-- The units left on their way, to perform later (R117, R135). -/
def State.leave (s : State) (a : Alloc) (n : Nat) (val : Nat → Nat) (ts : List (Nat × Target)) : State :=
  let ps := ts.filterMap fun u => match u.2 with
    | .window _ => none
    | .phys t => some (⟨false, t, a.under t false, valBytes n (val u.1)⟩ : Delayed)
  { s with hart := { s.hart with pending := s.hart.pending ++ ps, delay := [] } }

/-- A vector store from VSTART (R304): no register and no progress index changes. Its units are unordered
(R117): those that `delay` names, in the 32 element groups of the store data queue (R37), are left behind, and the
others perform here, lowest first (DESIGN CHOICE, assumption log 23). -/
def State.vstore (s : State) (d : Reg) (k : KReg) (a : Alloc) (addr : Nat → Word) : Except Halt Ran :=
  if s.qvl ≤ s.vstart then .ok (.done (s.setVstart 0))
  else
    let n := unitBytes s.qw
    s.probed false false true false n addr (s.units k s.vstart s.qvl) fun ts =>
      let E := s.stopAt 1
      let behind := if s.hart.relVec || E < s.qvl then []
        else (staysBehind s.hart.delay n ts).filter fun u => u.1 * unitElems s.qw / s.egroup < 32
      s.performed 1 (writeUnit a s.hart.relVec n (s.unitVal d)) (ts.filter fun u => !behind.contains u) E
        fun t _ B =>
          let t1 := t.coverWhole n (fun x => s.hart.relVec || !(a.under x false).fills)
            (ts.filter fun u => u.1 * unitElems s.qw < B)
          (if behind.isEmpty then t1 else t1.leave a n (s.unitVal d) behind).vecWritten ts (decide (s.qvl ≤ B))

/-- vst (R304). -/
def execVst (d base : Reg) (k : KReg) (h : Hint) (s : State) : Host.Outcome State Fault Refusal :=
  s.enterProbe .vmq (encode (.vst d base k h)) [s.x base] (s.masksSoon k) false
    (s.vmemChecks d none (memType s.etype)) fun t =>
    t.vstore d k (storeAlloc h (spanBytes t.qw t.qvl) t.qvalloc)
      (strideAddr (t.qop 0 (t.x base)) (BitVec.ofNat 64 (unitBytes t.qw)))

/-- vsts (R304). -/
def execVsts (d base stride : Reg) (k : KReg) (h : Hint) (s : State) : Host.Outcome State Fault Refusal :=
  s.enterProbe .vmq (encode (.vsts d base stride k h)) [s.x base, s.x stride] (s.masksSoon k) false
    (s.vmemChecks d none (memType s.etype)) fun t =>
    let st := t.qop 1 (t.x stride)
    t.vstore d k (storeAlloc h (strideFoot t.qw t.qvl st) t.qvalloc)
      (strideAddr (t.qop 0 (t.x base)) st)

/-- vstx (R304). -/
def execVstx (d base idx : Reg) (k : KReg) (h : Hint) (s : State) : Host.Outcome State Fault Refusal :=
  s.enterProbe .vmq (encode (.vstx d base idx k h)) [s.x base] (s.indexSoon idx k) true
    (s.vmemChecks d (some idx) (memType s.etype)) fun t =>
    t.vstore d k (storeAlloc h (t.qvl * 32) t.qvalloc) (t.indexAddr (t.qop 0 (t.x base)) idx)

/-- One unit of an ordered variant: its check, then its access (R299). A parked unit waits. -/
def orderedUnit (s0 : State) (rd wr at_ : Bool) (n : Nat) (addr : Nat → Word)
    (f : State → Nat × Target → Except Halt (Nat × State)) (s : State) (u : Nat × Target) :
    Except Halt (Nat × State) := do
  let t ← s0.probe1 rd wr at_ n (addr u.1)
  if t.parks then .error (.wait (.parked (addr u.1) true)) else f s (u.1, t)

/-- Units performed one at a time in ascending order (R299): the elements below a failing one have
performed, and VSTART is that element. -/
def State.ordered (s : State) (rd wr at_ : Bool) (n : Nat) (addr : Nat → Word) (k : KReg)
    (f : State → Nat × Target → Except Halt (Nat × State))
    (done : State → List (Nat × Nat) → Nat → State) : Except Halt Ran :=
  let E := s.stopAt 1
  let us := (s.units k s.vstart E).map fun u => (u, Target.window 0)
  let p := Pass.over (orderedUnit s rd wr at_ n addr f) us ⟨s, [], none⟩
  match p.failed with
  | none => .ok ((done p.s p.vals E).finish E)
  | some (u, .wait w) =>
    let j := max (u * unitElems s.qw) s.vstart
    .ok (.waiting ((done p.s p.vals j).setVstart j) w)
  | some (u, .trap c v) =>
    if c = 0x300 then
      let B := s.groupStart 1 u
      let q := Pass.over (orderedUnit s rd wr at_ n addr f) (us.filter fun x => x.1 * unitElems s.qw < B) ⟨s, [], none⟩
      .ok (.stopped ((done q.s q.vals B).setVstart B) c v)
    else
      let j := max (u * unitElems s.qw) s.vstart
      .ok (.faulted ((done p.s p.vals j).setVstart j) c v)

/-- vstx.o: each element performs at its home before the next (R305). -/
def execVstxO (d base idx : Reg) (k : KReg) (h : Hint) (s : State) : Host.Outcome State Fault Refusal :=
  s.enterWait .vmq (encode (.vstxO d base idx k h)) [s.x base]
    (s.vmemChecks d (some idx) (memType s.etype)) fun t =>
    if t.qvl ≤ t.vstart then .ok (.done (t.setVstart 0))
    else
      let n := unitBytes t.qw
      let a := storeAlloc h (t.qvl * 32) t.qvalloc
      t.ordered false true false n (t.indexAddr (t.qop 0 (t.x base)) idx) k
        (writeUnit a true n (t.unitVal d)) fun u _ _ => u

end Sys2Proof.Machine
end

