-- ==== Sys2Proof/Machine/SeqData.lean ====
section
/-! DEFINITION. Sequence data instructions (R316, R317). -/

namespace Sys2Proof.Machine

/-- The checks of a sequence data word at its queue (R225, R226, R233, R265). -/
def State.seqDataChecks (s : State) (d : Reg) (h : SqReg) : Except Halt Unit := do
  let g := vtGroup s.hart.csr.vt
  s.boundV [(d.toNat, g)]
  s.boundSq h
  s.vcheck ⟨[(d.toNat, g)], memType s.etype, spansAligned [(d.toNat, g)], true, true⟩
  s.vlCheck s.vlmaxNow

/-- The sequence byte of unit u (R294, R316). -/
def seqByteOf (first slotSize n u : Nat) : Nat := first * slotSize + u * n

/-- The blocks' bytes that some units of a sequence access touch. -/
def State.seqTargets (s : State) (q : Seq) (at_ : Nat → Nat) (us : List Nat) : List (Nat × Target) :=
  us.filterMap fun u => (q.byteAddr (at_ u)).map fun pa =>
    (u, .phys ⟨s.home pa, false, true, (s.blockParked pa).isSome, false, 0, 3⟩)

/-- sqst from VSTART (R316): the slot check is its probe, and it faults as a whole. Where it lags, or a block is in
migration (R412), it performs from its queue. -/
def State.seqStore (s : State) (d : Reg) (h : SqReg) (first : Reg) (k : KReg) : Except Halt Ran := do
  match s.binding h with
  | .error (.trap c v) => return .faulted s c v
  | .error (.wait w) => .error (.wait w)
  | .ok bind =>
    match s.seqOf bind.handle with
    | .error (.trap c v) => return .faulted s c v
    | .error (.wait w) => .error (.wait w)
    | .ok (_, q) =>
      let n := unitBytes s.qw
      let base := (s.qop 0 (s.x first)).toNat
      let at_ (u : Nat) : Nat := seqByteOf base q.slotSize n u
      let us := s.units k s.vstart s.qvl
      if us.any fun u => !q.owned s.hart.uid h.toNat (at_ u / q.slotSize) then
        return .faulted s 0x1C1 (bind.handle.setWidth 64)
      else
        let ts := s.seqTargets q at_ us
        if s.hart.replay.isNone && (s.hart.lag || ts.any fun p => p.2.parks) then return .probed s ts
        let E := s.stopAt 1
        let mine := us.filter fun u => u * unitElems s.qw < E
        s.seqParked q (mine.map at_)
        let t0 := mine.foldl (fun (t : State) u => t.seqWrite q (at_ u) (valBytes n (s.unitVal d u))) s
        let t := t0.clearPoison 3 (mine.flatMap fun u => match q.byteAddr (at_ u) with
          | some pa => (List.range n).map (pa + ·)
          | none => [])
        return if s.qvl ≤ s.vstart then .done (s.setVstart 0) else t.finish E

/-- sqst (R316). -/
def execSqst (d : Reg) (h : SqReg) (first : Reg) (k : KReg) (s : State) : Host.Outcome State Fault Refusal :=
  s.enterProbe .vmq (encode (.sqst d h first k)) [s.x first] (s.masksSoon k) false (s.seqDataChecks d h) fun t =>
    t.seqStore d h first k

/-- The units of a sequence read under one committed length: their values, or none at or above it; or
the poison that a read consumed. -/
def State.seqUnits (s : State) (q : Seq) (n limit : Nat) (byteOf : Nat → Nat) :
    List Nat → Except Halt (List (Nat × Option Nat))
  | [] => .ok []
  | u :: t => do
    let v ← s.seqRead q (byteOf u) n limit
    let vs ← s.seqUnits q n limit byteOf t
    return (u, v) :: vs

/-- sqld (R317): whole, every element under the committed length read at issue; at VL = 0 it still writes PIDX and
kd. Its handle is its probe (R297), and a block in migration holds it (R412). Poison that it consumes stops it with VSTART at the first element of the group (R301, R428). -/
def State.seqLoad (s : State) (d : Reg) (kd : KReg) (h : SqReg) (first : Reg) : Except Halt Ran := do
  match s.binding h with
  | .error (.trap c v) => return .faulted s c v
  | .error (.wait w) => .error (.wait w)
  | .ok bind =>
    match s.seqOf bind.handle with
    | .error (.trap c v) => return .faulted s c v
    | .error (.wait w) => .error (.wait w)
    | .ok (_, q) =>
      let w := s.qw
      let n := unitBytes w
      let e := unitElems w
      let base := (s.qop 0 (s.x first)).toNat
      let us := List.range ((s.qvl + e - 1) / e)
      let at_ := seqByteOf base q.slotSize n
      let parked := s.seqParked q ((us.map at_).filter fun b => b / q.slotSize < q.clen)
      if s.hart.replay.isNone && (s.hart.lag || parked.toBool == false) then return .probed s []
      parked
      match s.seqUnits q n q.clen at_ us with
      | .error (.trap c v) =>
        let bad := us.find? fun u => match s.seqRead q (at_ u) n q.clen with
          | .error _ => true
          | .ok _ => false
        return .stopped (s.setVstart (s.groupStart 1 (bad.getD 0))) c v
      | .error (.wait w) => .error (.wait w)
      | .ok vals =>
        let unit (i : Nat) : Option Nat := ((vals.getD (i / e) (0, none)).2)
        let t := s.setMask kd (maskOf s.qvl fun i => (unit i).isNone)
        return .done ((t.putVec d.toNat t.qg w s.qvl fun i =>
          s.lane i ((unit i).getD 0 / 2 ^ (w * (i % e)) % 2 ^ w)).setVstart 0)

/-- sqld (R317). -/
def execSqld (d : Reg) (kd : KReg) (h : SqReg) (first : Reg) (s : State) : Host.Outcome State Fault Refusal :=
  s.enterProbe .vmq (encode (.sqld d kd h first)) [s.x first] false false (s.seqDataChecks d h) fun t =>
    t.seqLoad d kd h first

end Sys2Proof.Machine
end

