-- ==== Sys2Proof/Machine/Movers.lean ====
section
/-! DEFINITION. The moves that are no step of the opcode table: evictions, the passing of time, other
parties' writes, and the fetch of a word. -/

namespace Sys2Proof.Machine

/-! ### Fetching (R405) -/

/-- The word at the PC: a word fetched ahead, or L2's (R405). Poison consumed by a fetch raises 0x300
(R431); a MIGRATING page parks the fetch. -/
def State.fetch (s : State) : Except Halt (IWord × State) := do
  let pc := s.hart.pc
  let (t, s1) ← s.xlatFetch pc
  parkCheck t pc false
  match tget s.hart.ibuf pc.toNat with
  | some w => return (w, s1)
  | none =>
    let bs ← s1.l2Read t.gran t.pa 4
    return (BitVec.ofNat 32 (bytesVal bs), s1.l2Take t t.pa 4)

/-- A word has been fetched at the PC: a trap has its handler (R418). -/
def State.entered (s : State) : State := { s with hart := { s.hart with entry := none } }

/-- A fetch that raises its cause, or parks: at the entry PC of a trap a cause finds no handler (R418). -/
def State.fetchFailed (s : State) (h : Halt) : State :=
  match h with
  | .trap c v => if s.hart.entry = some s.hart.pc then s.noHandler c v else s.halt h
  | .wait _ => s.halt h

/-- The word of an advice context at its APC, through the hart's translation (R198): none where it
cannot be translated, or lies outside the code. A page in migration neither parks the fetch nor stops the context
(DESIGN CHOICE, assumption log 92). -/
def State.fetchAdvice (s : State) : Option (IWord × State) :=
  let a := s.hart.adv
  let o := (a.apc - a.code).toNat
  if o + 4 ≤ a.codeSize then
    match s.xlat .read a.apc with
    | .ok (t, s1) => some (BitVec.ofNat 32 (bytesVal (s1.l2Bytes t.gran t.pa 4)), s1.l2Take t t.pa 4)
    | .error _ => none
  else none

/-- A word fetched ahead by the front end of a hart in its slot (R405). -/
def State.fetchAhead (s : State) (va : Word) : State :=
  if !s.hart.inSlot then s
  else match ({ s with hart := { s.hart with pc := va } } : State).fetch with
  | .ok (w, _) => { s with hart := { s.hart with ibuf := tset s.hart.ibuf va.toNat w } }
  | .error _ => s

/-- A cached translation dropped (R406). -/
def State.dropTlb (s : State) (va : Word) : State :=
  { s with hart := { s.hart with
      tlb := s.hart.tlb.filter fun t => !t.covers s.hart.trap.ctxid va } }

/-! ### Time (R258) -/

/-- Cycles of a clock in MHz from one TIME to another: the whole cycles that end in between, so that no fraction
is lost however TIME is divided into steps. -/
def cyclesIn (t0 t1 mhz : Nat) : Nat := t1 * mhz / 1000 - t0 * mhz / 1000

/-- TIME passes: CYCLE of each resident hart rises at its hamlet's scalar clock, the lane cycles of advice pins run off
(R194), and the owner's lease (R450). -/
def State.elapse (s : State) (ns : Nat) : State :=
  let t0 := s.time.toNat
  let t := s.mapHarts fun h =>
    let m := s.hamlet (hamletOf h.core)
    let lane := cyclesIn t0 (t0 + ns) m.lane
    let a := { h.adv with pins := h.adv.pins.map fun p => (p.1, p.2 - lane) }
    if h.inSlot then
      { h with adv := a, csr := { h.csr with
          cycle := h.csr.cycle + BitVec.ofNat 64 (cyclesIn t0 (t0 + ns) m.scalar) } }
    else { h with adv := a }
  let now := t.time + BitVec.ofNat 64 ns
  { t with time := now, mgmt := { t.mgmt with lease := t.mgmt.leaseLeft now } }

/-- Stall counts of the hart in focus rise (R258). -/
def State.stallBy (s : State) (v m c : Nat) : State :=
  s.setCsr { s.hart.csr with
    stallv := s.hart.csr.stallv + BitVec.ofNat 64 v
    stallm := s.hart.csr.stallm + BitVec.ofNat 64 m
    stallc := s.hart.csr.stallc + BitVec.ofNat 64 c }

/-! ### Evictions, errors and other parties -/

/-- L1 evicts a line of its own choice: one at the lowest priority (R80, R83). -/
def State.evictLine (s : State) (c line : Nat) : State :=
  match tget (s.core c).l1 line with
  | some l => if l.prio.toNat = (s.core c).lowest then s.dropLine c line else s
  | none => s

/-- A gathered line of the lowest priority dropped by L1 (R83, R86). -/
def State.evictGathered (s : State) (c n : Nat) : State :=
  match (s.core c).gathered[n]? with
  | some g =>
    if g.prio.toNat = (s.core c).lowest then s.setCore c { s.core c with gathered := (s.core c).gathered.eraseIdx n }
    else s
  | none => s

/-- L2 evicts a line of its own choice (R92, R94, R208). -/
def State.evictL2 (s : State) (line : Nat) : State :=
  match tget s.l2 line with
  | some l => if s.l2Goes line l then s.l2Evict line else s
  | none => s

/-- Bytes written at their home slices, each under the granule its frame is stored under. -/
def State.homeWrite (s : State) (cells : List Host.Cell) : State :=
  [0#2, 1#2, 2#2, 3#2].foldl
    (fun (t : State) g => t.l2Write g (cells.filter fun c => s.grainOf c.1 == g)) s

/-- A byte that another party writes to a host or domain window: its memory holds it, whatever a write of the device
that its target drops would leave. Where L2 has taken a copy of a host byte that is not snooped, the copy stays
(R411, R442). -/
def State.externalByte (s : State) (pa : Nat) (b : Byte) : State :=
  let t := { s with posted := tdel s.posted pa }
  match tget t.l2 (pa / 256) with
  | some l =>
    if Config.cxl && l.snoop then
      let u := t.l2Evict (pa / 256)
      { u with mem := cellSet u.mem pa b }
    else if l.valid.getLsbD (pa % 256 / 32) then { t with hostMem := tset t.hostMem pa b }
    else { t with mem := cellSet t.mem pa b }
  | none => { t with mem := cellSet t.mem pa b }

/-- Another party's write: the host's or another device's to memory beside HBM, and another device's to HBM of this one,
which performs at its home slice where the partition table places it in a partition (R102, R445). -/
def State.external (s : State) (pa : Nat) (data : List Byte) : State :=
  if isHost pa || isDomain pa then
    (cellsAt pa data).foldl (fun (t : State) (c : Host.Cell) => t.externalByte c.1 c.2) s
  else s.homeWrite ((cellsAt pa data).filter fun c => isHbm c.1 &&
    s.mgmt.parts.any fun p => p.ranges.any fun r => decide (r.1 ≤ c.1 ∧ c.1 < r.1 + r.2))

/-- The codeword symbol that holds a pin at a beat (R98). -/
def symbolOf (g : BitVec 2) (p : PinBeat) : Nat :=
  match g.toNat with
  | 0 => 9 * (p.beat / 2) + (if p.check then 8 else p.pin / 4)
  | 1 => 9 * p.beat + (if p.check then 8 else p.pin / 8)
  | 2 => 18 * p.beat + (if p.check then 16 + p.pin / 8 else p.pin / 8)
  | _ => 18 * p.beat + (if p.check then 16 + p.pin / 16 else p.pin / 16)

/-- The symbols in error that a granule's code corrects (R97). -/
def corrects (g : BitVec 2) : Nat :=
  match g.toNat with
  | 0 => 2
  | 1 => 4
  | _ => 8

/-- Whether an access of a granule has a pin at a beat: 32 data and 4 check pins for each of its sub-channels, 8
beats (R97). -/
def hasPin (g : BitVec 2) (p : PinBeat) : Bool :=
  decide (p.beat < 8 ∧ p.pin < (if p.check then 4 else 32) * 2 ^ g.toNat)

/-- The symbols in error of an access (R98). -/
def badSymbols (g : BitVec 2) (bad : List PinBeat) : List Nat := ((bad.filter (hasPin g)).map (symbolOf g)).eraseDups

/-- The die whose error log records an HBM address: that of its stack (R8, R432). -/
def hbmDie (pa : Nat) : Nat := stackOf pa / 2

/-- An HBM access in error (R97, R98, R431), as a fill of L2 reads it: within the code's limit corrected data is
delivered and logged; beyond it L2 marks the sectors that it fills poisoned, which are those it does not hold. -/
def State.hbmError (s : State) (pa : Nat) (bad : List PinBeat) : State :=
  let g := s.grainOf pa
  let n := (badSymbols g bad).length
  if !isHbm pa || n == 0 then s
  else if n ≤ corrects g then s.logError (hbmDie pa) 0 pa g.toNat n
  else
    let held (k : Nat) : Bool := match tget s.l2 (k / 8) with
      | some l => l.valid.getLsbD (k % 8)
      | none => false
    (s.addPoisons ((granuleSectors g pa).filter fun k => !held k)).logError (hbmDie pa) 1 pa g.toNat 0

/-- Sectors marked poisoned in L2 alone. -/
def State.markL2 (s : State) (secs : List Nat) : State :=
  let new := secs.filter fun k => !s.poison.contains k
  { s.addPoisons secs with l2Poison := new ++ s.l2Poison }

/-- L2 fills the granule of a sector that it lacks, for an agent of its own choice (R93). A codeword stored under
another granule is found uncorrectable: L2 marks the data poisoned, and it is logged (R101). A read that fills L2 itself
finds such a codeword valid, so that the agenda decides which of the two occurs. -/
def State.l2Fill (s : State) (pa : Nat) (g : BitVec 2) : State :=
  let held := match tget s.l2 (pa / 256) with
    | some l => l.valid.getLsbD (pa % 256 / 32)
    | none => false
  let secs := granuleSectors g pa
  let wrong := secs.any fun k => (List.range 32).any fun i => s.grainOf (32 * k + i) != g
  if held || !isHbm pa then s
  else if wrong then
    let t := s.l2Sector g false (pa / 32)
    if (tget t.l2 (pa / 256)).isSome then (t.markL2 secs).logError (hbmDie pa) 1 pa g.toNat 0 else t
  else s.l2Sector g false (pa / 32)

/-! ### Stores on their way (R110, R117) -/

/-- Whether a delayed store has bytes in a range. -/
def Delayed.meets (d : Delayed) (pa n : Nat) : Bool :=
  decide (d.xlat.pa < pa + n ∧ pa < d.xlat.pa + d.bytes.length)

/-- One of the hart's delayed stores performs: the oldest of those with bytes in common first. -/
def State.performStore (s : State) (i : Nat) : State :=
  match s.hart.pending[i]? with
  | none => s
  | some d =>
    if (s.hart.pending.take i).any fun e => e.meets d.xlat.pa d.bytes.length then s
    else
      let t : State := { s with hart := { s.hart with pending := s.hart.pending.eraseIdx i } }
      if d.scl then t.writeScalar d.alloc false d.xlat d.bytes
      else (t.dropL0 s.hart.core (fun _ => true) d.xlat.pa d.bytes.length).writePhys d.alloc false d.xlat d.bytes

/-- Every delayed store of the hart in focus performs, oldest first. -/
def State.drainStores (s : State) : State := s.hart.pending.foldl (fun t _ => t.performStore 0) s

/-- Every delayed store of the harts that `which` names performs: what had translated has performed (R406, R415). -/
def State.drainOf (s : State) (which : Hart → Bool) : State :=
  ((s.harts.filter fun h => which h && !h.pending.isEmpty).map (·.uid)).foldl
    (fun t u => t.onOther u State.drainStores) s

/-- The entry of the queues that may execute next, and the rest: none while a reliability trap holds
them (R428), or while it waits (R49, R412). -/
def Hart.nextEntry (h : Hart) : Option (QEntry × List QEntry) :=
  match h.queue, h.qwait with
  | e :: t, .none => if e.rhold then none else some (e, t)
  | _, _ => none

/-- Whether the front end waits for an entry of the queues: for its result (R40), or for its probe (R297). -/
def QEntry.awaited (e : QEntry) : Bool :=
  e.waited || (e.probe.isNone && (e.kind == .vmq || isMtile e.word || isMepi e.word))

/-- Whether the front end waits for an entry before those that a reliability trap holds (R40, R297, R428). -/
def Hart.awaits (h : Hart) : Bool := (h.queue.takeWhile fun e => !e.rhold).any QEntry.awaited

/-- A wait that ends by trying the instruction again. -/
def Wait.retries : Wait → Bool
  | .none => true
  | .room _ => true
  | .copyRoom => true
  | .copyDrain => true
  | .held => true
  | .entry => false
  | .lanes => false
  | .waita .. => false
  | .vwait .. => false
  | .barrier _ => false
  | .join .. => false
  | .wfi => false
  | .pair .. => false
  | .ctxWrite .. => false
  | .parked .. => false

/-- Whether an enabled interrupt is pending (R420). -/
def Hart.interrupted (h : Hart) : Bool := h.trap.ie && (h.irqSoft.isSome || h.irqMail.isSome)

/-- The step that a waiting front end needs next. -/
noncomputable def State.wakeFront (s : State) : Option Instr :=
  let h := s.hart
  match h.wait with
  | .lanes => some (.laneBlockTaken h.uid)
  | .waita _ _ _ _ _ _ start left =>
    some (if h.interrupted then .interruptTake h.uid
          else if left ≠ BitVec.allOnes 64 ∧ left.toNat ≤ (s.time - start).toNat then .waitaTimeout h.uid
          else .waitaWake h.uid)
  | .vwait _ _ _ _ _ _ start left _ =>
    some (if h.interrupted then .interruptTake h.uid
          else if left ≠ BitVec.allOnes 64 ∧ left.toNat ≤ (s.time - start).toNat then .vwaitTimeout h.uid
          else .vwaitRound h.uid)
  | .wfi => some (.wfiWake h.uid)
  | .pair .. => some (.pairTimeout h.uid)
  | .ctxWrite .. => some (.contextRegisterWriteComplete h.uid)
  | .parked .. => some (.parkedAccessRetranslate h.uid)
  | .copyRoom => some (.copyCommandComplete h.uid)
  | .copyDrain => some (.copyCommandComplete h.uid)
  | .room _ => some (.queueRoomResume h.uid)
  | .barrier _ => none
  | .join .. => none
  | .held => none
  | .entry => none
  | .none => none

/-- The step that the oldest entry of the queues needs next, where it waits. -/
noncomputable def State.wakeQueue (s : State) : Option Instr :=
  match s.hart.qwait with
  | .lanes => some (.laneBlockTaken s.hart.uid)
  | .parked .. => some (.parkedAccessRetranslate s.hart.uid)
  | _ => none

/-- The step a waiting hart needs next. -/
noncomputable def State.wakeEvent (s : State) : Option Instr := s.wakeQueue.orElse fun _ => s.wakeFront

/-- An advice context stops (R205). -/
def State.stopAdvice (s : State) (reason : Nat) : State :=
  { s with hart := { s.hart with
      adv := { s.hart.adv with st := .stopped, stop := BitVec.ofNat 4 reason } } }

/-! ### The bytes a fetch reads -/

/-- The words of an instruction stored where the PC of the hart in focus is translated to. -/
def State.placeWord (s : State) (pa : Nat) (w : IWord) : State :=
  { s with mem := cellsSet s.mem pa (valBytes 4 w.toNat) }

end Sys2Proof.Machine
end

