-- ==== Sys2Proof/Machine/System.lean ====
section
/-! DEFINITION. The system major (R256 to R262): control and status registers (R229, R257, R258, R370
to R376), software traps, the return from a trap, wfi and the translation fences. -/

namespace Sys2Proof.Machine

/-! ### Register classes -/

/-- How a number may be accessed (R229, R257, R370): unallocated; read only; read and written at once;
read and written after the queues drain; a context register, whose write completes later. -/
inductive CsrKind where
  | absent | ro | rw | drain | ctx
deriving DecidableEq, Repr

/-- The kind of a csr12 number (R229, R257, R370). -/
def csrKind (n : BitVec 12) : CsrKind :=
  match n.toNat with
  | 0x000 => .ro
  | 0x001 => .ro
  | 0x002 => .drain
  | 0x003 => .ro
  | 0x004 => .rw
  | 0x005 => .drain
  | 0x006 => .drain
  | 0x007 => .rw
  | 0x008 => .ro
  | 0x009 => .rw
  | 0x014 => .rw
  | 0x800 => .rw
  | 0x801 => .rw
  | 0x802 => .rw
  | 0x803 => .rw
  | 0x804 => .rw
  | 0x805 => .rw
  | 0x806 => .rw
  | 0x807 => .ctx
  | 0x808 => .ro
  | 0x809 => .ctx
  | 0x80A => .ctx
  | 0x80B => .ctx
  | 0x80C => .rw
  | 0x80D => .ctx
  | 0x80E => .rw
  | 0x80F => .ctx
  | 0x810 => .ctx
  | 0x811 => .ro
  | 0x812 => .ctx
  | 0x813 => .ctx
  | 0x814 => .ro
  | 0x815 => .ro
  | 0x816 => .ctx
  | m => if m ≤ 0x015 then .ro else .absent

/-- Whether a number is privileged (R229). -/
def csrPriv (n : BitVec 12) : Bool := n.getLsbD 11

/-! ### Reading -/

/-- ASTAT.STATE (R199). -/
def AdvState.code : AdvState → Nat
  | .unbound => 0
  | .running => 1
  | .waiting => 2
  | .halted => 3
  | .stopped => 4

/-- ASTAT (R199). -/
def Adv.astat (a : Adv) : Word :=
  BitVec.ofNat 64 (a.st.code + 8 * a.refused.toNat + 16 * a.stop.toNat + 2 ^ 16 * a.drops.toNat
    + 2 ^ 32 * a.dropx.toNat + 2 ^ 48 * a.dropq.toNat)

/-- HMODE (R258). -/
def Csr.hmode (c : Csr) : Word := BitVec.ofNat 64 (c.check.toNat + 4 * c.det.toNat)

/-- TSTAT (R372). -/
def TrapRegs.tstat (t : TrapRegs) : Word :=
  BitVec.ofNat 64 (t.ppriv.toNat + 2 * t.pie.toNat + 4 * t.vpart.toNat)

/-- HSTAT (R372). -/
def TrapRegs.hstat (t : TrapRegs) : Word := BitVec.ofNat 64 (t.priv.toNat + 4 * t.ie.toNat)

/-- TVEC (R372). -/
def TrapRegs.tvecWord (t : TrapRegs) : Word :=
  BitVec.ofNat 64 (4 * t.tvec.toNat + t.vectored.toNat)

/-- A context register's value (R373, R374, R376). -/
def Ctx.csr (k : Ctx) (n : BitVec 12) : Word :=
  let en (e : Bool) : Nat := e.toNat * 2 ^ 63
  BitVec.ofNat 64 (match n.toNat with
    | 0x807 => k.vlcap.toNat
    | 0x809 => en k.sttbEn + k.sttb.toNat * 2 ^ 12
    | 0x80A => en k.vttbEn + k.vttb.toNat * 2 ^ 17
    | 0x80B => k.vwbase.toNat * 2 ^ 40
    | 0x80D => k.seed.toNat
    | 0x80F => en k.notifyEn + k.notify.toNat * 2 ^ 12 + k.notLog.toNat
    | 0x810 => k.nhead.toNat
    | 0x811 => k.lost.toNat * 2 ^ 32 + k.ntail.toNat
    | 0x812 => en k.arenaEn + k.arena.toNat * 2 ^ 12 + k.arenaLog.toNat
    | 0x813 => k.poolCnt.toNat * 2 ^ 52 + k.pool.toNat * 2 ^ 12
    | 0x815 => k.abrefuse.toNat
    | _ => k.hlbase.toNat * 2 ^ 16)

/-- What a cread of an allocated number returns (R229, R258, R370 to R376). -/
def State.csrRead (s : State) (n : BitVec 12) : Word :=
  let h := s.hart
  let c := h.csr
  match n.toNat with
  | 0x000 => c.vl.setWidth 64
  | 0x001 => c.vt.setWidth 64
  | 0x002 => c.vstart.setWidth 64
  | 0x003 => BitVec.ofNat 64 h.lgrant
  | 0x004 => c.valloc.setWidth 64
  | 0x005 => c.efr.setWidth 64
  | 0x006 => c.fcsr.setWidth 64
  | 0x007 => c.hmode
  | 0x008 => c.pmark.setWidth 64
  | 0x009 => c.alead.setWidth 64
  | 0x00A => c.loopn.get 0
  | 0x00B => c.loopn.get 1
  | 0x00C => c.loopn.get 2
  | 0x00D => c.loopn.get 3
  | 0x00E => BitVec.ofNat 64 h.number
  | 0x00F => c.cycle
  | 0x010 => s.time
  | 0x011 => c.stallv
  | 0x012 => c.stallm
  | 0x013 => c.stallc
  | 0x014 => c.pairto.setWidth 64
  | 0x015 => h.adv.astat
  | 0x800 => h.trap.hstat
  | 0x801 => h.trap.tvecWord
  | 0x802 => h.trap.tcause.setWidth 64
  | 0x803 => h.trap.tval
  | 0x804 => h.trap.tpc.setWidth 64 <<< 2
  | 0x805 => h.trap.tstat
  | 0x806 => h.trap.tscratch
  | 0x808 => BitVec.ofNat 64 s.lpart
  | 0x80C => h.trap.ctxid.setWidth 64
  | 0x80E => h.dirtyv.setWidth 64
  | 0x814 => match h.saveIdx with
    | some i => BitVec.ofNat 64 (s.myCtx.areaBase i)
    | none => 0
  | _ => s.myCtx.csr n

/-! ### Writing -/

/-- A value with a lower bound (R67). -/
def pairtoWrite (v : BitVec 20) : BitVec 20 := if v.toNat < 256 then 256 else v

/-- A check level as a write stores it (R258). -/
def checkWrite (v : BitVec 2) : BitVec 2 := if v = 3 then 2 else v

/-- A hart register written, with what its fields store (R84, R67, R156, R157, R192, R258, R372, R374,
R375). -/
def State.csrWrite (s : State) (n : BitVec 12) (v : Word) : State :=
  let c := s.hart.csr
  let t := s.hart.trap
  match n.toNat with
  | 0x002 => s.setCsr { c with vstart := v.setWidth 17 }
  | 0x004 => s.setCsr { c with valloc := v.setWidth 32 }
  | 0x005 => s.setCsr { c with efr := v.setWidth 32 }
  | 0x006 => s.setCsr { c with fcsr := fcsrWrite (v.toNat % 256) }
  | 0x007 => s.setCsr { c with check := checkWrite (v.setWidth 2) }
  | 0x009 => s.setCsr { c with alead := v.setWidth 16 }
  | 0x014 => s.setCsr { c with pairto := pairtoWrite (v.setWidth 20) }
  | 0x800 => s.setTrap { t with ie := v.getLsbD 2 }
  | 0x801 => s.setTrap { t with tvec := v.extractLsb' 2 62, vectored := v.setWidth 2 == 1#2 }
  | 0x802 => s.setTrap { t with tcause := v.setWidth 10 }
  | 0x803 => s.setTrap { t with tval := v }
  | 0x804 => s.setTrap { t with tpc := v.extractLsb' 2 62 }
  | 0x805 => s.setTrap { t with vpart := v.getLsbD 2, pie := v.getLsbD 1, ppriv := v.getLsbD 0 }
  | 0x806 => s.setTrap { t with tscratch := v }
  | 0x80C => s.setTrap { t with ctxid := v.setWidth 16 }
  | 0x80E => { s with hart := { s.hart with dirtyv := v.setWidth 43 } }
  | _ => s

/-- A lane depth as VLCAP stores it (R373). -/
def vlcapWrite (v : BitVec 5) : BitVec 5 := if v = 0 then 1 else if 16 < v.toNat then 16 else v

/-- A log2 size with a largest value (R374, R376). -/
def capLog (v : BitVec 5) (m : Nat) : BitVec 5 := if m < v.toNat then BitVec.ofNat 5 m else v

/-- A context register written, with what its fields store (R373, R374, R376). -/
def Ctx.csrWrite (k : Ctx) (n : BitVec 12) (v : Word) : Ctx :=
  match n.toNat with
  | 0x807 => { k with vlcap := vlcapWrite (v.setWidth 5) }
  | 0x809 => { k with sttbEn := v.getLsbD 63, sttb := v.extractLsb' 12 40 }
  | 0x80A => { k with vttbEn := v.getLsbD 63, vttb := v.extractLsb' 17 35 }
  | 0x80B => { k with vwbase := v.extractLsb' 40 24 }
  | 0x80D => { k with seed := v }
  | 0x80F => { k with
      notifyEn := v.getLsbD 63, notify := v.extractLsb' 12 40, notLog := capLog (v.setWidth 5) 16 }
  | 0x810 => { k with nhead := v.setWidth 32 }
  | 0x812 => { k with
      arenaEn := v.getLsbD 63, arena := v.extractLsb' 12 40, arenaLog := capLog (v.setWidth 5) 20 }
  | 0x813 => { k with
      poolCnt := if 1024 < bits v.toNat 52 11 then 1024 else v.extractLsb' 52 11
      pool := v.extractLsb' 12 40 }
  | 0x816 => { k with hlbase := v.extractLsb' 16 48 }
  | _ => k

/-! ### The four register instructions -/

/-- The first checks of a register instruction: privilege at the kernel level, then allocation (R230,
R256, R259). -/
def State.csrCheck (s : State) (n : BitVec 12) (w : IWord) : Except Halt Unit := do
  need (csrPriv n = false ∨ s.hart.trap.priv) 0x181 (wordVal w)
  need (csrKind n ≠ .absent) 0x02B (wordVal w)

/-- A register's new value: the bits kept of the old one, and the bits set (R256). -/
def State.csrUpdate (s : State) (n : BitVec 12) (keep set : Word) (w : IWord) : Except Halt State := do
  s.csrCheck n w
  need (csrKind n ≠ .ro) 0x180 (wordVal w)
  match csrKind n with
  | .ctx => .error (.wait (.ctxWrite n keep set))
  | .drain =>
    s.drained
    return (s.csrWrite n ((s.csrRead n &&& keep) ||| set)).advance
  | _ =>
    let v := (s.csrRead n &&& keep) ||| set
    need (n ≠ 0x007 ∨ v.getLsbD 2 = s.hart.csr.det) 0x180 (wordVal w)
    return (s.csrWrite n v).advance

/-- cread (R256, R257). -/
def execCread (d : Reg) (csr : BitVec 12) (s : State) : Host.Outcome State Fault Refusal :=
  commit s (do
    s.csrCheck csr (packS 0x2B csr 0 d 0)
    if csrKind csr = .drain then s.drained
    return (s.setX d (s.csrRead csr)).advance)

/-- cwrite (R256, R257). -/
def execCwrite (csr : BitVec 12) (a : Reg) (s : State) : Host.Outcome State Fault Refusal :=
  commit s (s.csrUpdate csr 0 (s.x a) (packS 0x2B csr a 0 1))

/-- cbset: with a = x0 nothing is written (R229, R256). -/
def execCbset (csr : BitVec 12) (a : Reg) (s : State) : Host.Outcome State Fault Refusal :=
  let w := packS 0x2B csr a 0 2
  commit s (if a = 0 then (do s.csrCheck csr w; return s.advance)
            else s.csrUpdate csr (BitVec.allOnes 64) (s.x a) w)

/-- cbclr: with a = x0 nothing is written (R229, R256). -/
def execCbclr (csr : BitVec 12) (a : Reg) (s : State) : Host.Outcome State Fault Refusal :=
  let w := packS 0x2B csr a 0 3
  commit s (if a = 0 then (do s.csrCheck csr w; return s.advance)
            else s.csrUpdate csr (~~~ s.x a) 0 w)

/-! ### Software traps, tret, wfi -/

/-- syscall n: it completes before the trap, so TPC holds the next instruction (R261). -/
def execSyscall (n : BitVec 6) (s : State) : Host.Outcome State Fault Refusal :=
  .next (s.takeTrap (BitVec.ofNat 10 (0x340 + n.toNat)) 0 (s.hart.pc + 4) s.hart.partial?)

/-- break n (R261). -/
def execBrk (n : BitVec 6) (s : State) : Host.Outcome State Fault Refusal :=
  .next (s.takeTrap 0x380 (n.setWidth 64) (s.hart.pc + 4) s.hart.partial?)

/-- The privilege check of the supervisor's instructions (R259). -/
def State.supervisor (s : State) (fn : BitVec 4) (a : Reg) : Except Halt Unit :=
  need s.hart.trap.priv 0x182 (wordVal (packS 0x2B 0 a 0 fn))

/-- Held queue entries go free (R428). -/
def State.releaseEntries (s : State) : State :=
  { s with hart := { s.hart with queue := s.hart.queue.map fun e => { e with rhold := false } } }

/-- tret (R262, R369, R428). -/
def execTret (s : State) : Host.Outcome State Fault Refusal :=
  commit s (do
    s.supervisor 6 0
    return s.returnTrap.releaseEntries)

/-- Whether an interrupt is pending, enabled or not (R262). -/
def Hart.pendingIrq (h : Hart) : Bool := h.irqSoft.isSome || h.irqMail.isSome

/-- wfi (R262). -/
def execWfi (s : State) : Host.Outcome State Fault Refusal :=
  commit s (do
    s.supervisor 7 0
    if s.hart.pendingIrq then return s.advance else .error (.wait .wfi))

/-! ### Translation fences -/

/-- A translation fence waits for the hart's earlier stores that stand in its queues (R262). -/
def State.storesLeft (s : State) : Except Halt Unit :=
  if s.hart.queue.any fun e => e.writes && !e.rhold then .error (.wait .held) else .ok ()

/-- Whether a fence of address a covers a cached translation: all of the context's when a is x0 (R262). -/
def TlbEntry.hit (t : TlbEntry) (ctx : BitVec 16) (a : Reg) (va : Word) : Bool :=
  t.ctx == ctx && (a == 0 || t.covers ctx va)

/-- A hart after a tfence.s of its core: discarded translations; a parked scalar access translates again, and
parks once more where the fence does not cover it (R262, R406, R413). -/
def Hart.tfenced (h : Hart) (ctx : BitVec 16) (a : Reg) (va : Word) : Hart where
  __ := h
  tlb := h.tlb.filter fun t => !t.hit ctx a va
  wait := match h.wait with
    | .parked _ false => .none
    | w => w

/-- tfence.s (R262): earlier stores first perform at L2, and what the core's harts had translated performs (R406). -/
def State.tfenceScalar (s : State) (a : Reg) : State :=
  let va := s.x a
  let ctx := s.hart.trap.ctxid
  let core := s.hart.core
  let t := ((s.drainOf fun h => h.core == core).writeBackAll core false).mapHarts fun h =>
    if h.core = core then h.tfenced ctx a va else h
  { t with hart := { t.hart with ibuf := [] } }

/-- tfence.s (R262). -/
def execTfenceS (a : Reg) (s : State) : Host.Outcome State Fault Refusal :=
  commit s (do
    s.supervisor 8 a
    s.storesLeft
    return (s.tfenceScalar a).advance)

/-- The base of the vector translation table (R374). -/
def Ctx.vttBase (k : Ctx) : Nat := k.vttb.toNat * 2 ^ 17

/-- Poison in table storage raises 0x305 with the entry's address (R431). -/
def State.tableCheck (s : State) (base n : Nat) : Except Halt Unit :=
  match s.poison.find? fun p => decide (base ≤ p * 32 + 31 ∧ p * 32 < base + n) with
  | some p => .error (.trap 0x305 (BitVec.ofNat 64 (max base (p * 32))))
  | none => .ok ()

/-- A core's whole table loaded from memory (R407). -/
def State.vttReload (s : State) (core ctx : Nat) : State :=
  s.setCore core { s.core core with vttCtx := some ctx, vtt := vttLoad s.mem (s.ctx ctx).vttBase }

/-- One entry of a core's table re-read from memory (R262). -/
def State.vttReread (s : State) (core ctx i : Nat) : State :=
  let k := s.core core
  s.setCore core { k with
    vtt := cellsSet k.vtt (8 * i) (cellsGet s.mem ((s.ctx ctx).vttBase + 8 * i) 8) }

/-- A wait that ends where it is a vector access parked in entry i of a window, or in any entry (R413). -/
def Wait.unless (w : Wait) (base : Nat) (i : Option Nat) : Wait :=
  match w with
  | .parked pv true => if i.isNone || i == some ((pv.toNat - base) / 2 ^ 26) then .none else w
  | _ => w

/-- Vector accesses parked in the window translate again (R413): those in entry i, or all. -/
def State.wakeVec (s : State) (core : Nat) (i : Option Nat) : State :=
  let base := s.myCtx.vwbase.toNat * 2 ^ 40
  s.mapHarts fun h =>
    if h.core = core then { h with wait := h.wait.unless base i, qwait := h.qwait.unless base i } else h

/-- The entry index of an address in the vector window (R407). -/
def Ctx.vttIndex (k : Ctx) (va : Word) : Option Nat :=
  let base := k.vwbase.toNat * 2 ^ 40
  if base ≤ va.toNat ∧ va.toNat < base + 2 ^ 40 then some ((va.toNat - base) / 2 ^ 26) else none

/-- tfence.v (R262): earlier stores first perform at L2; an uncorrectable entry raises 0x305. -/
def State.tfenceVector (s : State) (a : Reg) : Except Halt State := do
  let core := s.hart.core
  let ctx := s.hart.ctx
  let t := (s.drainOf fun h => h.core == core).writeBackAll core false
  let base := s.myCtx.vttBase
  if a = 0 then
    t.tableCheck base 131072
    return (t.vttReload core ctx).wakeVec core none
  else
    match s.myCtx.vttIndex (s.x a) with
    | some i =>
      t.tableCheck (base + 8 * i) 8
      return (t.vttReread core ctx i).wakeVec core (some i)
    | none => return t

/-- tfence.v (R262). -/
def execTfenceV (a : Reg) (s : State) : Host.Outcome State Fault Refusal :=
  commit s (do
    s.supervisor 9 a
    s.storesLeft
    let t ← s.tfenceVector a
    return t.advance)

end Sys2Proof.Machine
end

