-- ==== Sys2Proof/Machine/ScalarFp.lean ====
section
/-! DEFINITION. Scalar floating point: the FP major in binary32 and binary64 (R254, R255), and the
access to FCSR after the queues have drained (R257). -/

namespace Sys2Proof.Machine

/-- The format of a scalar FP word (R254). -/
def fpFmt (dbl : Bool) : FFmt := if dbl then fp64 else fp32

/-- The bits of a source: f[x][31:0] for .s (R254). -/
def State.fsrc (s : State) (dbl : Bool) (r : Reg) : Nat :=
  if dbl then (s.f r).toNat else (s.f r).toNat % 2 ^ 32

/-- The number a source holds. -/
def State.fnum (s : State) (dbl : Bool) (r : Reg) : Num := (fpFmt dbl).decode (s.fsrc dbl r)

/-- FCSR.RM (R156). -/
def State.rm (s : State) : Rm := rmOf (bits s.hart.csr.fcsr.toNat 5 3)

/-- A result for f[d] and its flags: a .s result zero-fills bits [63:32] (R254). -/
def fpDone (d : Reg) (r : Rounded) (s : State) : Host.Outcome State Fault Refusal :=
  .next ((s.raiseFlags r.flags).setF d (BitVec.ofNat 64 r.code)).advance

/-- A result for x[d] and its flags. -/
def fpToX (d : Reg) (v : Word) (fl : BitVec 8) (s : State) : Host.Outcome State Fault Refusal :=
  .next ((s.raiseFlags fl).setX d v).advance

/-- A comparison into x[d] (R254, R255). -/
def fpCompare (c : Cmp) (d a b : Reg) (dbl : Bool) (s : State) : Host.Outcome State Fault Refusal :=
  let r := Num.compare c (s.fnum dbl a) (s.fnum dbl b)
  fpToX d (if r.1 then 1 else 0) r.2 s

/-- fadd (R254). -/
def execFadd (d a b : Reg) (dbl : Bool) (s : State) : Host.Outcome State Fault Refusal :=
  fpDone d ((fpFmt dbl).result s.rm (Num.add s.rm (s.fnum dbl a) (s.fnum dbl b))) s

/-- fsub (R254): NaN operands as for an addition (R255). -/
def execFsub (d a b : Reg) (dbl : Bool) (s : State) : Host.Outcome State Fault Refusal :=
  fpDone d ((fpFmt dbl).result s.rm (Num.add s.rm (s.fnum dbl a) (s.fnum dbl b).neg)) s

/-- fmul (R254). -/
def execFmul (d a b : Reg) (dbl : Bool) (s : State) : Host.Outcome State Fault Refusal :=
  fpDone d ((fpFmt dbl).result s.rm (Num.mul (s.fnum dbl a) (s.fnum dbl b))) s

/-- fdiv (R254, R255). -/
def execFdiv (d a b : Reg) (dbl : Bool) (s : State) : Host.Outcome State Fault Refusal :=
  fpDone d ((fpFmt dbl).result s.rm (Num.div (s.fnum dbl a) (s.fnum dbl b))) s

/-- fsqrt (R254, R255). -/
def execFsqrt (d a : Reg) (dbl : Bool) (s : State) : Host.Outcome State Fault Refusal :=
  fpDone d ((fpFmt dbl).sqrt s.rm (s.fnum dbl a)) s

/-- fma: a × b + c, exact, rounded once (R254). -/
def execFma (d a b c : Reg) (dbl : Bool) (s : State) : Host.Outcome State Fault Refusal :=
  fpDone d ((fpFmt dbl).result s.rm
    (Num.fma s.rm (s.fnum dbl a) (s.fnum dbl b) (s.fnum dbl c))) s

/-- fmin (R255). -/
def execFmin (d a b : Reg) (dbl : Bool) (s : State) : Host.Outcome State Fault Refusal :=
  fpDone d ((fpFmt dbl).minmax false (s.fsrc dbl a) (s.fsrc dbl b)) s

/-- fmax (R255). -/
def execFmax (d a b : Reg) (dbl : Bool) (s : State) : Host.Outcome State Fault Refusal :=
  fpDone d ((fpFmt dbl).minmax true (s.fsrc dbl a) (s.fsrc dbl b)) s

/-- feq (R254, R255). -/
def execFeq (d a b : Reg) (dbl : Bool) (s : State) : Host.Outcome State Fault Refusal :=
  fpCompare .eq d a b dbl s

/-- flt (R254, R255). -/
def execFlt (d a b : Reg) (dbl : Bool) (s : State) : Host.Outcome State Fault Refusal :=
  fpCompare .lt d a b dbl s

/-- fle (R254, R255). -/
def execFle (d a b : Reg) (dbl : Bool) (s : State) : Host.Outcome State Fault Refusal :=
  fpCompare .le d a b dbl s

/-- fcvt.f.x: a signed 64-bit integer rounded to the format (R254). -/
def execFcvtFX (d a : Reg) (dbl : Bool) (s : State) : Host.Outcome State Fault Refusal :=
  fpDone d ((fpFmt dbl).convert (.mode s.rm) (Num.ofInt (s.x a).toInt)) s

/-- fcvt.x.f: a signed 64-bit integer, rounded under RM (R254, R255). -/
def execFcvtXF (d a : Reg) (dbl : Bool) (s : State) : Host.Outcome State Fault Refusal :=
  let r := intConvert 64 (.mode s.rm) (s.fnum dbl a)
  fpToX d (BitVec.ofInt 64 r.1) r.2 s

/-- fmv.f.x: bits moved (R254). -/
def execFmvFX (d a : Reg) (dbl : Bool) (s : State) : Host.Outcome State Fault Refusal :=
  let v := if dbl then (s.x a).toNat else (s.x a).toNat % 2 ^ 32
  .next (s.setF d (BitVec.ofNat 64 v)).advance

/-- fmv.x.f: bits moved; .s sign-extends bit 31 (R254). -/
def execFmvXF (d a : Reg) (dbl : Bool) (s : State) : Host.Outcome State Fault Refusal :=
  let v := if dbl then s.f a else sext64 32 (s.f a).toNat
  .next (s.setX d v).advance

/-- fsgnj: the magnitude bits of a with the sign bit of b (R254). -/
def execFsgnj (d a b : Reg) (dbl : Bool) (s : State) : Host.Outcome State Fault Refusal :=
  let f := fpFmt dbl
  let m := s.fsrc dbl a % 2 ^ f.low
  let v := f.signed ((s.fsrc dbl b).testBit f.low) m
  .next (s.setF d (BitVec.ofNat 64 v)).advance

end Sys2Proof.Machine
end

