-- ==== Sys2Proof/Machine/VInt.lean ====
section
/-! DEFINITION. Integer vector instructions: major VINT (R275 to R277). -/

namespace Sys2Proof.Machine

/-- An element by the signedness of its type. -/
def valW (w : Nat) (sg : Bool) (x : Nat) : Int := if sg then sval w x else (x : Int)

/-- Less-than by signedness. -/
def lessW (w : Nat) (sg : Bool) (x y : Nat) : Bool := decide (valW w sg x < valW w sg y)

/-- An exact value clamped to the range of a type (R276). -/
def clampW (w : Nat) (sg : Bool) (z : Int) : Nat :=
  let lo : Int := if sg then -(2 ^ (w - 1) : Nat) else 0
  let hi : Int := if sg then (2 ^ (w - 1) : Nat) - 1 else (2 ^ w : Nat) - 1
  wrap w (max lo (min hi z))

/-- The high w bits of the exact product (R276). -/
def mulHighW (w : Nat) (sg : Bool) (x y : Nat) : Nat :=
  wrap w (valW w sg x * valW w sg y / (2 ^ w : Nat))

/-- The quotient, all ones for B = 0 (R277). -/
def divW (w : Nat) (sg : Bool) (x y : Nat) : Nat :=
  if y = 0 then 2 ^ w - 1 else wrap w ((valW w sg x).tdiv (valW w sg y))

/-- The remainder, A for B = 0 (R277). -/
def remW (w : Nat) (sg : Bool) (x y : Nat) : Nat :=
  if y = 0 then x else wrap w ((valW w sg x).tmod (valW w sg y))

/-- The checks of a VINT word (R226, R271). -/
def State.vintChecks (s : State) (d a : Reg) (b : VSrc) : Except Halt Unit :=
  s.vstd [d.toNat, a.toNat] (srcSpan b (vtGroup s.hart.csr.vt)) (typeInt s.etype && srcMatches b s.etype)

/-- An elementwise VINT instruction: f of width, signedness, A and B (R276). -/
def vint (f : Nat → Bool → Nat → Nat → Nat) (w : IWord) (d a : Reg) (b : VSrc) (k : KReg) (s : State) :
    Host.Outcome State Fault Refusal :=
  s.enter .viq w (s.srcOps b) (s.vintChecks d a b) fun t =>
    let sc := t.qop 0 (t.srcScalar b)
    let sg := typeSigned (vtType t.qvt)
    .ok (t.elementwise d t.qw k fun i => f t.qw sg (t.elem a.toNat t.qw i) (t.srcElem b sc i))

/-- vadd: the sum mod 2^w (R276). -/
def execVadd (d a : Reg) (b : VSrc) (k : KReg) (s : State) : Host.Outcome State Fault Refusal :=
  vint (fun w _ x y => (x + y) % 2 ^ w) (encode (.vadd d a b k)) d a b k s

/-- vsub: the difference mod 2^w (R276). -/
def execVsub (d a : Reg) (b : VSrc) (k : KReg) (s : State) : Host.Outcome State Fault Refusal :=
  vint (fun w _ x y => wrap w ((x : Int) - y)) (encode (.vsub d a b k)) d a b k s

/-- vmul: the low w bits of the product (R276). -/
def execVmul (d a : Reg) (b : VSrc) (k : KReg) (s : State) : Host.Outcome State Fault Refusal :=
  vint (fun w _ x y => x * y % 2 ^ w) (encode (.vmul d a b k)) d a b k s

/-- vmulh: the high w bits of the exact product (R276). -/
def execVmulh (d a : Reg) (b : VSrc) (k : KReg) (s : State) : Host.Outcome State Fault Refusal :=
  vint mulHighW (encode (.vmulh d a b k)) d a b k s

/-- vdiv: the quotient toward zero (R276, R277). -/
def execVdiv (d a : Reg) (b : VSrc) (k : KReg) (s : State) : Host.Outcome State Fault Refusal :=
  vint divW (encode (.vdiv d a b k)) d a b k s

/-- vrem: the remainder with the sign of the dividend (R276, R277). -/
def execVrem (d a : Reg) (b : VSrc) (k : KReg) (s : State) : Host.Outcome State Fault Refusal :=
  vint remW (encode (.vrem d a b k)) d a b k s

/-- vand: bitwise and (R276). -/
def execVand (d a : Reg) (b : VSrc) (k : KReg) (s : State) : Host.Outcome State Fault Refusal :=
  vint (fun _ _ x y => x &&& y) (encode (.vand d a b k)) d a b k s

/-- vor: bitwise or (R276). -/
def execVor (d a : Reg) (b : VSrc) (k : KReg) (s : State) : Host.Outcome State Fault Refusal :=
  vint (fun _ _ x y => x ||| y) (encode (.vor d a b k)) d a b k s

/-- vxor: bitwise exclusive or (R276). -/
def execVxor (d a : Reg) (b : VSrc) (k : KReg) (s : State) : Host.Outcome State Fault Refusal :=
  vint (fun _ _ x y => x ^^^ y) (encode (.vxor d a b k)) d a b k s

/-- vsll: a left shift by B mod w (R276). -/
def execVsll (d a : Reg) (b : VSrc) (k : KReg) (s : State) : Host.Outcome State Fault Refusal :=
  vint (fun w _ x y => x * 2 ^ (y % w) % 2 ^ w) (encode (.vsll d a b k)) d a b k s

/-- vsrl: a logical right shift by B mod w (R276). -/
def execVsrl (d a : Reg) (b : VSrc) (k : KReg) (s : State) : Host.Outcome State Fault Refusal :=
  vint (fun w _ x y => x / 2 ^ (y % w)) (encode (.vsrl d a b k)) d a b k s

/-- vsra: an arithmetic right shift by B mod w (R276). -/
def execVsra (d a : Reg) (b : VSrc) (k : KReg) (s : State) : Host.Outcome State Fault Refusal :=
  vint (fun w _ x y => wrap w (sval w x / (2 ^ (y % w) : Nat))) (encode (.vsra d a b k)) d a b k s

/-- vmin: the minimum by the type's signedness (R276). -/
def execVmin (d a : Reg) (b : VSrc) (k : KReg) (s : State) : Host.Outcome State Fault Refusal :=
  vint (fun w sg x y => if lessW w sg y x then y else x) (encode (.vmin d a b k)) d a b k s

/-- vmax: the maximum by the type's signedness (R276). -/
def execVmax (d a : Reg) (b : VSrc) (k : KReg) (s : State) : Host.Outcome State Fault Refusal :=
  vint (fun w sg x y => if lessW w sg x y then y else x) (encode (.vmax d a b k)) d a b k s

/-- vsadd: the sum clamped to the type's range (R276). -/
def execVsadd (d a : Reg) (b : VSrc) (k : KReg) (s : State) : Host.Outcome State Fault Refusal :=
  vint (fun w sg x y => clampW w sg (valW w sg x + valW w sg y)) (encode (.vsadd d a b k)) d a b k s

/-- vssub: the difference clamped to the type's range (R276). -/
def execVssub (d a : Reg) (b : VSrc) (k : KReg) (s : State) : Host.Outcome State Fault Refusal :=
  vint (fun w sg x y => clampW w sg (valW w sg x - valW w sg y)) (encode (.vssub d a b k)) d a b k s

/-- vmerge: k selects B or A, and every element is written (R276). -/
def execVmerge (d a : Reg) (b : VSrc) (k : KReg) (s : State) : Host.Outcome State Fault Refusal :=
  s.enter .viq (encode (.vmerge d a b k)) (s.srcOps b) (s.vintChecks d a b) fun t =>
    let sc := t.qop 0 (t.srcScalar b)
    .ok (t.elementwise d t.qw 0 fun i =>
      if t.active k i then t.srcElem b sc i else t.elem a.toNat t.qw i)

/-- vmv: A (R276). -/
def execVmv (d a : Reg) (k : KReg) (s : State) : Host.Outcome State Fault Refusal :=
  s.enter .viq (encode (.vmv d a k)) [] (s.vstd [d.toNat, a.toNat] [] (typeInt s.etype)) fun t =>
    .ok (t.elementwise d t.qw k fun i => t.elem a.toNat t.qw i)

end Sys2Proof.Machine
end

