-- ==== Sys2Proof/Machine/VPerm.lean ====
section
/-! DEFINITION. Permutes, reductions and scans: major VPERM (R274, R282 to R285). -/

namespace Sys2Proof.Machine

/-- The types VPERM accepts: all but the bit planes (R226). -/
def permType (e : Nat) : Bool := decide (e ≤ 15)

/-- The checks of a VPERM word (R282, R284). -/
def State.permChecks (s : State) (fields : List Nat) (b : VSrc) (xOk : Bool) : Except Halt Unit :=
  s.vstd fields (srcSpan b (vtGroup s.hart.csr.vt)) (permType s.etype && (xOk || srcMatches b s.etype))

/-- The unsigned scalar of a permute's second source: x[b], the constant, or v[b].e[0] (R282). -/
def State.permScalar (s : State) (b : VSrc) (sc : Word) : Nat :=
  match b with
  | .vv r => s.elem r.toNat s.qw 0
  | .vx _ => sc.toNat
  | .vi c => c.toNat
  | .vf _ => sc.toNat

/-- A permute (R282): f gives element i, or none where it is unchanged. An element is copied with all of its bits, those
above an E3M2 or E2M3 code too (R145; DESIGN CHOICE, assumption log 96). -/
def perm (f : State → Nat → Nat → Option Nat) (w : IWord) (d a : Reg) (b : VSrc) (k : KReg) (s : State) :
    Host.Outcome State Fault Refusal :=
  s.enter .viq w (s.srcOps b) (s.permChecks [d.toNat, a.toNat] b false) fun t =>
    let v := t.permScalar b (t.qop 0 (t.srcScalar b))
    .ok (t.whole d t.qvl fun i =>
      let old := t.elem d.toNat t.qw i
      if t.active k i then (f t v i).getD old else old)

/-- vshup (R282). -/
def execVshup (d a : Reg) (b : VSrc) (k : KReg) (s : State) : Host.Outcome State Fault Refusal :=
  perm (fun t v i => if v ≤ i then some (t.elem a.toNat t.qw (i - v)) else none)
    (encode (.vshup d a b k)) d a b k s

/-- vshdn (R282). -/
def execVshdn (d a : Reg) (b : VSrc) (k : KReg) (s : State) : Host.Outcome State Fault Refusal :=
  perm (fun t v i => some (if i + v < t.qvl then t.elem a.toNat t.qw (i + v) else 0))
    (encode (.vshdn d a b k)) d a b k s

/-- vpick (R282). -/
def execVpick (d a b : Reg) (k : KReg) (s : State) : Host.Outcome State Fault Refusal :=
  perm (fun t _ i =>
      let j := t.elem b.toNat t.qw i
      some (if j < t.qvl then t.elem a.toNat t.qw j else 0))
    (encode (.vpick d a b k)) d a (.vv b) k s

/-- vrev (R282). -/
def execVrev (d a : Reg) (k : KReg) (s : State) : Host.Outcome State Fault Refusal :=
  perm (fun t _ i => some (t.elem a.toNat t.qw (t.qvl - 1 - i)))
    (encode (.vrev d a k)) d a (.vi 0) k s

/-- vbcast (R282): the index is x[b][w−1:0] or v[b].e[0]. -/
def execVbcast (d a : Reg) (b : VSrc) (k : KReg) (s : State) : Host.Outcome State Fault Refusal :=
  perm (fun t v _ =>
      let j := v % 2 ^ t.qw
      some (if j < t.qvl then t.elem a.toNat t.qw j else 0))
    (encode (.vbcast d a b k)) d a b k s

/-- vinsx (R282). -/
def execVinsx (d a : Reg) (b : VSrc) (k : KReg) (s : State) : Host.Outcome State Fault Refusal :=
  perm (fun t v i => some (if i = 0 then v % 2 ^ t.qw else t.elem a.toNat t.qw (i - 1)))
    (encode (.vinsx d a b k)) d a b k s

/-- The active element numbers below n, ascending. -/
def State.activeList (s : State) (k : KReg) (n : Nat) : List Nat :=
  (List.range n).filter fun i => s.active k i

/-- vcondense: k selects; every element below VL is written (R282). -/
def execVcondense (d a : Reg) (k : KReg) (s : State) : Host.Outcome State Fault Refusal :=
  s.enter .viq (encode (.vcondense d a k)) [] (s.permChecks [d.toNat, a.toNat] (.vi 0) false) fun t =>
    let l := t.activeList k t.qvl
    .ok (t.whole d t.qvl fun i =>
      match l[i]? with
      | some j => t.elem a.toNat t.qw j
      | none => 0)

/-- vextx: the element of index x[b] below VL, or 0; the front end waits for it (R40, R283). -/
def execVextx (d a b : Reg) (s : State) : Host.Outcome State Fault Refusal :=
  s.enterWait .viq (encode (.vextx d a b)) [s.x b] (s.permChecks [a.toNat] (.vx b) true) fun t =>
    let i := (t.qop 0 (t.x b)).toNat
    let v := if i < t.qvl then t.elem a.toNat t.qw i else 0
    .ok (t.wholeX d (if typeSigned (vtType t.qvt) then sext64 t.qw v else BitVec.ofNat 64 v))

/-! ### Reductions and scans (R284, R285) -/

/-- How two values combine. -/
inductive Combine where
  | sum | max | min
deriving DecidableEq, Repr

/-- One combination under an element type and FCSR.RM, with its flags (R284). -/
def Combine.apply (c : Combine) (e : Nat) (rm : Rm) (x y : Nat) : Rounded :=
  let w := typeWidth e
  if typeFloat e then
    let f := ffmt e
    let m := 2 ^ (f.low + 1)
    match c with
    | .sum => f.result rm (Num.add rm (f.decode (x % m)) (f.decode (y % m)))
    | .max => f.minmax true (x % m) (y % m)
    | .min => f.minmax false (x % m) (y % m)
  else
    let sg := typeSigned e
    match c with
    | .sum => ⟨(x + y) % 2 ^ w, 0⟩
    | .max => ⟨if lessW w sg x y then y else x, 0⟩
    | .min => ⟨if lessW w sg y x then y else x, 0⟩

/-- Values combined with a seed strictly in order; flags are ORed. With no value the seed's bits are the result, those
above an E3M2 or E2M3 code too (R145, R284; DESIGN CHOICE, assumption log 96). -/
def foldCombine (op : Nat → Nat → Rounded) (seed : Rounded) (l : List Nat) : Rounded :=
  l.foldl (fun a v => let r := op a.code v; ⟨r.code, a.flags ||| r.flags⟩) seed

/-- Values combined pairwise in an order the device chooses (R284): a free value picks each pair. -/
def anyCombine (op : Nat → Nat → Rounded) (order : Nat → Nat) : Nat → List Nat → BitVec 8 → Rounded
  | 0, l, fl => ⟨l.headD 0, fl⟩
  | n + 1, l, fl =>
    match l with
    | [] => ⟨0, fl⟩
    | [x] => ⟨x, fl⟩
    | x :: y :: t =>
      let l' := x :: y :: t
      let i := order (2 * n) % l'.length
      let rest := l'.eraseIdx i
      let j := order (2 * n + 1) % rest.length
      let r := op (l'.getD i 0) (rest.getD j 0)
      anyCombine op order n (r.code :: rest.eraseIdx j) (fl ||| r.flags)

/-- The checks of a reduction or scan (R284); under DET a cause of its own (R274). -/
def State.reduceChecks (s : State) (d a b : Reg) (det : Option Cause) (w : IWord) : Except Halt Unit := do
  s.permChecks [d.toNat, a.toNat, b.toNat] (.vi 0) false
  match det with
  | some c => need (s.hart.csr.det = false) c (wordVal w)
  | none => .ok ()

/-- A whole instruction over P elements with flags; nothing at VL = 0 (R284). -/
def State.wholeF (s : State) (d : Reg) (P : Nat) (fl : BitVec 8) (f : Nat → Nat) : Ran :=
  if s.qvl = 0 then .done (s.setVstart 0) else (s.raiseFlags fl).whole d P f

/-- The active elements among some numbers. -/
def State.activeElems (s : State) (a : Reg) (k : KReg) (l : List Nat) : List Nat :=
  (l.filter fun i => s.active k i).map fun i => s.elem a.toNat s.qw i

/-- A reduction to element 0 in ascending order, or in any where the result does not depend on it. -/
def reduce (c : Combine) (w : IWord) (d a b : Reg) (k : KReg) (s : State) :
    Host.Outcome State Fault Refusal :=
  s.enter .viq w [] (s.reduceChecks d a b none w) fun t =>
    let r := foldCombine (c.apply (vtType t.qvt) t.rm) ⟨t.elem b.toNat t.qw 0, 0⟩
      (t.activeElems a k (List.range t.qvl))
    .ok (t.wholeF d 1 r.flags fun _ => r.code)

/-- vredsum.o (R284). -/
def execVredsumO (d a b : Reg) (k : KReg) (s : State) : Host.Outcome State Fault Refusal :=
  reduce .sum (encode (.vredsumO d a b k)) d a b k s

/-- vredmax (R284). -/
def execVredmax (d a b : Reg) (k : KReg) (s : State) : Host.Outcome State Fault Refusal :=
  reduce .max (encode (.vredmax d a b k)) d a b k s

/-- vredmin (R284). -/
def execVredmin (d a b : Reg) (k : KReg) (s : State) : Host.Outcome State Fault Refusal :=
  reduce .min (encode (.vredmin d a b k)) d a b k s

/-- vredsum: an order the device chooses; 0x280 under DET (R274, R284). -/
def execVredsum (d a b : Reg) (k : KReg) (s : State) : Host.Outcome State Fault Refusal :=
  let w := encode (.vredsum d a b k)
  s.enter .viq w [] (s.reduceChecks d a b (some 0x280) w) fun t =>
    let l := t.elem b.toNat t.qw 0 :: t.activeElems a k (List.range t.qvl)
    let r := anyCombine (Combine.sum.apply (vtType t.qvt) t.rm) (Config.freeOrder t.free) l.length l 0
    .ok (t.wholeF d 1 r.flags fun _ => r.code)

/-- The segment length of vsegred.o: 2^(SHAPE − 1), or VL for SHAPE 0 (R285). -/
def segLength (vt : BitVec 16) (vl : Nat) : Nat :=
  if vtShape vt = 0 then max 1 vl else 2 ^ (vtShape vt - 1)

/-- vsegred.o (R285). -/
def execVsegredO (d a b : Reg) (k : KReg) (s : State) : Host.Outcome State Fault Refusal :=
  let w := encode (.vsegredO d a b k)
  s.enter .viq w [] (s.reduceChecks d a b none w) fun t =>
    let L := segLength t.qvt t.qvl
    let n := (t.qvl + L - 1) / L
    let r (g : Nat) := foldCombine (Combine.sum.apply (vtType t.qvt) t.rm) ⟨t.elem b.toNat t.qw g, 0⟩
      (t.activeElems a k ((List.range (min L (t.qvl - g * L))).map (g * L + ·)))
    .ok (t.wholeF d n ((List.range n).foldl (fun (z : BitVec 8) g => z ||| (r g).flags) 0) fun g => (r g).code)

/-- A scan in ascending order: the running values, one for each active element (R284). -/
def scanList (op : Nat → Nat → Rounded) : Nat → List (Nat × Nat) → List (Nat × Rounded)
  | _, [] => []
  | acc, (i, v) :: t => let r := op acc v; (i, r) :: scanList op r.code t

/-- The results of a scan written at the active elements. -/
def State.scanWrite (s : State) (d : Reg) (l : List (Nat × Rounded)) : Ran :=
  s.wholeF d s.qvl (l.foldl (fun (z : BitVec 8) p => z ||| p.2.flags) 0) fun i =>
    match tget l i with
    | some r => r.code
    | none => s.elem d.toNat s.qw i

/-- The active elements with their numbers. -/
def State.activePairs (s : State) (a : Reg) (k : KReg) (n : Nat) : List (Nat × Nat) :=
  (s.activeList k n).map fun i => (i, s.elem a.toNat s.qw i)

/-- An ordered inclusive scan (R284). -/
def scan (c : Combine) (w : IWord) (d a b : Reg) (k : KReg) (s : State) :
    Host.Outcome State Fault Refusal :=
  s.enter .viq w [] (s.reduceChecks d a b none w) fun t =>
    .ok (t.scanWrite d (scanList (c.apply (vtType t.qvt) t.rm) (t.elem b.toNat t.qw 0)
      (t.activePairs a k t.qvl)))

/-- vscan.o (R284). -/
def execVscanO (d a b : Reg) (k : KReg) (s : State) : Host.Outcome State Fault Refusal :=
  scan .sum (encode (.vscanO d a b k)) d a b k s

/-- vscanmax (R284). -/
def execVscanmax (d a b : Reg) (k : KReg) (s : State) : Host.Outcome State Fault Refusal :=
  scan .max (encode (.vscanmax d a b k)) d a b k s

/-- vscan: each sum in an order the device chooses; 0x281 under DET (R274, R284). -/
def execVscan (d a b : Reg) (k : KReg) (s : State) : Host.Outcome State Fault Refusal :=
  let w := encode (.vscan d a b k)
  s.enter .viq w [] (s.reduceChecks d a b (some 0x281) w) fun t =>
    let seed := t.elem b.toNat t.qw 0
    .ok (t.scanWrite d ((t.activeList k t.qvl).map fun i =>
      let l := seed :: t.activeElems a k (List.range (i + 1))
      (i, anyCombine (Combine.sum.apply (vtType t.qvt) t.rm)
        (fun n => Config.freeOrder t.free (i * 2 ^ 18 + n)) l.length l 0)))

end Sys2Proof.Machine
end

