-- ==== Sys2Proof/Machine/CopyEngine.lean ====
section
/-! DEFINITION. The copy engine (R90, R346 to R351): commands and their checks at issue, their payload,
completion words, engine faults and the journal (R381), re-graining (R101, R415) and collectives
(R350). -/

namespace Sys2Proof.Machine

/-! ### Ranges -/

/-- A range cut at 4 KiB boundaries of its addresses: offsets and byte counts. -/
def chunks (va : Word) (n : Nat) : List (Nat × Nat) :=
  let o := va.toNat % 4096
  if n = 0 then []
  else (List.range ((o + n + 4095) / 4096)).map fun i =>
    (i * 4096 - o, min n ((i + 1) * 4096 - o) - (i * 4096 - o))

/-- The address of a chunk. -/
def chunkVa (va : Word) (c : Nat × Nat) : Word := va + BitVec.ofNat 64 c.1

/-- One chunk of a range as its scalar accesses would be checked (R243, R346): the window's bound,
translation, and a SEQ page as a destination. A MIGRATING page holds the command, not its issue. -/
def State.chunkTarget (s : State) (kind : Kind) (va : Word) (n : Nat) : Except Halt (Target × State) := do
  if inWindow va then
    let o := windowOffset va
    need (o + n ≤ s.hart.bounds.scratch) 0x082 (BitVec.ofNat 64 (max o s.hart.bounds.scratch))
    return (.window o, s)
  else
    let (t, s1) ← s.xlat kind va
    need (kind = .read ∨ t.seq = false) 0x1C0 va
    return (.phys t, s1)

/-- The chunks of a range checked in order. -/
def State.checkChunks (s : State) (kind : Kind) (va : Word) : List (Nat × Nat) → Except Halt State
  | [] => .ok s
  | c :: l => do
    let (_, s1) ← s.chunkTarget kind (chunkVa va c) c.2
    s1.checkChunks kind va l

/-- A range a command reads or writes, checked at issue (R346). -/
def State.checkRange (s : State) (kind : Kind) (va : Word) (n : Nat) : Except Halt State :=
  s.checkChunks kind va (chunks va n)

/-- A record of 16 bytes, aligned to 8 (R346). -/
def State.checkRecord (s : State) (va : Word) : Except Halt State := do
  need (va.toNat % 8 = 0) 0x0C8 va
  s.checkRange .write va 16

/-- A park of a chunk holds the command (R412). -/
def holdPark (t : Target) (va : Word) : Except Halt Unit :=
  if t.parks then .error (.wait (.parked va false)) else .ok ()

/-- Bytes read on the CPY path: L2, which takes what it missed, the scratchpad or the sequence agent, never L1 (R81,
R93, R113); a host window under CACHE 2 at the host (R411). -/
def State.cpyRead (s : State) (n : Nat) (t : Target) : Except Halt (List Byte × State) :=
  match t with
  | .window o => do
    let bs ← s.scrRead o n
    return (bs, s)
  | .phys x =>
    if x.seq && !x.lnk then do
      let bs ← s.seqBytes x.pa n
      return (bs, s)
    else do
      let u := s.hostCopy x n
      let bs ← u.l2Read x.gran x.pa n
      return (bs, u.l2Take x x.pa n)

/-- Bytes written on the CPY path. -/
def State.cpyWrite (s : State) (t : Target) (bs : List Byte) : State :=
  match t with
  | .window o => s.scrWrite o bs
  | .phys x => ((s.hostCopy x bs.length).l2WriteAt x.gran x.pa bs).hostCopy x bs.length

/-- The chunks of a range read in order. -/
def State.readChunks (s : State) (va : Word) : List (Nat × Nat) → Except Halt (List Byte × State)
  | [] => .ok ([], s)
  | c :: l => do
    let (t, s1) ← s.chunkTarget .read (chunkVa va c) c.2
    holdPark t (chunkVa va c)
    let (bs, s') ← s1.cpyRead c.2 t
    let (rest, s2) ← s'.readChunks va l
    return (bs ++ rest, s2)

/-- A range read by a command. -/
def State.readRange (s : State) (va : Word) (n : Nat) : Except Halt (List Byte × State) :=
  s.readChunks va (chunks va n)

/-- The chunks of a range written in order, from an offset on. -/
def State.writeChunks (s : State) (va : Word) (bs : List Byte) (from_ : Nat) :
    List (Nat × Nat) → Except Halt State
  | [] => .ok s
  | c :: l => do
    let skip := from_ - c.1
    if c.2 ≤ skip then s.writeChunks va bs from_ l
    else
      let a := chunkVa va (c.1 + skip, 0)
      let (t, s1) ← s.chunkTarget .write a (c.2 - skip)
      holdPark t a
      (s1.cpyWrite t ((bs.drop (c.1 + skip)).take (c.2 - skip))).writeChunks va bs from_ l

/-- A range written by a command, from its completed byte offset on (R381). -/
def State.writeRange (s : State) (va : Word) (bs : List Byte) (from_ : Nat) : Except Halt State :=
  s.writeChunks va bs from_ (chunks va bs.length)

/-! ### Commands -/

/-- A captured operand: d, a, b, m5, e (R381). -/
def CopyCmd.op (c : CopyCmd) (j : Nat) : Word := c.ops.getD j 0

/-- The completion offset (R347, R348). -/
def CopyCmd.cwOffset (c : CopyCmd) : Word :=
  match copyKind c.word with
  | .cpy => c.op 3
  | .gather => c.op 3
  | .copyx => c.op 2
  | .sum => c.op 3
  | .coll => c.op 2

/-- The completion value (R347, R348). -/
def CopyCmd.cwValue (c : CopyCmd) : Word :=
  match copyKind c.word with
  | .cpy => c.op 4
  | .gather => c.op 4
  | .copyx => c.op 3
  | .sum => c.op 0
  | .coll => c.op 3

/-- The offset that names no completion word (R346). -/
def noCompletion : Word := BitVec.allOnes 64

/-- The checks of a completion offset (R90, R346). -/
def State.checkCompletion (s : State) (off : Word) : Except Halt Unit := do
  need (off = noCompletion ∨ off.toNat % 8 = 0) 0x0C8 off
  need (off = noCompletion ∨ off.toNat < s.hart.bounds.scratch) 0x082 off

/-- A byte count a register may hold (R346). -/
def checkCount (n : Word) : Except Halt Unit := need (n.toNat ≤ 2 ^ 40) 0x20D n

/-- A 64-byte descriptor read as scalar loads (R346). -/
def State.readDesc (s : State) (va : Word) : List Nat → Except Halt (List Byte × State)
  | [] => .ok ([], s)
  | i :: l => do
    let (v, s1) ← s.load .normal (va + BitVec.ofNat 64 (8 * i)) 8
    let (bs, s2) ← s1.readDesc va l
    return (valBytes 8 v ++ bs, s2)

/-- Bytes lo to lo + n − 1 of a descriptor as a number. -/
def descField (d : List Byte) (lo n : Nat) : Nat := bytesVal ((d.drop lo).take n)

/-- The same as an address. -/
def descAddr (d : List Byte) (lo : Nat) : Word := BitVec.ofNat 64 (descField d lo 8)

/-- What a command brings to its queue: the descriptor, CLEN, the bytes of a block, and the ranges that it
names. -/
structure Issue where
  desc   : List Byte
  clen   : Nat
  block  : Nat
  ranges : List (Word × Nat)

/-- Whether some named range has bytes that a property of their translation picks out. -/
def State.rangesTouch (s : State) (f : Xlat → Bool) (l : List (Word × Nat)) : Bool :=
  l.any fun r => (chunks r.1 r.2).any fun c => match s.chunkTarget .read (chunkVa r.1 c) c.2 with
    | .ok (.phys t, _) => f t
    | .ok (.window _, _) => false
    | .error _ => false

/-- A command placed in the copy queue: the front end stops while the queue is full (R346). -/
def copyIssue (w : IWord) (ops : List Word) (s : State)
    (checks : State → Except Halt (Issue × State)) : Host.Outcome State Fault Refusal :=
  commit s (do
    if 16 ≤ s.hart.copyq.length then .error (.wait .copyRoom)
    else
      let (i, t) ← checks s
      let c : CopyCmd := ⟨.queued, w, ops, i.desc, i.clen, i.block, s.time, t.rangesTouch (·.lnk) i.ranges,
        t.rangesTouch (·.seq) i.ranges, none, [], 0⟩
      return ({ t with hart := { t.hart with copyq := t.hart.copyq ++ [c], journal := [] } } : State).advance)

/-- cpy (R346, R347). -/
def execCpy (d a b m e : Reg) (s : State) : Host.Outcome State Fault Refusal :=
  copyIssue (encode (.cpy d a b m e)) [s.x d, s.x a, s.x b, s.x m, s.x e] s fun t => do
    checkCount (t.x b)
    t.checkCompletion (t.x m)
    let t1 ← t.checkRange .read (t.x a) (t.x b).toNat
    let t2 ← t1.checkRange .write (t.x d) (t.x b).toNat
    return (⟨[], 0, 0, [(t.x a, (t.x b).toNat), (t.x d, (t.x b).toNat)]⟩, t2)

/-- The block count a gather's operand holds (R347). -/
def gatherCount (v : Word) : Nat := bits v.toNat 32 7

/-- cpy.g (R346, R347): the handle is validated, and CLEN read, at issue. -/
def execCpyG (d a b m e : Reg) (s : State) : Host.Outcome State Fault Refusal :=
  copyIssue (encode (.cpyG d a b m e)) [s.x d, s.x a, s.x b, s.x m, s.x e] s fun t => do
    let v := t.x b
    let n := gatherCount v
    need (1 ≤ n ∧ n ≤ 64 ∧ bits v.toNat 39 25 = 0) 0x20D v
    t.checkCompletion (t.x m)
    let (_, q) ← t.seqOf (v.setWidth 32)
    let t1 ← t.checkRange .read (t.x a) (4 * n)
    let t2 ← t1.checkRange .write (t.x d) (n * (16 * q.slotSize))
    return (⟨[], q.clen, 16 * q.slotSize, [(t.x a, 4 * n), (t.x d, n * (16 * q.slotSize))]⟩, t2)

/-! ### cpy.x (R349) -/

/-- The fields of a cpy.x descriptor. -/
structure CopyX where
  src     : Word
  dst     : Word
  rowb    : Nat
  rows    : Nat
  sstride : Word
  dstride : Word
  flags   : Word
  record  : Word
  rest    : Word
deriving DecidableEq, Repr

/-- A cpy.x descriptor read from its bytes (R349). -/
def CopyX.of (d : List Byte) : CopyX where
  src := descAddr d 0
  dst := descAddr d 8
  rowb := descField d 16 4
  rows := descField d 20 4
  sstride := descAddr d 24
  dstride := descAddr d 32
  flags := descAddr d 40
  record := descAddr d 48
  rest := descAddr d 56

/-- REGRAN. -/
def CopyX.regran (x : CopyX) : Bool := x.flags.getLsbD 0

/-- The source and the destination of row r. -/
def CopyX.srcRow (x : CopyX) (r : Nat) : Word := x.src + BitVec.ofNat 64 r * x.sstride

/-- The destination of row r. -/
def CopyX.dstRow (x : CopyX) (r : Nat) : Word := x.dst + BitVec.ofNat 64 r * x.dstride

/-- Whether a range covers whole pages of the scalar walk (R349): the local window has none; a page that cannot
be translated is left to its own check. -/
def State.wholePages (s : State) : Nat → Word → Nat → Bool
  | 0, _, n => n == 0
  | fuel + 1, va, n =>
    if n = 0 then true
    else if inWindow va then false
    else match s.leaf va with
      | .error _ => true
      | .ok (e, _) =>
        let p := pageBytes (bits e 52 4)
        decide (va.toNat % p = 0 ∧ p ≤ n) && s.wholePages fuel (va + BitVec.ofNat 64 p) (n - p)

/-- Check 4 of cpy.x (R346, R349). -/
def State.checkCopyX (s : State) (va : Word) (x : CopyX) : Except Halt Unit := do
  need (x.regran = false ∨ s.hart.trap.priv) 0x20E va
  need (x.rest = 0 ∧ bits x.flags.toNat 6 58 = 0 ∧ bits x.flags.toNat 3 2 ≠ 3) 0x20D va
  need (x.regran = false ∨ (x.src = x.dst ∧ x.rows = 1 ∧ s.wholePages (chunks x.src x.rowb).length x.src x.rowb))
    0x20D va

/-- The rows of one direction checked in order. -/
def State.checkRows (s : State) (kind : Kind) (n : Nat) : List Word → Except Halt State
  | [] => .ok s
  | a :: l => do
    let t ← s.checkRange kind a n
    t.checkRows kind n l

/-- cpy.x (R346, R349). -/
def execCpyX (a b m : Reg) (s : State) : Host.Outcome State Fault Refusal :=
  copyIssue (encode (.cpyX a b m)) [0, s.x a, s.x b, s.x m, 0] s fun t => do
    t.checkCompletion (t.x b)
    let va := t.x a
    need (va.toNat % 8 = 0) 0x0C8 va
    let (d, t1) ← t.readDesc va (List.range 8)
    let x := CopyX.of d
    t1.checkCopyX va x
    let t2 ← t1.checkRows .read x.rowb ((List.range x.rows).map x.srcRow)
    let t3 ← t2.checkRows .write x.rowb ((List.range x.rows).map x.dstRow)
    let t4 ← if x.record = 0 then .ok t3 else t3.checkRecord x.record
    let rows := (List.range x.rows).flatMap fun r => [(x.srcRow r, x.rowb), (x.dstRow r, x.rowb)]
    return (⟨d, 0, 0, (x.record, if x.record = 0 then 0 else 16) :: rows⟩, t4)

/-- cpy.sum (R346, R348). -/
def execCpySum (d a b m : Reg) (s : State) : Host.Outcome State Fault Refusal :=
  copyIssue (encode (.cpySum d a b m)) [s.x d, s.x a, s.x b, s.x m, 0] s fun t => do
    checkCount (t.x b)
    t.checkCompletion (t.x m)
    let t1 ← t.checkRange .read (t.x a) (t.x b).toNat
    let t2 ← t1.checkRecord (t.x d)
    return (⟨[], 0, 0, [(t.x a, (t.x b).toNat), (t.x d, 16)]⟩, t2)

/-! ### coll (R350) -/

/-- The fields of a coll descriptor. -/
structure Coll where
  ctl    : Word
  count  : Nat
  src    : Word
  dst    : Word
  group  : Word
  nrank  : Nat
  myrank : Nat
  peer   : Nat
  record : Word
  resv   : Nat
deriving DecidableEq, Repr

/-- A coll descriptor read from its bytes (R350). -/
def Coll.of (d : List Byte) : Coll where
  ctl := descAddr d 0
  count := descField d 8 8
  src := descAddr d 16
  dst := descAddr d 24
  group := descAddr d 32
  nrank := descField d 40 2
  myrank := descField d 42 2
  peer := descField d 44 2
  record := descAddr d 48
  resv := descField d 46 2 + descField d 56 8

/-- CTL.OP. -/
def Coll.op (c : Coll) : Nat := bits c.ctl.toNat 0 4

/-- CTL.TYPE. -/
def Coll.type (c : Coll) : Nat := bits c.ctl.toNat 4 4

/-- CTL.ROP. -/
def Coll.rop (c : Coll) : Nat := bits c.ctl.toNat 8 4

/-- CTL.ORDERED. -/
def Coll.ordered (c : Coll) : Bool := c.ctl.getLsbD 12

/-- The bytes of an element. -/
def Coll.esize (c : Coll) : Nat := if c.type = 1 then 2 else 4

/-- Whether an operation combines elements. -/
def Coll.reduces (c : Coll) : Bool := c.op == 0 || c.op == 2

/-- The elements a rank gives (R350). -/
def Coll.srcCount (c : Coll) : Nat :=
  match c.op with
  | 2 => c.nrank * c.count
  | 4 => 0
  | _ => c.count

/-- The elements a rank receives (R350). -/
def Coll.dstCount (c : Coll) : Nat :=
  match c.op with
  | 1 => c.nrank * c.count
  | 3 => 0
  | _ => c.count

/-- Check 4 of coll (R346, R350). -/
def Coll.check (c : Coll) (va : Word) : Except Halt Unit :=
  need (c.op ≤ 4 ∧ c.type ≤ 3 ∧ c.rop ≤ 2 ∧ bits c.ctl.toNat 13 51 = 0 ∧ 1 ≤ c.count ∧ c.count < 2 ^ 32
    ∧ 2 ≤ c.nrank ∧ c.nrank ≤ 1024 ∧ c.myrank < c.nrank ∧ (c.op < 3 ∨ c.peer < c.nrank) ∧ c.resv = 0) 0x20D va

/-- coll (R346, R350). -/
def execColl (a b m : Reg) (s : State) : Host.Outcome State Fault Refusal :=
  let w := encode (.coll a b m)
  copyIssue w [0, s.x a, s.x b, s.x m, 0] s fun t => do
    t.checkCompletion (t.x b)
    let va := t.x a
    need (va.toNat % 8 = 0) 0x0C8 va
    let (d, t1) ← t.readDesc va (List.range 8)
    let c := Coll.of d
    c.check va
    need (c.reduces = false ∨ c.ordered ∨ t.hart.csr.det = false) 0x283 (wordVal w)
    let t2 ← t1.checkRange .read c.src (c.srcCount * c.esize)
    let t3 ← t2.checkRange .read c.group (2 * c.nrank)
    let t4 ← t3.checkRange .write c.dst (c.dstCount * c.esize)
    let t5 ← if c.record = 0 then .ok t4 else t4.checkRecord c.record
    return (⟨d, 0, 0, [(c.src, c.srcCount * c.esize), (c.group, 2 * c.nrank), (c.dst, c.dstCount * c.esize)]⟩, t5)

/-! ### Payload -/

/-- Whether an address lies in a range. -/
def inRange (a base : Word) (n : Nat) : Bool := decide ((a - base).toNat < n)

/-- cpy's payload (R347): destination bytes that overlap the source are undefined. -/
def State.doCpy (s : State) (c : CopyCmd) : Except Halt State := do
  let n := (c.op 2).toNat
  let dst := c.op 0
  let src := c.op 1
  let (bs, t) ← s.readRange src n
  let out := (List.range n).zip bs |>.map fun (i, b) =>
    if inRange (dst + BitVec.ofNat 64 i) src n then Config.freeByte s.free i else b
  let u ← t.writeRange dst out c.done
  return u.bumpFree

/-- The bytes of one gathered block (R347): slots below the length read at issue, zeros elsewhere. Once the sequence
has been freed, the bytes of its committed slots are undefined. A block in migration holds the command (R412). -/
def State.gatherBlock (s : State) (c : CopyCmd) (b : Nat) : Except Halt (List Byte) :=
  let zero (n : Nat) : List Byte := List.replicate n 0
  let vis := min 16 (c.clen - 16 * b) * (c.block / 16)
  if 65536 ≤ b then .ok (zero c.block)
  else match s.myCtx.seqOf ((c.op 2).setWidth 32) with
    | none => .ok ((List.range vis).map (fun i => Config.freeByte s.free (b * c.block + i)) ++ zero (c.block - vis))
    | some (_, q) => match tget q.blocks b with
      | none => .ok (zero c.block)
      | some pa => match s.blockParked pa with
        | some va => .error (.wait (.parked va true))
        | none => do
          let bs ← s.l2Read 3 pa vis
          return bs ++ zero (c.block - vis)

/-- The listed blocks in order. -/
def State.gatherBlocks (s : State) (c : CopyCmd) : List Nat → Except Halt (List Byte)
  | [] => .ok []
  | b :: l => do
    let x ← s.gatherBlock c b
    let xs ← s.gatherBlocks c l
    return x ++ xs

/-- cpy.g's payload (R347): the block numbers are read on the CPY path. -/
def State.doGather (s : State) (c : CopyCmd) : Except Halt State := do
  let n := gatherCount (c.op 2)
  let (list, t) ← s.readRange (c.op 1) (4 * n)
  let out ← t.gatherBlocks c ((List.range n).map fun i => bytesVal ((list.drop (4 * i)).take 4))
  let u ← t.writeRange (c.op 0) out c.done
  return u.bumpFree

/-- A record of 16 bytes written (R348 to R350). -/
def State.writeRecord (s : State) (va : Word) (lo hi : Nat) : Except Halt State :=
  s.writeRange va (valBytes 8 lo ++ valBytes 8 hi) 0

/-- Whether byte i of row r of cpy.x has no stated value (assumption log 52): a row writes its source with other
bytes, and the rule orders no read and write of the command (R107, R349); or another row writes its destination from
another source. -/
def CopyX.open_ (x : CopyX) (r i : Nat) : Bool :=
  let src := x.srcRow r + BitVec.ofNat 64 i
  let dst := x.dstRow r + BitVec.ofNat 64 i
  (List.range x.rows).any fun q =>
    (inRange src (x.dstRow q) x.rowb && x.srcRow q != x.dstRow q)
      || (inRange dst (x.dstRow q) x.rowb && x.srcRow q - x.dstRow q != x.srcRow r - x.dstRow r)

/-- Row r of cpy.x: the source bytes, free values where they are open. -/
def State.copyRow (s : State) (x : CopyX) (r : Nat) : Except Halt (List Byte × State) := do
  let (bs, t) ← s.readRange (x.srcRow r) x.rowb
  return (((List.range x.rowb).zip bs).map fun (i, b) =>
    if x.open_ r i then Config.freeByte s.free (r * x.rowb + i) else b, t)

/-- The rows of cpy.x in ascending order, with the CRC of the destination bytes (R349). Where rows give a byte different
values it is a free value in each (assumption log 52), so that no order of the rows decides it. -/
def State.copyRows (s : State) (x : CopyX) (from_ : Nat) : List Nat → BitVec 64 → Except Halt (BitVec 64 × State)
  | [], crc => .ok (crc, s)
  | r :: l, crc => do
    let (bs, t) ← s.copyRow x r
    let u ← t.writeRange (x.dstRow r) bs (from_ - r * x.rowb)
    u.copyRows x from_ l (crcFrom crc bs)

/-! ### Re-graining (R101, R415) -/

/-- The leaf entry of an address: its level, its place in memory, and the entry. -/
def State.leafPlace (s : State) (va : Word) : List Nat → Nat → Option (Nat × Nat × Nat)
  | [], _ => none
  | level :: rest, t =>
    let a := t + 8 * bits va.toNat (48 - 12 * level) 12
    let e := s.memVal a 8
    if bit e 1 then some (level, a, e) else s.leafPlace va rest (bits e 15 37 * 32768)

/-- An entry with a DGRAN and a MIG bit (R402). -/
def regrainEntry (e : Nat) (g : BitVec 2) (mig : Bool) : Nat :=
  e % 2 ^ 6 + g.toNat * 2 ^ 6 + e / 2 ^ 8 % 2 ^ 55 * 2 ^ 8 + (if mig then 2 ^ 63 else 0)

/-- The entries of a page written: its whole aligned group (R403, R415). -/
def State.regrainEntries (s : State) (level a e : Nat) (g : BitVec 2) (mig : Bool) : State :=
  let sz := bits e 52 4
  let cnt := 4 ^ (if level = 2 then sz - 6 else sz)
  let first := a / (8 * cnt) * (8 * cnt)
  (List.range cnt).foldl (fun (t : State) i =>
    let p := first + 8 * i
    t.l2WriteAt 3 p (valBytes 8 (regrainEntry (t.memVal p 8) g mig))) s

/-- Lines of a physical range carry the new granule, in L1 and in L2. -/
def State.regrainLines (s : State) (pa n : Nat) (g : BitVec 2) : State :=
  let hit (m : Nat) : Bool := decide (pa ≤ 256 * m ∧ 256 * m < pa + n)
  { s with
    l2 := s.l2.map fun (m, l) => (m, if hit m then { l with gran := granOf g (256 * m) } else l)
    cores := s.cores.map fun (i, k) => (i, { k with l1 := k.l1.map fun (m, l) =>
      (m, if hit m then { l with gran := g } else l) }) }

/-- One page marked MIGRATING (R415, step 1); a page that already is holds the command (R412). -/
def State.markPage (s : State) (va : Word) (_ : BitVec 2) : Except Halt (Nat × State) := do
  let (t, s1) ← s.xlat .rw va
  holdPark (.phys t) va
  match s1.leafPlace va [1, 2, 3] (s1.myCtx.sttb.toNat * 4096) with
  | none => return (4096, s1)
  | some (level, a, e) =>
    return (pageBytes (bits e 52 4), s1.regrainEntries level a e (BitVec.ofNat 2 (bits e 6 2)) true)

/-- One page re-grained (R415, steps 3 and 4): read under the old granule, written under the new one, its entries
updated. -/
def State.regrainPage (s : State) (va : Word) (g : BitVec 2) : Except Halt (Nat × State) := do
  let (t, s1) ← s.xlat .rw va
  match s1.leafPlace va [1, 2, 3] (s1.myCtx.sttb.toNat * 4096) with
  | none => return (4096, s1)
  | some (level, a, e) =>
    let p := pageBytes (bits e 52 4)
    let bs ← s1.l2Read t.gran t.pa p
    let s2 := (s1.l2WriteAt g t.pa bs).regrainEntries level a e g false
    return (p, s2.regrainLines t.pa p g)

/-- The pages of a range taken in order. -/
def State.overPages (s : State) (f : State → Word → BitVec 2 → Except Halt (Nat × State)) (g : BitVec 2) :
    Nat → Word → Nat → Except Halt State
  | 0, _, _ => .ok s
  | fuel + 1, va, n =>
    if n = 0 then .ok s
    else do
      let (p, t) ← f s va g
      t.overPages f g fuel (va + BitVec.ofNat 64 p) (n - p)

/-- Every hart's cached translations of a range in a context discarded (R415). -/
def State.dropRange (s : State) (ctx : Nat) (va : Word) (n : Nat) : State :=
  s.mapHarts fun h => if h.ctx = ctx then
    { h with tlb := h.tlb.filter fun t => !decide (t.va < va.toNat + n ∧ va.toNat < t.va + t.size) } else h

/-- The 4 KiB frames of a range. -/
def State.framesOf (s : State) (va : Word) (n : Nat) : List Nat :=
  (chunks va n).filterMap fun c => match s.xlat .read (chunkVa va c) with
    | .ok (t, _) => some (t.pa / 4096)
    | .error _ => none

/-- An entry whose probe read a translation of some frames translates again when it executes. -/
def QEntry.unprobe (e : QEntry) (frames : List Nat) : QEntry :=
  if (e.probe.getD []).any fun u => match u.2 with
    | .window _ => false
    | .phys t => frames.contains (t.pa / 4096)
  then { e with probe := none, data := [] } else e

/-- Steps 1 and 2 of re-graining (R415): the range's entries carry MIG and its cached translations are gone; the stores
that had translated perform, and queued accesses translate again. The command is then underway. -/
def State.startRegrain (s : State) (c : CopyCmd) (rest : List CopyCmd) : Except Halt State := do
  let x := CopyX.of c.desc
  let frames := s.framesOf x.src x.rowb
  let t ← (s.dropRange s.hart.ctx x.src x.rowb).overPages State.markPage 0 (chunks x.src x.rowb).length x.src x.rowb
  let u := ((t.dropRange t.hart.ctx x.src x.rowb).drainOf fun _ => true).mapHarts fun h =>
    { h with queue := h.queue.map fun e => e.unprobe frames }
  return { u with hart := { u.hart with copyq := { c with status := .part } :: rest } }

/-- Whether a command re-grains and has not marked its pages yet. -/
def CopyCmd.marks (c : CopyCmd) : Bool :=
  copyKind c.word == .copyx && (CopyX.of c.desc).regran && c.status == .queued

/-- cpy.x's payload (R349, R415). -/
def State.doCopyX (s : State) (c : CopyCmd) : Except Halt State := do
  let x := CopyX.of c.desc
  let n := x.rowb * x.rows
  if x.regran then
    let t := s.dropRange s.hart.ctx x.src x.rowb
    let u ← t.overPages State.regrainPage (BitVec.ofNat 2 (bits x.flags.toNat 1 2))
      (chunks x.src x.rowb).length x.src x.rowb
    let v := u.dropRange u.hart.ctx x.src x.rowb
    let (bs, v1) ← (if x.flags.getLsbD 5 then v.readRange x.src x.rowb
      else (.ok ([], v) : Except Halt (List Byte × State)))
    if x.record = 0 then return v1 else v1.writeRecord x.record (crc64 bs).toNat n
  else
    let (crc, t) ← s.copyRows x c.done (List.range x.rows) 0
    let u := t.bumpFree
    if x.record = 0 then return u
    else u.writeRecord x.record (if x.flags.getLsbD 5 then crc.toNat else 0) n

/-- cpy.sum's payload (R348). -/
def State.doSum (s : State) (c : CopyCmd) : Except Halt State := do
  let n := (c.op 2).toNat
  let (bs, t) ← s.readRange (c.op 1) n
  t.writeRecord (c.op 0) (crc64 bs).toNat n

/-! ### Collectives (R350) -/

/-- Two elements combined (R350): sums of floats by RNE, integers modulo 2^32. -/
def Coll.combine (c : Coll) (a b : Nat) : Nat :=
  match c.type with
  | 0 => (collFloat fp32 a b).code
  | 1 => (collFloat bf16 a b).code
  | t =>
    let less : Bool := if t = 2 then decide (sval 32 a < sval 32 b) else decide (a < b)
    match c.rop with
    | 0 => (a + b) % 2 ^ 32
    | 1 => if less then b else a
    | _ => if less then a else b
where
  /-- Float elements combined. -/
  collFloat (f : FFmt) (a b : Nat) : Rounded :=
    match c.rop with
    | 0 => f.result .rne (Num.add .rne (f.decode a) (f.decode b))
    | 1 => f.minmax true a b
    | _ => f.minmax false a b

/-- The elements of all ranks at one index combined: in rank order, or in an order the device chooses. -/
def Coll.combineAll (c : Coll) (free i : Nat) (l : List Nat) : Nat :=
  if c.ordered then
    match l with
    | [] => 0
    | x :: t => t.foldl c.combine x
  else (anyCombine (fun a b => ⟨c.combine a b, 0⟩) (fun n => Config.freeOrder free (i * 2 ^ 12 + n)) l.length l 0).code

/-- Element i of a rank's bytes. -/
def Coll.elemOf (c : Coll) (d : List Byte) (i : Nat) : Nat := bytesVal ((d.drop (i * c.esize)).take c.esize)

/-- The commands of the other ranks of a group, in rank order; none while one is missing (R350). -/
def State.collPeers (s : State) (c : Coll) (group : List Nat) : Option (List PeerCmd) :=
  if c.op < 3 then
    ((List.range c.nrank).filter (· ≠ c.myrank)).mapM fun r =>
      s.peers.find? fun p => p.rank == r && p.device == group.getD r 0 && decide (bits p.ctl.toNat 0 4 < 3)
  else
    (s.peers.find? fun p => p.rank == c.peer && p.device == group.getD c.peer 0
      && bits p.ctl.toNat 0 4 == 7 - c.op && p.peer == c.myrank).map fun p => [p]

/-- Whether a peer's command agrees with this rank's (R350, status 1). -/
def Coll.agrees (c : Coll) (p : PeerCmd) : Bool :=
  p.count == c.count && p.nrank == c.nrank &&
    (if c.op < 3 then p.ctl == c.ctl else p.ctl.toNat / 16 == c.ctl.toNat / 16)

/-- The data of every rank in rank order, this rank's in its place. -/
def Coll.ranksData (c : Coll) (mine : List Byte) (ps : List PeerCmd) : List (List Byte) :=
  (List.range c.nrank).map fun r =>
    if r = c.myrank then mine else ((ps.find? fun p => p.rank == r).map (·.data)).getD []

/-- The destination bytes of a collective (R350). -/
def Coll.result (c : Coll) (free : Nat) (mine : List Byte) (ps : List PeerCmd) : List Byte :=
  let all := c.ranksData mine ps
  match c.op with
  | 0 => (List.range c.count).flatMap fun i => valBytes c.esize (c.combineAll free i (all.map fun d => c.elemOf d i))
  | 1 => all.flatMap fun d => d.take (c.count * c.esize)
  | 2 => (List.range c.count).flatMap fun i =>
      valBytes c.esize (c.combineAll free i (all.map fun d => c.elemOf d (c.myrank * c.count + i)))
  | 4 => (ps.flatMap (·.data)).take (c.count * c.esize)
  | _ => []

/-- Bytes that nothing fixes, for a destination left undefined. -/
def freeBytes (free n : Nat) : List Byte := (List.range n).map (Config.freeByte free)

/-- A collective's end with a status other than success: DST is undefined (R350). -/
def State.collFail (s : State) (c : Coll) (status : Nat) : Except Halt State := do
  let t ← s.writeRange c.dst (freeBytes s.free (c.dstCount * c.esize)) 0
  let u := t.bumpFree
  if c.record = 0 then return u else u.writeRecord c.record status 0

/-- The device numbers of a group, in rank order. -/
def State.groupOf (s : State) (c : Coll) : Except Halt (List Nat × State) := do
  let (gb, t) ← s.readRange c.group (2 * c.nrank)
  return ((List.range c.nrank).map fun r => bytesVal ((gb.drop (2 * r)).take 2), t)

/-- coll's payload: it holds until every rank has issued its command (R350). -/
def State.doColl (s : State) (cmd : CopyCmd) : Except Halt State := do
  let c := Coll.of cmd.desc
  let (group, s1) ← s.groupOf c
  match s1.collPeers c group with
  | none => .error (.wait .copyDrain)
  | some ps =>
    let rest := { s1 with peers := ps.foldl (fun l p => l.erase p) s1.peers }
    if ps.all c.agrees then
      let (mine, t) ← rest.readRange c.src (c.srcCount * c.esize)
      let u ← t.writeRange c.dst (c.result s.free mine ps) 0
      let v := u.bumpFree
      if c.record = 0 then return v else v.writeRecord c.record 0 (if c.op = 3 then c.count else c.dstCount)
    else rest.collFail c 1

/-! ### Completion, faults and the journal -/

/-- The payload of a command. -/
def State.copyPayload (s : State) (c : CopyCmd) : Except Halt State :=
  match copyKind c.word with
  | .cpy => s.doCpy c
  | .gather => s.doGather c
  | .copyx => s.doCopyX c
  | .sum => s.doSum c
  | .coll => s.doColl c

/-- The completion word written, and the command gone (R90, R346). -/
def State.copyFinish (s : State) (c : CopyCmd) : State :=
  let t : State := { s with hart := { s.hart with copyq := s.hart.copyq.drop 1 } }
  let u := t.returnMoved t.hart.ctx
  if c.cwOffset = noCompletion then u else u.scrWrite c.cwOffset.toNat (valBytes 8 c.cwValue.toNat)

/-- A change made with the permissions that a command passed at issue. -/
def State.asIssued (s : State) (f : State → Except Halt State) : Except Halt State := do
  let t ← f (s.setTrap { s.hart.trap with priv := true })
  return t.setTrap { t.hart.trap with priv := s.hart.trap.priv }

/-- The status code of a journal entry (R381). -/
def CopyStatus.code : CopyStatus → Nat
  | .queued => 1
  | .part => 2
  | .faulted => 3
  | .cancelled => 4

/-- The 64 bytes of a journal entry (R381). -/
def CopyCmd.image (c : CopyCmd) : List Byte :=
  valBytes 4 c.word.toNat ++ valBytes 4 c.status.code
    ++ ((List.range 5).flatMap fun j => valBytes 8 (c.op j).toNat) ++ valBytes 8 c.done ++ valBytes 8 0

/-- The 1,024 bytes of the journal (R381). -/
def Hart.journalImage (h : Hart) : List Byte :=
  let l := (h.journal ++ h.copyq).take 16
  l.flatMap CopyCmd.image ++ List.replicate (64 * (16 - l.length)) 0

/-- The journal written into the hart's save area (R351, R379). -/
def State.writeJournal (s : State) : State :=
  match s.hart.saveIdx with
  | some i => s.l2WriteAt 3 (s.myCtx.areaBase i + 0x800) s.hart.journalImage
  | none => s

/-- An engine fault (R351): the command stops, later ones are cancelled, the journal names them, and the
hart takes the trap at its next instruction boundary. -/
def State.engineFault (s : State) (cause : Cause) (v : Word) : State :=
  match s.hart.copyq with
  | [] => s
  | c :: rest =>
    if s.hart.atBoundary then
      let j := { c with status := .faulted } :: rest.map fun r => { r with status := .cancelled }
      let t := (({ s with hart := { s.hart with copyq := [], journal := j } } : State).writeJournal).returnMoved s.hart.ctx
      let u := (t.abandonWait).logConsumed cause v
      u.takeTrap cause v u.hart.pc u.hart.partial?
    else s

/-- The block numbers of a gather, if they can be read with the permissions that it passed at issue. -/
def State.gatherList (s : State) (c : CopyCmd) : Option (List Byte) :=
  match (s.setTrap { s.hart.trap with priv := true }).readRange (c.op 1) (4 * gatherCount (c.op 2)) with
  | .ok (bs, _) => some bs
  | .error _ => none

/-- The address of a listed block of a gather as the table gives it now (R170, R184). -/
def State.gatherAddr (s : State) (c : CopyCmd) (place : Nat) : Option Nat := do
  let list ← s.gatherList c
  let (_, q) ← s.myCtx.seqOf ((c.op 2).setWidth 32)
  tget q.blocks (bytesVal ((list.drop (4 * place)).take 4))

/-- The version counter of a physical block (R183). -/
def State.version (s : State) (addr : Nat) : BitVec 32 :=
  match tget s.myCtx.blocks addr with
  | some b => b.version
  | none => 1

/-- The head command changed. -/
def State.setHead (s : State) (c : CopyCmd) : State :=
  { s with hart := { s.hart with copyq := c :: s.hart.copyq.drop 1 } }

/-- A gather at the head begins an attempt at a listed block: it reads the version counter (R184). -/
def State.gatherBegin (s : State) (place : Nat) : State :=
  match s.hart.copyq with
  | [] => s
  | c :: _ =>
    if copyKind c.word = .gather ∧ place < gatherCount (c.op 2) ∧ c.attempt = none ∧ s.hart.saved = false then
      match s.gatherAddr c place with
      | some a => s.setHead { c with attempt := some ⟨place, a, s.version a⟩ }
      | none => s
    else s

/-- Whether an attempt failed: its two counter reads differ, or are odd (R184). -/
def State.attemptFails (s : State) (a : Attempt) : Bool :=
  s.version a.addr != a.version || a.version.getLsbD 0

/-- The attempts that failed at the block of an attempt (R184). -/
def CopyCmd.failures (c : CopyCmd) (a : Attempt) : Nat := (tget c.failed a.place).getD 0

/-- An attempt that failed is repeated from the leaf entry; the eighth raises 0x1C7, naming the block (R184). -/
def State.gatherRetry (s : State) (c : CopyCmd) (a : Attempt) : State :=
  if c.failures a + 1 = 8 then s.engineFault 0x1C7 (BitVec.ofNat 64 a.addr)
  else s.setHead { c with attempt := none, failed := tset c.failed a.place (c.failures a + 1) }

/-- A held command translates again when it is next tried: its hart's translation of the page is dropped, or the
core's table entry is read again (R413). -/
def State.unpark (s : State) (w : Wait) : State :=
  match w with
  | .parked va false => { s with hart := { s.hart with
      tlb := s.hart.tlb.filter fun t => !t.covers s.hart.trap.ctxid va } }
  | .parked va true => match s.myCtx.vttIndex va with
    | some i => match s.tableCheck (s.myCtx.vttBase + 8 * i) 8 with
      | .ok _ => s.vttReread s.hart.core s.hart.ctx i
      | .error _ => s
    | none => s
  | _ => s

/-- Whether a read of the hart has still to return: the writes of a command stand behind it (R103, R116). -/
def Hart.readsLeft (h : Hart) : Bool := h.queue.any fun e => e.reads && !e.rhold

/-- What the head command does next: a re-graining first marks its pages (R415). -/
def State.copyEffect (s : State) (c : CopyCmd) (rest : List CopyCmd) : Except Halt State :=
  if c.marks then s.asIssued fun t => t.startRegrain c rest
  else do
    let t ← s.asIssued fun t => t.copyPayload c
    return t.copyFinish c

/-- The head command performs; a command that holds changes nothing but the translation that it will make again
(R346, R412, R413). A gather whose attempt failed tries again (R184). -/
def State.copyComplete (s : State) : State :=
  match s.hart.copyq with
  | [] => s
  | c :: rest =>
    if s.hart.saved || s.hart.readsLeft then s
    else match c.attempt.filter s.attemptFails with
      | some a => s.gatherRetry c a
      | none => match s.copyEffect c rest with
        | .ok t => t
        | .error (.trap cause v) => s.engineFault cause v
        | .error (.wait w) => s.unpark w

/-- The head command translates again, and performs, where it is held by a page in migration (R413). -/
def State.copyAgain (s : State) : State :=
  match s.hart.copyq with
  | [] => s
  | c :: rest => match s.copyEffect c rest with
    | .error (.wait (.parked va vec)) => (s.unpark (.parked va vec)).copyComplete
    | _ => s

/-- COPY_COMMAND_COMPLETE (R346). -/
def execCopyCommandComplete (uid : Nat) (s : State) : Host.Outcome State Fault Refusal :=
  onHart uid s State.copyComplete

/-- COPY_ENGINE_FAULT (R184, R351): the eighth failed attempt of a gather, or poison that the payload consumes;
TVAL is the address at fault as the engine finds it. -/
def execCopyEngineFault (uid : Nat) (cause : BitVec 10) (_tval : Word) (s : State) :
    Host.Outcome State Fault Refusal :=
  onHart uid s fun t => match t.hart.copyq with
    | [] => t
    | c :: _ =>
      if t.hart.saved then t
      else match c.attempt.filter t.attemptFails with
        | some a => if cause = 0x1C7 ∧ c.failures a = 7 then t.gatherRetry c a else t
        | none => match t.asIssued fun u => u.copyPayload c with
          | .error (.trap x v) => if x = cause then t.engineFault x v else t
          | .error (.wait _) => t
          | .ok _ => t

/-- Whether some rank of a collective has not issued its command (R350, R446). -/
def State.ranksLeft (s : State) (cmd : CopyCmd) : Bool :=
  let c := Coll.of cmd.desc
  match (s.setTrap { s.hart.trap with priv := true }).groupOf c with
  | .ok (group, _) => (s.collPeers c group).isNone
  | .error _ => false

/-- A collective at the head ends with status 2: a rank did not issue in time, or its path is down (R446). -/
def State.collTimeout (s : State) (fails : CopyCmd → Bool) : State :=
  match s.hart.copyq with
  | [] => s
  | c :: _ =>
    if copyKind c.word = .coll ∧ s.hart.saved = false ∧ fails c = true then
      match s.asIssued fun t => t.collFail (Coll.of c.desc) 2 with
      | .ok t => t.copyFinish c
      | .error _ => s
    else s

/-- COLL_RANK_TIMEOUT, once the collective timeout has passed since issue (R446). -/
def execCollRankTimeout (uid : Nat) (s : State) : Host.Outcome State Fault Refusal :=
  onHart uid s fun t => match t.hart.copyq with
    | [] => t
    | c :: _ => if t.mgmt.collNs ≤ (t.time - c.issued).toNat then t.collTimeout t.ranksLeft else t

end Sys2Proof.Machine
end

