-- ==== Sys2Proof/Machine/Pins.lean ====
section
/-! DEFINITION. Pinned lines of L2 (R92, R94, R194, R210, R448): staged tiles, pre-stages and advice pins.
A line is named by its number, its physical address divided by 256. -/

namespace Sys2Proof.Machine

/-- The pins a set allows to a context's partition (R94, R448). -/
def State.pinLimit (s : State) (c : Nat) : Nat :=
  match s.partition c with
  | some p => min 12 ((List.range 16).countP p.ways.getLsbD - 4)
  | none => 12

/-- The lines that the harts of a context's partition hold pinned. -/
def State.partPins (s : State) (c : Nat) : List Nat :=
  (s.harts.filter fun h => (s.ctx h.ctx).part == (s.ctx c).part).flatMap Hart.pinned

/-- Lines pinned one after another beside those already held: those beyond a set's limit stay unpinned
(R94). -/
def pinWithin (limit : Nat) : List Nat → List Nat → List Nat
  | [], _ => []
  | l :: t, held =>
    if held.contains l then l :: pinWithin limit t held
    else if (held.eraseDups.filter (sameSet l)).length < limit then l :: pinWithin limit t (l :: held)
    else pinWithin limit t held

/-- The lines of some physical addresses, each once, in order. -/
def linesOf (pas : List Nat) : List Nat := ((pas.filter isHbm).map (· / 256)).eraseDups

/-- Some lines pinned for the hart in focus. -/
def State.pinLines (s : State) (lines : List Nat) : List Nat :=
  pinWithin (s.pinLimit s.hart.ctx) lines (s.partPins s.hart.ctx)

end Sys2Proof.Machine
end

