-- ==== Sys2Proof/Machine/VNarrow.lean ====
section
/-! DEFINITION. Narrow-format vector instructions: major VNAR (R227, R228, R286 to R291). -/

namespace Sys2Proof.Machine

/-! ### Descriptor operands -/

/-- The descriptor a queued instruction captured (R150). -/
def State.qdesc (s : State) (fd : Reg) : Desc := Desc.of (s.qop 0 (s.x fd))

/-- The scalar operands of a VN word: the descriptor, and under RND 6 the counter operands (R287, R381). -/
def State.narrowOps (s : State) (fd : Reg) : List Word :=
  if (Desc.of (s.x fd)).rnd = 6 then [s.x fd, s.x (fd + 1), s.x (fd + 2)] else [s.x fd]

/-- The counter operands of stochastic rounding (R287). -/
def State.drawOps (s : State) (fd : Reg) : DrawOps :=
  let u := (s.qop 1 (s.x (fd + 1))).toNat
  ⟨s.hart.seed, bits u 0 32, bits u 32 32, (s.qop 2 (s.x (fd + 2))).toNat % 2 ^ 32⟩

/-- An element of a format as a number; a BPI element at p planes (R149, R152). -/
def srcNum (fmt p : Nat) (bias : Bool) (raw : Nat) : Num :=
  if fmt = 10 then Num.ofInt (bpiVal p bias raw) else fmtNum fmt raw

/-- Whether a source of a format has a scale register under SCALE (R287, R288). -/
def scaledBy (sc fmt : Nat) : Bool := sc == 1 || sc == 2 || (sc == 3 && fmt == 10)

/-- The scale of element i: from the scale register (R287, R288). -/
def State.scaleAt (s : State) (reg sc fmt i : Nat) : Num :=
  if scaledBy sc fmt then
    if sc = 2 then fp32.decode (s.elem reg 32 0) else e8m0 (s.elem reg 8 (i / 32))
  else .fin false 1 0 1

/-- A source under its scale, flushed (R159, R160): the unscaled number a product takes. -/
def flushUnder (fl : Bool) (x σ : Num) : Num :=
  if fl && (x.scaled σ).subnormal32 then .zero x.sign else x

/-- A format width a word requires of ETYPE; a reserved code is refused later, by its own check (R151,
R227). -/
def widthOk (fmt etype : Nat) : Bool := fmt ≥ 12 || fmtWidth fmt == typeWidth etype

/-- Whether two register blocks meet. -/
def spansMeet (a b : Nat × Nat) : Bool := decide (a.1 < b.1 + b.2 ∧ b.1 < a.1 + a.2)

/-- The overlap rule of destination spans (R287, R303): identical to a source span of the same width, or
disjoint from every source span and scale register. -/
def overlapOk (dst : List (Nat × Nat)) (dw : Nat) (srcs : List ((Nat × Nat) × Nat))
    (scales : List (Nat × Nat)) : Bool :=
  let others := srcs.map (·.1) ++ scales
  (dst.length == 1 && srcs.any fun p => dst == [p.1] && dw == p.2) ||
    dst.all fun d => others.all fun o => !spansMeet d o

/-- The spans of operands with their scale registers (R287). -/
def withScales (fields scales : List (Nat × Nat)) : List (Nat × Nat) :=
  fields.map fun p => if scales.contains (p.1 + p.2, 1) then (p.1, p.2 + 1) else p

/-- The checks of a VN word in order (R225, R230, R233, R265, R287): scale registers within v31, header
bounds, type state, descriptor, VL, then the overlap rule. -/
def State.narrowChecks (s : State) (fields scales : List (Nat × Nat)) (acc : Accept) (fd : Reg)
    (groupOk : Bool) (dstWidth : Option Nat) (overlap : Bool) (w : IWord) : Except Halt Unit := do
  let g := vtGroup s.hart.csr.vt
  let v := s.x fd
  let d := Desc.of v
  need (scales.all (fun p => decide (p.1 ≤ 31)) = true) 0x032 (wordVal w)
  s.vcheck ⟨withScales fields scales, true, spansAligned fields && groupOk, true, widthOk d.src1 s.etype⟩
  d.check acc v
  need (d.rnd ≠ 6 ∨ ¬ acc.rnds.contains 6 ∨ fd.toNat ≤ 29) 0x064 v
  s.vlCheck s.vlmaxNow
  match dstWidth with
  | some dw => s.vlCheck (s.hart.vlmax g dw)
  | none => .ok ()
  need (overlap = true) 0x032 (wordVal w)

/-! ### vdot16 (R288) -/

/-- One result of a dot product over active terms i: the groups of R154 in ascending order. -/
def dotTerms (d : Desc) (acc : Nat) (terms : List Nat) (x y : Nat → Nat) (sa sb : Nat → Num) (scale : Num) :
    Nat :=
  let bias := d.rnd == 1
  if fmtClass d.src1 = 2 then
    let pair (i : Nat) : Int × Int :=
      let a := srcNum d.src1 d.p bias (x i)
      let b := srcNum d.src2 d.p bias (y i)
      if (flushUnder d.flush a (sa i)).isZero || (flushUnder d.flush b (sb i)).isZero then (0, 0)
      else (if d.src1 = 10 then bpiVal d.p bias (x i) else sval (fmtWidth d.src1) (x i),
            if d.src2 = 10 then bpiVal d.p bias (y i) else sval (fmtWidth d.src2) (y i))
    if d.dst = 11 then blockSumInt acc (terms.map pair) else blockSumFp d.flush acc (terms.map pair) scale
  else
    let n := if fmtClass d.src1 = 0 then 16 else 4
    (List.range (16 / n)).foldl (fun a q =>
      groupSum d.flush a ((terms.filter fun i => i % 16 / n == q).map fun i =>
        (flushUnder d.flush (fmtNum d.src1 (x i)) (sa i), flushUnder d.flush (fmtNum d.src2 (y i)) (sb i)))
        scale) acc

/-- The format codes of the sources of a group sum, and of its destination (R228). -/
def dotAccept (d : Desc) : Accept where
  src1 := [1, 2, 3, 4, 5, 6, 7, 8, 9, 10]
  src2 := [1, 2, 3, 4, 5, 6, 7, 8, 9, 10]
  dst := if fmtClass d.src1 = 2 ∧ fmtClass d.src2 = 2 then [0, 11] else [0]
  group := true
  scale := true
  bpiDst := false
  rnds := [0, 1]

/-- The scale register of a source, where it has one (R287). -/
def scaleSpan (field g sc fmt : Nat) : List (Nat × Nat) :=
  if scaledBy sc fmt then [(field + g, 1)] else []

/-- vdot16 from VSTART rounded down to 16 (R269, R288). With VL = 0 it leaves its destination's PIDX as it is
(DESIGN CHOICE, assumption log 5). -/
def State.dot16 (s : State) (d a b fd : Reg) (k : KReg) : Ran :=
  let D := s.qdesc fd
  let E := s.stopAt 16
  let j0 := s.vstart / 16
  if s.qvl = 0 then .done (s.setVstart 0)
  else
    let w1 := fmtWidth D.src1
    let w2 := fmtWidth D.src2
    let sa := s.scaleAt (a.toNat + s.qg) D.scale D.src1
    let sb := s.scaleAt (b.toNat + s.qg) D.scale D.src2
    let f (j : Nat) : Nat :=
      let old := s.elem d.toNat 32 j
      if j < j0 then old
      else
        let terms := ((List.range 16).map (16 * j + ·)).filter fun i => i < E && s.active k i
        if terms.isEmpty then old
        else s.lane (16 * j) (dotTerms D old terms (s.elem a.toNat w1) (s.elem b.toNat w2) sa sb
          ((sa (16 * j)).mul (sb (16 * j))).1)
    let t := if E < s.qvl then s.putVecTo d.toNat s.qg 32 (E / 16) f
             else s.putVec d.toNat s.qg 32 ((s.qvl + 15) / 16) f
    t.finish E

/-- vdot16 (R286 to R288). -/
def execVdot16 (d a b fd : Reg) (k : KReg) (s : State) : Host.Outcome State Fault Refusal :=
  let w := encode (.vdot16 d a b fd k)
  let g := vtGroup s.hart.csr.vt
  let D := Desc.of (s.x fd)
  let fa := (a.toNat, g)
  let fb := (b.toNat, g)
  let sc := scaleSpan a.toNat g D.scale D.src1 ++ scaleSpan b.toNat g D.scale D.src2
  let ok := overlapOk [(d.toNat, g)] 32 [(fa, fmtWidth D.src1), (fb, fmtWidth D.src2)] sc
  s.enter .viq w (s.narrowOps fd)
    (s.narrowChecks [(d.toNat, g), fa, fb] sc (dotAccept D) fd true none ok w)
    fun t => .ok (t.dot16 d a b fd k)

/-! ### vquant (R289) -/

/-- What a chain of conversions leaves: codes by element, the residual and the flags. -/
structure Chained where
  codes : List (Nat × Nat)
  efr   : BitVec 32
  flags : BitVec 8
deriving DecidableEq, Repr

/-- Elements converted in ascending order under RND, the residual carried along (R157). -/
def convertChain (dst rnd : Nat) (fl : Bool) (ops : DrawOps) (x : Nat → Num) (is : List Nat) (c : Chained) :
    Chained :=
  is.foldl (fun (c : Chained) i =>
    let (r, e) := convertRnd dst rnd fl ops c.efr i (x i)
    ⟨c.codes ++ [(i, r.code)], e, c.flags ||| r.flags⟩) c

/-- A block converted: zeros alone take a zero of each one's sign, whatever RND (R161); others convert in a chain. -/
def convertBlock (dst rnd : Nat) (fl : Bool) (ops : DrawOps) (block : Bool) (x y : Nat → Num) (is : List Nat)
    (c : Chained) : Chained :=
  if block && is.all fun i => (x i).isZero then
    { c with codes := c.codes ++ is.map fun i =>
        (i, if isFloatFmt dst then (ffmt dst).signed (x i).sign 0 else 0) }
  else convertChain dst rnd fl ops y is c

/-- A block of vquant (R289): its scale code, where SCALE is 1 or 3, and its conversions. -/
def State.quantBlock (s : State) (D : Desc) (a d fd : Reg) (k : KReg) (E q : Nat) (scales : List (Nat × Nat))
    (c : Chained) : List (Nat × Nat) × Chained :=
  let is := ((List.range 32).map (32 * q + ·)).filter fun i => i < E && s.active k i
  if is.isEmpty then (scales, c)
  else
    let x (i : Nat) : Num := (fmtNum D.src1 (s.elem a.toNat (fmtWidth D.src1) i)).flushed D.flush
    let block : Bool := D.scale == 1 || D.scale == 3
    let code := if block then blockScale D.dst (is.map x) else 0xFF
    let y (i : Nat) : Num :=
      if D.scale = 2 then (x i).unscaled (fp32.decode (s.elem (d.toNat + s.qg) 32 0))
      else byBlockScale code (x i)
    (if block then scales ++ [(q, code)] else scales,
      convertBlock D.dst D.rnd D.flush (s.drawOps fd) block x y is c)

/-- vquant from VSTART rounded down to 32 (R269, R289). -/
def State.quant (s : State) (d a fd : Reg) (k : KReg) : Ran :=
  let D := s.qdesc fd
  let E := s.stopAt 32
  let q0 := s.vstart / 32
  if s.qvl = 0 then .done (s.setVstart 0)
  else
    let blocks := ((List.range ((E + 31) / 32)).filter fun q => q0 ≤ q)
    let (scales, c) := blocks.foldl (fun (p : List (Nat × Nat) × Chained) q =>
      s.quantBlock D a d fd k E q p.1 p.2) ([], ⟨[], s.hart.csr.efr, 0⟩)
    let dw := fmtWidth D.dst
    let old := s.elem d.toNat dw
    let f (i : Nat) := ((tget c.codes i).map (s.lane i)).getD (old i)
    let t := (s.raiseFlags c.flags)
    let t1 := t.setCsr { t.hart.csr with efr := c.efr }
    let t2 := if E < s.qvl then t1.putVecTo d.toNat s.qg dw E f else t1.putVec d.toNat s.qg dw s.qvl f
    let sr := d.toNat + s.qg
    let fs (q : Nat) := (tget scales q).getD (s.elem sr 8 q)
    let t3 := if D.scale = 1 ∨ D.scale = 3 then
        (if E < s.qvl then t2.putVecTo sr 1 8 (E / 32) fs else t2.putVec sr 1 8 ((s.qvl + 31) / 32) fs)
      else t2
    t3.finish E

/-- The conversions' values of RND (R152). -/
def convertRnds : List Nat := [0, 1, 2, 3, 4, 5, 6]

/-- What vquant accepts (R228, R289). -/
def quantAccept : Accept where
  src1 := [0, 1, 2]
  src2 := []
  dst := [3, 4, 5, 6, 7, 8, 9, 10]
  group := false
  scale := true
  bpiDst := true
  rnds := convertRnds

/-- vquant (R286, R287, R289). -/
def execVquant (d a fd : Reg) (k : KReg) (s : State) : Host.Outcome State Fault Refusal :=
  let w := encode (.vquant d a fd k)
  let g := vtGroup s.hart.csr.vt
  let D := Desc.of (s.x fd)
  let sr := if D.scale = 0 then [] else [(d.toNat + g, 1)]
  let written := if D.scale = 2 then [] else sr
  let read := if D.scale = 2 then sr else []
  let ok := overlapOk ((d.toNat, g) :: written) (fmtWidth D.dst) [((a.toNat, g), fmtWidth D.src1)] read
  s.enter .viq w (s.narrowOps fd)
    (s.narrowChecks [(d.toNat, g), (a.toNat, g)] sr quantAccept fd true none ok w)
    fun t => .ok (t.quant d a fd k)

/-! ### vdeq and vcvt (R290) -/

/-- An elementwise conversion from a source number, the residual carried along (R157, R268, R290). -/
def State.convertElems (s : State) (d fd : Reg) (k : KReg) (dst rnd : Nat) (fl : Bool) (x : Nat → Num) : Ran :=
  let E := s.stopAt 1
  let v0 := s.vstart
  if s.qvl ≤ v0 then .done (s.setVstart 0)
  else
    let is := (List.range E).filter fun i => v0 ≤ i && s.active k i
    let c := convertChain dst rnd fl (s.drawOps fd) x is ⟨[], s.hart.csr.efr, 0⟩
    let dw := fmtWidth dst
    let old := s.elem d.toNat dw
    let f (i : Nat) := ((tget c.codes i).map (s.lane i)).getD (old i)
    let t := s.raiseFlags c.flags
    let t1 := t.setCsr { t.hart.csr with efr := c.efr }
    let t2 := if E < s.qvl then t1.putVecTo d.toNat s.qg dw E f else t1.putVec d.toNat s.qg dw s.qvl f
    t2.finish E

/-- What vdeq accepts (R228). -/
def deqAccept : Accept where
  src1 := [3, 4, 5, 6, 7, 8, 9, 10]
  src2 := []
  dst := [0, 1, 2]
  group := false
  scale := true
  bpiDst := false
  rnds := convertRnds

/-- vdeq: a BPI source is read by truncation (R290). -/
def State.deq (s : State) (d a fd : Reg) (k : KReg) : Ran :=
  let D := s.qdesc fd
  let σ := s.scaleAt (a.toNat + s.qg) D.scale D.src1
  s.convertElems d fd k D.dst D.rnd D.flush fun i =>
    ((srcNum D.src1 D.p false (s.elem a.toNat (fmtWidth D.src1) i)).scaled (σ i)).flushed D.flush

/-- vdeq (R265, R286, R290). -/
def execVdeq (d a fd : Reg) (k : KReg) (s : State) : Host.Outcome State Fault Refusal :=
  let w := encode (.vdeq d a fd k)
  let g := vtGroup s.hart.csr.vt
  let D := Desc.of (s.x fd)
  let sr := scaleSpan a.toNat g D.scale D.src1
  let ok := overlapOk [(d.toNat, g)] (fmtWidth D.dst) [((a.toNat, g), fmtWidth D.src1)] sr
  s.enter .viq w (s.narrowOps fd)
    (s.narrowChecks [(d.toNat, g), (a.toNat, g)] sr deqAccept fd true (some (fmtWidth D.dst)) ok w)
    fun t => .ok (t.deq d a fd k)

/-- What vcvt accepts (R228, R290). -/
def cvtAccept : Accept where
  src1 := [0, 1, 2, 3, 4, 5, 6, 7, 8, 9, 11]
  src2 := []
  dst := [0, 1, 2, 3, 4, 5, 6, 7, 8, 9, 11]
  group := false
  scale := false
  bpiDst := false
  rnds := convertRnds

/-- vcvt (R290). -/
def State.cvt (s : State) (d a fd : Reg) (k : KReg) : Ran :=
  let D := s.qdesc fd
  s.convertElems d fd k D.dst D.rnd D.flush fun i =>
    (fmtNum D.src1 (s.elem a.toNat (fmtWidth D.src1) i)).flushed D.flush

/-- vcvt (R265, R286, R290). -/
def execVcvt (d a fd : Reg) (k : KReg) (s : State) : Host.Outcome State Fault Refusal :=
  let w := encode (.vcvt d a fd k)
  let g := vtGroup s.hart.csr.vt
  let D := Desc.of (s.x fd)
  let ok := overlapOk [(d.toNat, g)] (fmtWidth D.dst) [((a.toNat, g), fmtWidth D.src1)] []
  s.enter .viq w (s.narrowOps fd)
    (s.narrowChecks [(d.toNat, g), (a.toNat, g)] [] cvtAccept fd true (some (fmtWidth D.dst)) ok w)
    fun t => .ok (t.cvt d a fd k)

/-! ### vbpack and vbunpack (R291) -/

/-- A byte of plane form from the codes of a tile: byte B of 1,024t + 128q + o (R291). -/
def packByte (code : Nat → Nat) (B : Nat) : Nat :=
  let t := B / 1024
  let q := B % 1024 / 128
  let o := B % 128
  packElems 1 (fun b => (code (1024 * t + 8 * o + b)).testBit (7 - q) |>.toNat) 8

/-- The first p planes of element i, at their places in the code (R149, R291). -/
def unpackCode (byte : Nat → Nat) (p i : Nat) : Nat :=
  let t := i / 1024
  let j := i % 1024
  (List.range p).foldl (fun z q =>
    z + ((byte (1024 * t + 128 * q + j / 8)).testBit (j % 8)).toNat * 2 ^ (7 - q)) 0

/-- vbpack: whole tiles from VSTART rounded down to 1,024 (R269, R291). -/
def State.bpack (s : State) (d a : Reg) (k : KReg) : Ran :=
  let E := s.stopAt 1024
  let t0 := s.vstart / 1024 * 1024
  if s.qvl = 0 then .done (s.setVstart 0)
  else
    let code (i : Nat) := if i < s.qvl && s.active k i then s.elem a.toNat 8 i else 0
    let f (B : Nat) :=
      if t0 ≤ B && (B < E || E = s.qvl) then s.lane B (packByte code B) else s.elem d.toNat 8 B
    let t := if E < s.qvl then s.putVecTo d.toNat s.qg 8 E f
             else s.putVec d.toNat s.qg 8 ((s.qvl + 1023) / 1024 * 1024) f
    t.finish E

/-- vbunpack from VSTART rounded down to 1,024 (R269, R291). -/
def State.bunpack (s : State) (d a fd : Reg) (k : KReg) : Ran :=
  let D := s.qdesc fd
  let E := s.stopAt 1024
  let v0 := s.vstart / 1024 * 1024
  if s.qvl = 0 then .done (s.setVstart 0)
  else
    let f (i : Nat) :=
      if v0 ≤ i && i < E && s.active k i then
        s.lane i (wrap 8 (bpiVal D.p (D.rnd == 1) (unpackCode (s.elem a.toNat 8) D.p i)))
      else s.elem d.toNat 8 i
    let t := if E < s.qvl then s.putVecTo d.toNat s.qg 8 E f else s.putVec d.toNat s.qg 8 s.qvl f
    t.finish E

/-- What vbpack accepts (R152, R228). -/
def packAccept : Accept where
  src1 := [8]
  src2 := []
  dst := [10]
  group := false
  scale := false
  bpiDst := false
  rnds := []

/-- What vbunpack accepts (R152, R228). -/
def unpackAccept : Accept where
  src1 := [10]
  src2 := []
  dst := [8]
  group := false
  scale := false
  bpiDst := false
  rnds := [0, 1]

/-- Both need a VLMAX of at least 1,024 at 8 bits (R291). -/
def State.planesFit (s : State) : Bool := decide (1024 ≤ s.hart.vlmax (vtGroup s.hart.csr.vt) 8)

/-- vbpack (R286, R291). -/
def execVbpack (d a fd : Reg) (k : KReg) (s : State) : Host.Outcome State Fault Refusal :=
  let w := encode (.vbpack d a fd k)
  let g := vtGroup s.hart.csr.vt
  let ok := overlapOk [(d.toNat, g)] 8 [((a.toNat, g), 8)] []
  s.enter .viq w (s.narrowOps fd)
    (s.narrowChecks [(d.toNat, g), (a.toNat, g)] [] packAccept fd s.planesFit none ok w)
    fun t => .ok (t.bpack d a k)

/-- vbunpack (R265, R286, R291). -/
def execVbunpack (d a fd : Reg) (k : KReg) (s : State) : Host.Outcome State Fault Refusal :=
  let w := encode (.vbunpack d a fd k)
  let g := vtGroup s.hart.csr.vt
  let ok := overlapOk [(d.toNat, g)] 8 [((a.toNat, g), 8)] []
  s.enter .viq w (s.narrowOps fd)
    (s.narrowChecks [(d.toNat, g), (a.toNat, g)] [] unpackAccept fd s.planesFit (some 8) ok w)
    fun t => .ok (t.bunpack d a fd k)

end Sys2Proof.Machine
end

