-- ==== Sys2Proof/Machine/Matrix.lean ====
section
/-! DEFINITION. The matrix engine: major MAT (R319 to R331), pair operations (R64 to R67) and the row
checks (R429, R430). -/

namespace Sys2Proof.Machine

/-! ### Tiles (R321) -/

/-- The largest K of a format (R321). -/
def tileKmax (fmt : Nat) : Nat :=
  match fmtWidth fmt with
  | 4 => 2048
  | 8 => 1024
  | _ => 512

/-- Whether K is in range for a format (R321). -/
def tileKOk (fmt k : Nat) : Bool :=
  decide (k ≠ 0 ∧ k ≤ tileKmax fmt) && (fmt != 10 || k % 32 == 0)

/-- The bytes of one row of a tile in memory (R321). -/
def tileStride (fmt : Nat) : Nat := 16 * fmtWidth fmt

/-- The bytes of a tile's scale storage behind its rows (R321). -/
def tileScaleBytes (sc k : Nat) : Nat :=
  match sc with
  | 1 => (k + 31) / 32 * 128
  | 2 => 4
  | _ => 0

/-- The sectors a tile reads, as offsets and byte counts (R321). -/
def tilePieces (d : Desc) (k : Nat) : List (Nat × Nat) :=
  if d.src2 = 10 then
    (List.range (k / 32 * 4)).flatMap fun t =>
      (List.range (4 * d.p + 1)).map fun c => (1056 * t + 32 * c, 32)
  else
    let n := k * tileStride d.src2 + tileScaleBytes d.scale k
    (List.range ((n + 31) / 32)).map fun c => (32 * c, min 32 (n - 32 * c))

/-- The n bits of a tile image from a byte offset. -/
def TileBuf.bitsAt (t : TileBuf) (byteOff bitOff n : Nat) : Nat :=
  t.image.toNat >>> (8 * byteOff + bitOff) % 2 ^ n

/-- The descriptor a tile was staged under. -/
def TileBuf.format (t : TileBuf) : Desc := Desc.of (t.desc.setWidth 64)

/-- The code of element (k, n) of a tile (R145, R148, R321). -/
def TileBuf.code (t : TileBuf) (k n : Nat) : Nat :=
  let d := t.format
  if d.src2 = 10 then
    let base := 1056 * (4 * (k / 32) + n / 32)
    let i := 32 * (n % 32) + k % 32
    (List.range d.p).foldl (fun z q =>
      z + t.bitsAt (base + 32 + 128 * q + i / 8) (i % 8) 1 * 2 ^ (7 - q)) 0
  else t.bitsAt (k * tileStride d.src2) (n * fmtWidth d.src2) (fmtWidth d.src2)

/-- The scale of element (k, n) of a tile (R160, R321). -/
def TileBuf.scaleOf (t : TileBuf) (k n : Nat) : Num :=
  let d := t.format
  if d.src2 = 10 then e8m0 (t.bitsAt (1056 * (4 * (k / 32) + n / 32) + n % 32) 0 8)
  else match d.scale with
    | 1 => e8m0 (t.bitsAt (t.k * tileStride d.src2 + 128 * (k / 32) + n) 0 8)
    | 2 => fp32.decode (t.bitsAt (t.k * tileStride d.src2) 0 32)
    | _ => .fin false 1 0 1

/-! ### Accumulators -/

/-- The number of a row among the hart's accumulator rows. -/
def accIndex (acc : AccReg) (row : Nat) : Nat := 64 * acc.toNat + row

/-- An accumulator row: undefined until written (R54). -/
def State.accRow (s : State) (acc : AccReg) (row : Nat) : AccRow :=
  match tget s.hart.acc (accIndex acc row) with
  | some c => c.words
  | none => Config.freeAcc s.hart.accTag (accIndex acc row)

/-- Column n of a row. -/
def AccRow.col (r : AccRow) (n : Nat) : Nat := r.toNat >>> (32 * n) % 2 ^ 32

/-- A row of 128 words. -/
def accRowOf (f : Nat → Nat) : AccRow := BitVec.ofNat 4096 (packElems 32 f 128)

/-- A row written, with its check (R429); DIRTYV.ACC is set (R375). -/
def State.setAcc (s : State) (acc : AccReg) (row : Nat) (c : AccCell) : State :=
  ({ s with hart := { s.hart with acc := tset s.hart.acc (accIndex acc row) c } } : State).markDirty
    (32 + acc.toNat)

/-- The bound on an accumulator (R233). -/
def State.boundAcc (s : State) (acc : AccReg) : Except Halt Unit :=
  need (acc.toNat < s.hart.bounds.accs) 0x081 (acc.setWidth 64)

/-- The row operand at queue entry (R214, R23). -/
def State.rowNow (s : State) (row : Row) : Word :=
  match row with
  | .const r => r.setWidth 64
  | .reg r => s.x r

/-- The operands that a row captures: its register, where it names one (R23, R381). -/
def State.rowOps (s : State) (row : Row) : List Word :=
  match row with
  | .const _ => []
  | .reg r => [s.x r]

/-- The row of a queued instruction. -/
def State.qrow (s : State) (row : Row) : Nat :=
  match row with
  | .const r => r.toNat
  | .reg r => (s.qop 0 (s.x r)).toNat

/-- The place of the operands behind a row. -/
def rowSlots (row : Row) : Nat :=
  match row with
  | .const _ => 0
  | .reg _ => 1

/-- The check of a row from a register (R320). -/
def State.rowCheck (s : State) (row : Row) (w : IWord) : Except Halt Unit :=
  need ((s.rowNow row).toNat < 64) 0x207 (wordVal w)

/-! ### Row checks (R429) -/

/-- The sum of two dyadic numbers. -/
def Dyadic.add (a b : Dyadic) : Dyadic :=
  let e := min a.e b.e
  ⟨a.m * 2 ^ (a.e - e).toNat + b.m * 2 ^ (b.e - e).toNat, e⟩

/-- Bits of an accumulator row change in its storage: what the engine expects of the row does not (R429). -/
def State.accError (s : State) (row : Nat) (flip : AccRow) : State :=
  match tget s.hart.acc row with
  | some c => { s with hart := { s.hart with acc := tset s.hart.acc row { c with words := c.words ^^^ flip } } }
  | none => s

/-- A number as a dyadic one; none for NaN and infinities. -/
def Dyadic.ofNum : Num → Option Dyadic
  | .nan _ => none
  | .inf _ => none
  | .fin s n e _ => some ⟨if s then -(n : Int) else n, e⟩

/-- The product of two dyadic numbers. -/
def Dyadic.mul (a b : Dyadic) : Dyadic := ⟨a.m * b.m, a.e + b.e⟩

/-- The magnitude. -/
def Dyadic.abs (a : Dyadic) : Dyadic := ⟨a.m.natAbs, a.e⟩

/-- The order of two dyadic numbers. -/
def Dyadic.le (a b : Dyadic) : Bool :=
  let e := min a.e b.e
  decide (a.m * 2 ^ (a.e - e).toNat ≤ b.m * 2 ^ (b.e - e).toNat)

/-- Whether a dyadic number is a multiple of 2^32. -/
def Dyadic.mod32 (a : Dyadic) : Bool :=
  if 0 ≤ a.e then a.m * 2 ^ a.e.toNat % 2 ^ 32 == 0 else a.m % 2 ^ (32 + (-a.e).toNat) == 0

/-- A sum of numbers; none where one of them is not finite. -/
def dyadicSum (l : List (Option Dyadic)) : Option Dyadic :=
  l.foldl (fun a x => do return (← a).add (← x)) (some ⟨0, 0⟩)

/-- The check of a row after a product adds to it (R429): E and B grow by the products' exact sums. -/
def checkAfter (old : Option (Dyadic × Dyadic)) (K : Nat) (a : Nat → Num) (T : Nat → Nat → Num) :
    Option (Dyadic × Dyadic) := do
  let (E, B) ← old
  let terms (f : Dyadic → Dyadic) := dyadicSum ((List.range K).map fun k => do
    let x ← Dyadic.ofNum (a k)
    let c ← dyadicSum ((List.range 128).map fun n => (Dyadic.ofNum (T k n)).map f)
    return (f x).mul c)
  let e ← terms id
  let b ← terms Dyadic.abs
  return (E.add e, B.add b)

/-- Whether a row passes its check (R429): FP32 within the bound, INT32 modulo 2^32. -/
def rowPasses (c : AccCell) (isInt : Bool) : Bool :=
  match c.check with
  | none => true
  | some (E, B) =>
    let y (n : Nat) : Num :=
      if isInt then Num.ofInt (sval 32 (AccRow.col c.words n)) else fp32.decode (AccRow.col c.words n)
    match dyadicSum ((List.range 128).map fun n => Dyadic.ofNum (y n)) with
    | none => true
    | some Y =>
      let d := Y.add ⟨-E.m, E.e⟩
      if isInt then d.mod32 else d.abs.le ((Dyadic.mul ⟨1, -7⟩ B).add ⟨1, -118⟩)

/-! ### mtile (R321, R322) -/

/-- What mtile accepts (R152, R228). -/
def tileAccept : Accept where
  src1 := []
  src2 := [1, 2, 3, 4, 5, 6, 7, 8, 9, 10]
  dst := []
  group := false
  scale := true
  bpiDst := false
  rnds := []

/-- A base in the global window, aligned (R320). -/
def State.engineBase (va : Word) (align : Nat) : Except Halt Unit := do
  need (va.toNat % align = 0) 0x0C8 va
  need (inWindow va = false) 0x208 va

/-- One sector of an engine access (R320): its translation, a SEQ destination, a host window. -/
def State.engineProbe (s : State) (rd wr : Bool) (base va : Word) : Except Halt Target := do
  need (inWindow va = false) 0x208 base
  let t ← s.xlatVec rd wr va
  need (wr = false ∨ t.seq = false) 0x1C0 va
  need (isHost t.pa = false) 0x208 base
  return .phys t

/-- The translations that the probe of an engine access left with its entry, those that parked read again (R413). -/
def State.engineAgain (s : State) (rd wr : Bool) (base : Word) (old : List (Nat × Target)) : List (Nat × Nat) →
    Except Halt (List ((Nat × Nat) × Target))
  | [] => .ok []
  | p :: l => do
    let t ← match tget old p.1 with
      | some t => if t.parks then s.engineProbe rd wr base (base + BitVec.ofNat 64 p.1) else .ok t
      | none => s.engineProbe rd wr base (base + BitVec.ofNat 64 p.1)
    let ts ← s.engineAgain rd wr base old l
    return (p, t) :: ts

/-- An engine access past its probe (R297, R320): it faults with no effect or performs. Where it lags, or parts of it
park (R412), it leaves its probe with its entry; parked parts hold it there. -/
def State.engineProbed (s : State) (rd wr : Bool) (base : Word) (ps : List (Nat × Nat))
    (perform : List ((Nat × Nat) × Target) → Except Halt Ran) : Except Halt Ran :=
  let old := s.hart.replay.bind (·.probe)
  match s.engineAgain rd wr base (old.getD []) ps with
  | .error (.trap c v) => .ok (.faulted s c v)
  | .error (.wait x) => .error (.wait x)
  | .ok ts =>
    match ts.find? fun p => p.2.parks with
    | none => if s.hart.lag && old.isNone then .ok (.probed s (ts.map fun p => (p.1.1, p.2))) else perform ts
    | some p =>
      if old.isSome then .error (.wait (.parked (base + BitVec.ofNat 64 p.1.1) true))
      else .ok (.probed s (ts.map fun p => (p.1.1, p.2)))

/-- A read on the MTX path: L2 alone, or the sequence agent (R81, R322). -/
def State.readMtx (s : State) (n : Nat) (t : Target) : Except Halt Nat :=
  match t with
  | .window _ => .ok 0
  | .phys x =>
    do
      let bs ← if x.seq && !x.lnk then s.seqBytes x.pa n else s.l2Read x.gran x.pa n
      return bytesVal bs

/-- The image of a tile from its sectors. -/
def State.tileImage (s : State) : List ((Nat × Nat) × Target) → Nat → Except Halt Nat
  | [], z => .ok z
  | (p, t) :: l, z => do
    let v ← s.readMtx p.2 t
    s.tileImage l (z + v <<< (8 * p.1))

/-- What the fetch of a tile leaves in L2 (R93). -/
def State.tileTook (s : State) (ts : List ((Nat × Nat) × Target)) : State :=
  ts.foldl (fun (u : State) p => match p.2 with
    | .window _ => u
    | .phys x => if x.seq && !x.lnk then u else u.l2Take x x.pa p.1.2) s

/-- The tile buffer of a bit. -/
def tbIndex (tb : Bool) : Nat := if tb then 1 else 0

/-- A tile buffer of the hart. -/
def State.tile (s : State) (tb : Bool) : Option TileBuf := s.hart.tb.get (if tb then 1 else 0)

/-- A tile buffer written. -/
def State.setTile (s : State) (tb : Bool) (t : Option TileBuf) : State :=
  { s with hart := { s.hart with tb := s.hart.tb.set (tbIndex tb) t (by unfold tbIndex; split <;> decide) } }

/-- A pre-stage of a buffer is used up or discarded (R209). -/
def State.dropStage (s : State) (tb : Bool) : State :=
  { s with hart := { s.hart with adv := { s.hart.adv with stages := s.hart.adv.stages.filter fun p => p.tb != tb } } }

/-- The lines of L2 that sectors lie on. -/
def targetLines (ts : List ((Nat × Nat) × Target)) : List Nat :=
  linesOf (ts.filterMap fun p => match p.2 with
    | .phys t => some t.pa
    | .window _ => none)

/-- A tile staged (R322), its lines pinned (R94): poison consumed by the tile fetch stops it before it writes anything (R428). -/
def State.stageTile (s : State) (tb : Bool) (base desc : Word) (ts : List ((Nat × Nat) × Target)) : Ran :=
  match s.tileImage ts 0 with
  | .error (.trap c v) => .stopped s c v
  | .error (.wait w) => .waiting s w
  | .ok image =>
    let u := (s.setTile tb none).dropStage tb
    let t := (u.tileTook ts).setTile tb (some
      ⟨base, desc.setWidth 32, s.qvl, BitVec.ofNat 1114112 image, u.pinLines (targetLines ts)⟩)
    .done (t.markDirty (41 + tbIndex tb))

/-- mtile (R320 to R322). -/
def execMtile (tb : Bool) (base fd : Reg) (s : State) : Host.Outcome State Fault Refusal :=
  let w := encode (.mtile tb base fd)
  let v := s.x fd
  let D := Desc.of v
  let checks : Except Halt Unit := do
    s.vcheck ⟨[], true, true, true, widthOk D.src2 s.etype⟩
    D.check tileAccept v
    s.vlCheck s.vlmaxNow
    need (tileKOk D.src2 s.hart.csr.vl.toNat) 0x203 (wordVal w)
    State.engineBase (s.x base) 256
  s.enterProbe .mq w [s.x base, v] false false checks fun t =>
    let b := t.qop 0 (t.x base)
    let d := t.qop 1 (t.x fd)
    t.engineProbed true false b (tilePieces (Desc.of d) t.qvl) fun ts => .ok (t.stageTile tb b d ts)

/-! ### Row products (R323, R325) -/

/-- The checks of a row product at its queue before its own (R225, R227, R233, R265). -/
def State.rowProductChecks (s : State) (acc : AccReg) (va fd : Reg) (sparse : Bool) : Except Halt Unit := do
  let g := vtGroup s.hart.csr.vt
  let v := s.x fd
  let D := Desc.of v
  let more := sparse.toNat + (scaledBy D.scale D.src1).toNat
  s.boundAcc acc
  s.vcheck ⟨[(va.toNat, g + more)], true, spansAligned [(va.toNat, g)], true, widthOk D.src1 s.etype⟩
  D.check (dotAccept D) v
  s.vlCheck s.vlmaxNow

/-- The shape of a compressed row (R325): VL is N × K / 32 for N of 4, 8 or 16. -/
def sparseOk (k vl : Nat) : Bool := k % 32 == 0 && [4, 8, 16].any fun n => vl == n * (k / 32)

/-- What the front end keeps of a tile buffer (R320): K and the descriptor of the latest mtile to it. -/
structure TileRec where
  k    : Nat
  desc : Word
deriving DecidableEq, Repr

/-- Whether a descriptor fits the recorded tile (R320). -/
def TileRec.fits (t : TileRec) (D : Desc) : Bool :=
  let T := Desc.of t.desc
  D.src2 == T.src2 && D.scale == T.scale && (T.src2 != 10 || D.planes == T.planes)

/-- The record after an entry of the MQ: an mtile (op 0) or an mrelease (op 7) of the buffer (R319). -/
def tileAfter (tb : Bool) (r : Option TileRec) (e : QEntry) : Option TileRec :=
  if e.kind = .mq ∧ (e.word.getLsbD 26) = tb then
    match (fld e.word 27 5).toNat with
    | 0 => some ⟨e.vl.toNat, e.ops.getD 1 0⟩
    | 7 => none
    | _ => r
  else r

/-- The front end's record of a tile buffer: the staged tile, and the entries of the queues that have not executed
(R320). -/
def State.tileRec (s : State) (tb : Bool) : Option TileRec :=
  s.hart.queue.foldl (tileAfter tb) ((s.tile tb).map fun t => ⟨t.k, t.desc.setWidth 64⟩)

/-- The recorded tile a row product needs, after its own checks in order (R320). -/
def State.rowProductTile (s : State) (row : Row) (tb : Bool) (fd : Reg) (shape paired : Bool) (cause : Cause)
    (w : IWord) (vlOk : TileRec → Bool) : Except Halt Unit := do
  match s.tileRec tb with
  | none => .error (.trap 0x200 (wordVal w))
  | some t =>
    need (shape = false ∨ vlOk t) cause (wordVal w)
    need (paired = false ∨ s.hart.bounds.paired) 0x204 (wordVal w)
    s.rowCheck row w
    need (t.fits (Desc.of (s.x fd))) 0x209 (s.x fd)

/-- A row source: the code and the scale of each element k (R323). -/
structure RowSrc where
  code  : Nat → Nat
  scale : Nat → Num
  /-- Whether element k is given: the others are zero and contribute nothing (R325). -/
  given : Nat → Bool

/-- The dense row of mrow (R323). -/
def State.denseRow (s : State) (va : Reg) (D : Desc) : RowSrc where
  code := s.elem va.toNat (fmtWidth D.src1)
  scale := s.scaleAt (va.toNat + s.qg) D.scale D.src1
  given _ := true

/-- The place among the set bits of a mask below N of a bit that is set, if there is one (R325). -/
def nthOfBit (mask N b : Nat) : Option Nat :=
  if mask.testBit b then
    let n := ((List.range b).filter fun i => mask.testBit i).length
    if n < N then some n else none
  else none

/-- The dense row a compressed row stands for (R325). -/
def State.sparseRow (s : State) (va : Reg) (D : Desc) (K : Nat) : RowSrc where
  code k :=
    let N := s.qvl * 32 / K
    match nthOfBit (s.elem (va.toNat + s.qg) 32 (k / 32)) N (k % 32) with
    | some i => s.elem va.toNat (fmtWidth D.src1) (k / 32 * N + i)
    | none => 0
  scale := s.scaleAt (va.toNat + s.qg + 1) D.scale D.src1
  given k := (nthOfBit (s.elem (va.toNat + s.qg) 32 (k / 32)) (s.qvl * 32 / K) (k % 32)).isSome

/-- One column of a row product (R323). -/
def rowColumn (D : Desc) (t : TileBuf) (r : RowSrc) (n old : Nat) : Nat :=
  let c := if fmtClass D.src1 = 2 then 32 else 16
  (List.range ((t.k + c - 1) / c)).foldl (fun A q =>
    let terms := ((List.range c).map (c * q + ·)).filter fun k =>
      k < t.k && (r.given k || fmtClass D.src1 != 2)
    dotTerms D A terms r.code (fun k => t.code k n) r.scale (fun k => t.scaleOf k n)
      ((r.scale (c * q)).mul (t.scaleOf (c * q) n)).1) old

/-- A value under its scale as the checksums take it (R330). -/
def checkNum (D : Desc) (fmt : Nat) (code : Nat) (σ : Num) : Num :=
  (srcNum fmt D.p (D.rnd == 1) code).scaled σ

/-- A row product added into a row of the hart's accumulator (R323), with the row's check (R429). -/
def State.addRow (s : State) (acc : AccReg) (row : Nat) (D : Desc) (t : TileBuf) (r : RowSrc) : State :=
  let old := s.accRow acc row
  let chk := (tget s.hart.acc (accIndex acc row)).bind (·.check)
  s.setAcc acc row ⟨accRowOf fun n => rowColumn D t r n (AccRow.col old n),
    checkAfter chk t.k (fun k => if r.given k then checkNum D D.src1 (r.code k) (r.scale k) else .zero false)
      (fun k n => checkNum D D.src2 (t.code k n) (t.scaleOf k n))⟩

/-- mrow (R323). -/
def execMrow (acc : AccReg) (row : Row) (va : Reg) (tb : Bool) (fd : Reg) (s : State) :
    Host.Outcome State Fault Refusal :=
  let w := encode (.mrow acc row va tb fd)
  let checks : Except Halt Unit := do
    s.rowProductChecks acc va fd false
    s.rowProductTile row tb fd true false 0x201 w fun t => decide (s.hart.csr.vl.toNat = t.k)
  s.enter .mq w (s.rowOps row ++ [s.x fd]) checks fun u =>
    let D := Desc.of (u.qop (rowSlots row) (u.x fd))
    match u.tile tb with
    | none => .ok (.done u)
    | some t => .ok (.done (u.addRow acc (u.qrow row) D t (u.denseRow va D)))

/-- mrow.sp (R325). -/
def execMrowSp (acc : AccReg) (row : Row) (va : Reg) (tb : Bool) (fd : Reg) (s : State) :
    Host.Outcome State Fault Refusal :=
  let w := encode (.mrowSp acc row va tb fd)
  let checks : Except Halt Unit := do
    s.rowProductChecks acc va fd true
    s.rowProductTile row tb fd true false 0x202 w fun t => sparseOk t.k s.hart.csr.vl.toNat
  s.enter .mq w (s.rowOps row ++ [s.x fd]) checks fun u =>
    let D := Desc.of (u.qop (rowSlots row) (u.x fd))
    match u.tile tb with
    | none => .ok (.done u)
    | some t => .ok (.done (u.addRow acc (u.qrow row) D t (u.sparseRow va D t.k)))

/-! ### Pair operations (R64 to R67, R326) -/

/-- The identity of a hart's partner: the other instance of its pair (R64). -/
def partnerOf (uid : Nat) : Nat := if uid % 2 = 0 then uid + 1 else uid - 1

/-- A partner that waits at the head of its MQ with the same count (R65). -/
def State.partnerWait (s : State) : Option Wait :=
  match s.findHart (partnerOf s.hart.uid) with
  | none => none
  | some p => match p.wait with
    | .pair w a r v t d since => if p.pairs = s.hart.pairs then some (.pair w a r v t d since) else none
    | _ => none

/-- A waiting partner discards its half and raises "pair partner lost" (R66). -/
def State.losePartner (s : State) (cause : Cause) : State :=
  match s.partnerWait with
  | some (.pair w ..) => s.onOther (partnerOf s.hart.uid) fun t =>
      t.awake.takeTrap cause (wordVal w) t.hart.pc t.hart.partial?
  | _ => s

/-- A pair operation's end at one partner: its half is written, and it runs on (R66). -/
def State.endPair (s : State) (acc : AccReg) (row : Nat) (D : Desc) (t : TileBuf) (r : RowSrc) : State :=
  let u := (s.addRow acc row D t r).advance.awake
  { u with hart := { u.hart with pairs := u.hart.pairs + 1 } }

/-- Both halves of a pair operation (R66, R326): the row is the even partner's, each tile its own. -/
def State.commitPair (s : State) (acc : AccReg) (row : Nat) (va : Reg) (tb : Bool) (desc : Word)
    (pacc : AccReg) (prow : Nat) (pva : Reg) (ptb : Bool) : State :=
  let D := Desc.of desc
  let p := partnerOf s.hart.uid
  let src := if s.hart.uid % 2 = 0 then s.denseRow va D
             else ((s.focus p).getD s).denseRow pva D
  let t1 := match s.tile tb with
    | some t => s.endPair acc row D t src
    | none => s
  t1.onOther p fun u => match u.tile ptb with
    | some t => u.endPair pacc prow D t src
    | none => u

/-- The lane cycles since a moment. -/
def State.laneCycles (s : State) (since : Word) : Nat :=
  cyclesIn since.toNat (since.toNat + (s.time - since).toNat) (s.hamlet (hamletOf s.hart.core)).lane

/-- Whether a hart's partner is late: more than PAIRTO lane cycles after its own arrival (R66, R67). -/
def State.partnerLate (s : State) (h : Hart) : Bool :=
  match h.wait with
  | .pair _ _ _ _ _ _ since => decide (h.csr.pairto.toNat < s.laneCycles since)
  | _ => false

/-- A hart whose partner comes too late raises 0x205 for it, and the late one is as new (R66). -/
def State.latePartner (s : State) : State :=
  match s.findHart (partnerOf s.hart.uid) with
  | some p => if s.partnerLate p then s.losePartner 0x205 else s
  | none => s

/-- mrow.p past its checks: it waits for its partner, or both commit, or both raise 0x20A (R65, R326). -/
def State.pairRow (s : State) (w : IWord) (acc : AccReg) (row : Nat) (va : Reg) (tb : Bool) (desc : Word) :
    State :=
  match s.partnerWait with
  | some (.pair _ pacc prow pva ptb pdesc _) =>
    let kOf (o : Option State) (b : Bool) := ((o.bind fun u => u.tile b).map (·.k))
    if kOf (some s) tb = kOf (s.focus (partnerOf s.hart.uid)) ptb ∧ desc.setWidth 32 = pdesc.setWidth 32 then
      s.commitPair acc row va tb desc pacc prow pva ptb
    else
      (s.losePartner 0x20A).takeTrap 0x20A (wordVal w) s.hart.pc s.hart.partial?
  | _ => s.sleep (.pair w acc row va tb desc s.time)

/-- mrow.p (R64 to R67, R326): a fault of one partner makes the waiting one raise 0x205 (R66). -/
def execMrowP (acc : AccReg) (row : Row) (va : Reg) (tb : Bool) (fd : Reg) (s : State) :
    Host.Outcome State Fault Refusal :=
  let w := encode (.mrowP acc row va tb fd)
  let ready : Except Halt State := do
    s.rowProductChecks acc va fd false
    s.rowProductTile row tb fd true true 0x201 w fun t => decide (s.hart.csr.vl.toNat = t.k)
    s.drained
    s.regain
  .next (match ready with
    | .ok t => t.latePartner.pairRow w acc (t.rowNow row).toNat va tb (t.x fd)
    | .error (.trap c v) => (s.losePartner 0x205).halt (.trap c v)
    | .error (.wait .lanes) => (s.sleep .held).setQwait .lanes
    | .error (.wait x) => s.halt (.wait x))

/-- PAIR_TIMEOUT: a partner late beyond PAIRTO makes the waiting one raise 0x205 (R66, R67). -/
def execPairTimeout (uid : Nat) (s : State) : Host.Outcome State Fault Refusal :=
  onHart uid s fun t => match t.hart.wait with
    | .pair w _ _ _ _ _ since =>
      if t.hart.csr.pairto.toNat < t.laneCycles since then
        t.awake.takeTrap 0x205 (wordVal w) t.hart.pc t.hart.partial?
      else t
    | _ => t

/-! ### mzero, mread, mepi, mrelease (R327 to R329) -/

/-- mzero: every row zero, and its check valid (R329, R429). -/
def execMzero (acc : AccReg) (s : State) : Host.Outcome State Fault Refusal :=
  s.enter .mq (encode (.mzero acc)) [] (s.boundAcc acc) fun t =>
    .ok (.done ((List.range 64).foldl (fun (u : State) r => u.setAcc acc r ⟨0, some (⟨0, 0⟩, ⟨0, 0⟩)⟩) t))

/-- mread: raw words of a row, whole (R327). -/
def execMread (d : Reg) (acc : AccReg) (row : Row) (s : State) : Host.Outcome State Fault Refusal :=
  let w := encode (.mread d acc row)
  let g := vtGroup s.hart.csr.vt
  let checks : Except Halt Unit := do
    s.boundV [(d.toNat, g)]
    s.boundAcc acc
    s.vcheck ⟨[(d.toNat, g)], true, spansAligned [(d.toNat, g)], true, typeWidth s.etype == 32⟩
    s.vlCheck s.vlmaxNow
    need (s.hart.csr.vl.toNat ≤ 128) 0x206 (wordVal w)
    s.rowCheck row w
  s.enter .viq w (s.rowOps row) checks fun t =>
    let r := t.accRow acc (t.qrow row)
    .ok (t.whole d t.qvl fun n => AccRow.col r n)

/-- The source and destination codes of mepi (R228, R328). -/
def epiAccept : Accept where
  src1 := [0, 11]
  src2 := []
  dst := [0, 1, 2, 3, 4, 8]
  group := false
  scale := false
  bpiDst := false
  rnds := []

/-- The descriptor checks of mepi (R151, R287, R328). -/
def epiCheck (D : Desc) (fd : Reg) (v : Word) : Except Halt Unit := do
  D.check epiAccept v
  need (D.scale = 0 ∨ (D.scale = 1 ∧ (D.dst = 3 ∨ D.dst = 4 ∨ D.dst = 8))) 0x065 v
  need (D.rnd ≠ 7 ∧ (D.rnd ≠ 6 ∨ fd.toNat ≤ 29)) 0x064 v

/-- The bytes of a destination code of mepi. -/
def epiBytes (D : Desc) : Nat := fmtWidth D.dst / 8

/-- The codes and block scales of mepi, with the residual and the flags (R328). -/
def epiCodes (D : Desc) (r : AccRow) (ops : DrawOps) (efr : BitVec 32) : List Byte × Chained :=
  let word (n : Nat) := AccRow.col r n
  if D.src1 = 0 ∧ D.dst = 0 then
    ((List.range 128).flatMap fun n => valBytes 4 (word n), ⟨[], efr, 0⟩)
  else
    let y (n : Nat) : Num :=
      (if D.src1 = 11 then Num.ofInt (sval 32 (word n)) else fp32.decode (word n)).flushed D.flush
    let scale (j : Nat) : Nat := blockScale D.dst ((List.range 32).map fun i => y (32 * j + i))
    let x (n : Nat) : Num := if D.scale = 1 then byBlockScale (scale (n / 32)) (y n) else y n
    let c := (List.range 4).foldl (fun (c : Chained) j =>
      convertBlock D.dst D.rnd D.flush ops (D.scale == 1) y x ((List.range 32).map (32 * j + ·)) c) ⟨[], efr, 0⟩
    let codes := c.codes.flatMap fun p => valBytes (epiBytes D) p.2
    (codes ++ (if D.scale = 1 then (List.range 4).map fun j => BitVec.ofNat 8 (scale j) else []), c)

/-- The pieces of an epilogue's destination, by sector. -/
def epiPieces (D : Desc) : List (Nat × Nat) :=
  let n := 128 * epiBytes D + (if D.scale = 1 then 4 else 0)
  (List.range ((n + 31) / 32)).map fun c => (32 * c, min 32 (n - 32 * c))

/-- Bytes written at L2 on the MTX path, by sector (R81, R328). -/
def State.writeMtx (s : State) (bs : List Byte) : List ((Nat × Nat) × Target) → State
  | [] => s
  | (p, t) :: l =>
    let u := match t with
      | .window _ => s
      | .phys x => s.l2WriteAt x.gran x.pa ((bs.drop p.1).take p.2)
    u.writeMtx bs l

/-- The poison of the granules that a row's bytes cover whole is gone (R99). -/
def State.coverRow (s : State) (ts : List ((Nat × Nat) × Target)) : State :=
  if s.poison.isEmpty then s
  else
    let pas (g : BitVec 2) : List Nat := ts.flatMap fun u => match u.2 with
      | .window _ => []
      | .phys t => if t.gran = g then (List.range u.1.2).map (t.pa + ·) else []
    [0#2, 1#2, 2#2, 3#2].foldl (fun (t : State) g => t.clearPoison g (pas g)) s

/-- The address of an accumulator row in the store: rows of 512 bytes, 64 of them an accumulator (R379;
assumption log 9). -/
def accStoreAddr (acc : AccReg) (row : Nat) : Word := BitVec.ofNat 64 (32768 * acc.toNat + 512 * row)

/-- The sum modulo 2^32 of a row's codes, each read as an unsigned integer of its width (R330, R430). -/
def codeSum (D : Desc) (bs : List Byte) : Nat :=
  let w := epiBytes D
  ((List.range 128).map fun n => bytesVal ((bs.drop (w * n)).take w)).sum % 2 ^ 32

/-- The bytes of a row as the store engine holds them. -/
def State.heldRow (s : State) (bs : List Byte) : List Byte :=
  match s.hart.trouble with
  | some (.held i flip) => bs.modify i (· ^^^ flip)
  | _ => bs

/-- What went wrong in the store engine is over. -/
def State.clearHeld (s : State) : State :=
  match s.hart.trouble with
  | some (.held ..) => { s with hart := { s.hart with trouble := none } }
  | _ => s

/-- Whether a row has a check that it does not pass (R429). -/
def State.rowFails (s : State) (acc : AccReg) (row : Nat) (D : Desc) : Bool :=
  match tget s.hart.acc (accIndex acc row) with
  | some c => !rowPasses c (D.src1 == 11)
  | none => false

/-- mepi past its probe (R328): the row is checked before any byte is written (R429), and the code checksum, formed
as it converts, against the bytes that the store engine holds (R430). -/
def State.epilogue (s : State) (acc : AccReg) (row : Nat) (base : Word) (D : Desc) (ops : DrawOps)
    (ts : List ((Nat × Nat) × Target)) : Ran :=
  let (bs, c) := epiCodes D (s.accRow acc row) ops s.hart.csr.efr
  let held := s.heldRow bs
  if s.rowFails acc row D then .stopped s 0x302 (accStoreAddr acc row)
  else if codeSum D held ≠ codeSum D bs then .stopped s.clearHeld 0x303 base
  else
    let t := ((s.clearHeld.writeMtx held ts).coverRow ts).raiseFlags c.flags
    .done (t.setCsr { t.hart.csr with efr := c.efr })

/-- The scalar operands of mepi: the row's register, the address, the descriptor, and under RND 6 the counter
operands (R328, R381). -/
def State.epiOps (s : State) (row : Row) (base fd : Reg) : List Word :=
  let v := s.x fd
  s.rowOps row ++ [s.x base, v] ++ (if (Desc.of v).rnd = 6 then [s.x (fd + 1), s.x (fd + 2)] else [])

/-- The counter operands of a queued mepi whose descriptor stands at place n. -/
def State.epiDraws (s : State) (fd : Reg) (n : Nat) : DrawOps :=
  let u := (s.qop (n + 1) (s.x (fd + 1))).toNat
  ⟨s.hart.seed, bits u 0 32, bits u 32 32, (s.qop (n + 2) (s.x (fd + 2))).toNat % 2 ^ 32⟩

/-- The cause that the store engine finds at an mepi entry, with its TVAL (R422, R429, R430). -/
def State.storeCause (s : State) (e : QEntry) : Option (Cause × Word) :=
  let t : State := { s with hart := { s.hart with replay := some e } }
  let n := if e.word.getLsbD 6 then 1 else 0
  let acc : AccReg := e.word.extractLsb' 13 3
  let row := if e.word.getLsbD 6 then (t.qop 0 0).toNat else (fld e.word 7 6).toNat
  let D := Desc.of (t.qop (n + 1) 0)
  match t.epilogue acc row (t.qop n 0) D (t.epiDraws 0 (n + 1)) [] with
  | .stopped _ c v => if isMepi e.word then some (c, v) else none
  | _ => none

/-- mepi (R320, R328). -/
def execMepi (acc : AccReg) (row : Row) (base fd : Reg) (s : State) : Host.Outcome State Fault Refusal :=
  let w := encode (.mepi acc row base fd)
  let v := s.x fd
  let D := Desc.of v
  let checks : Except Halt Unit := do
    s.boundAcc acc
    s.vcheck ⟨[], true, true, true, typeWidth s.etype == 32⟩
    epiCheck D fd v
    s.rowCheck row w
    State.engineBase (s.x base) 32
  let n := rowSlots row
  s.enterProbe .mq w (s.epiOps row base fd) false false checks fun t =>
    let b := t.qop n (t.x base)
    let E := Desc.of (t.qop (n + 1) (t.x fd))
    t.engineProbed false true b (epiPieces E) fun ts =>
      .ok (t.epilogue acc (t.qrow row) b E (t.epiDraws fd (n + 1)) ts)

/-- mrelease (R329): a pre-stage of the buffer goes with it (R190). -/
def execMrelease (tb : Bool) (s : State) : Host.Outcome State Fault Refusal :=
  s.enter .mq (encode (.mrelease tb)) [] (.ok ()) fun t => .ok (.done ((t.setTile tb none).dropStage tb))

end Sys2Proof.Machine
end

