-- ==== Sys2Proof/Machine/Save.lean ====
section
/-! DEFINITION. The save area of a hart: its image (R379 to R381), the save (R377) and the restore
(R382). -/

namespace Sys2Proof.Machine

/-! ### The image (R379 to R381) -/

/-- Bytes at an offset of the save area. -/
abbrev Piece := Nat × List Byte

/-- A region of n bytes: some content, then zeros. -/
def padTo (n : Nat) (l : List Byte) : List Byte := l ++ List.replicate (n - l.length) 0

/-- 8-byte words in order. -/
def wordsBytes (l : List Word) : List Byte := l.flatMap fun w => valBytes 8 w.toNat

/-- The code of a reason (R380). -/
def saveCode : SaveReason → Nat
  | .preempt => 0
  | .reclaim => 1
  | .join => 2
  | .yield => 3
  | .migrate => 4

/-- The header with STATE 1 (R380). -/
def State.imgHeader (s : State) (reason : SaveReason) : List Byte :=
  let h := s.hart
  valBytes 4 1 ++ valBytes 4 1 ++ valBytes 8 h.pc.toNat ++ valBytes 4 h.csr.vstart.toNat
    ++ valBytes 1 h.grant.lanes ++ valBytes 1 h.brim ++ valBytes 2 (saveCode reason)
    ++ valBytes 8 h.dirtyv.toNat ++ valBytes 8 (launchOf h.uid) ++ valBytes 8 s.time.toNat
    ++ padTo 16 (valBytes 1 h.bounds.accs)
    ++ padTo 192 (h.v.toList.flatMap fun r => valBytes 4 r.pidx)

/-- The slots of the user-level registers (R379). -/
def Csr.image (c : Csr) : List Byte :=
  padTo 256 (wordsBytes ([c.vl.setWidth 64, c.vt.setWidth 64, c.valloc.setWidth 64, c.efr.setWidth 64,
    c.fcsr.setWidth 64, c.hmode, c.pmark.setWidth 64, c.alead.setWidth 64, c.pairto.setWidth 64,
    c.cycle, c.stallv, c.stallm, c.stallc] ++ c.loopn.toList))

/-- One handle register (R379). -/
def sqImage (b : Option SqBinding) : List Byte :=
  match b with
  | some b => valBytes 4 b.handle.toNat ++ valBytes 4 1 ++ valBytes 8 b.shadow.toNat
  | none => List.replicate 16 0

/-- The barrier words (R379). -/
def Hart.barrierImage (h : Hart) : List Byte :=
  (List.finRange 16).flatMap fun n =>
    valBytes 8 (h.phase.get n % 2 ^ 63 + (h.arrived.getLsbD n.val).toNat * 2 ^ 63)

/-- The advice context (R379, R196). -/
def Adv.image (a : Adv) : List Byte :=
  padTo 256 (wordsBytes a.g.toList ++ valBytes 8 a.apc.toNat ++ valBytes 8 a.astat.toNat
    ++ valBytes 4 a.amark.toNat ++ valBytes 1 a.aprio.toNat ++ valBytes 1 a.aorder.toNat
    ++ valBytes 2 0 ++ valBytes 4 a.snapMark.toNat ++ valBytes 4 0 ++ wordsBytes a.snap.toList)

/-- A tile buffer's record (R379). -/
def tileRecord (t : Option TileBuf) : List Byte :=
  match t with
  | some t => padTo 32 (valBytes 8 t.base.toNat ++ valBytes 4 t.desc.toNat ++ valBytes 4 t.k ++ valBytes 1 1)
  | none => List.replicate 32 0

/-- The supervisor registers (R379). -/
def TrapRegs.image (t : TrapRegs) : List Byte :=
  padTo 128 (wordsBytes [t.hstat, t.tvecWord, t.tcause.setWidth 64, t.tval, t.tpc.setWidth 64 <<< 2,
    t.tstat, t.tscratch, t.ctxid.setWidth 64])

/-- One queue entry with its ORDER (R381). -/
def QEntry.image (e : QEntry) (order : Nat) : List Byte :=
  valBytes 4 e.word.toNat ++ valBytes 2 e.vt.toNat
    ++ valBytes 2 (1 + 2 * e.interrupted.toNat + 4 * e.rhold.toNat)
    ++ valBytes 4 e.vl.toNat ++ valBytes 4 order
    ++ (List.range 4).flatMap fun j => valBytes 8 (e.ops.getD j 0).toNat

/-- The image of one queue: its entries packed from the first (R381). -/
def Hart.queueImage (h : Hart) (k : QKind) : List Byte :=
  padTo (48 * k.room) ((((List.range h.queue.length).zip h.queue).filter fun p => p.2.kind == k).flatMap
    fun p => p.2.image p.1)

/-- One head of the chain (R379). -/
def Head.image (d : Head) : List Byte :=
  valBytes 4 d.m.toNat ++ valBytes 4 d.sigma.toNat ++ valBytes 4 d.alpha.toNat
    ++ valBytes 2 d.valid.toNat ++ valBytes 2 0 ++ d.s.toList.flatMap fun x => valBytes 4 x.toNat

/-- The buffer state's code (R379). -/
def ChainBuf.code : ChainBuf → Nat
  | .empty => 0
  | .scored => 1
  | .weighted => 2

/-- The chain (R379). -/
def Chain.image (c : Chain) : List Byte :=
  c.heads.toList.flatMap Head.image ++ valBytes 1 c.buf.code

/-- The bytes of a tile's image: its rows, then its scale storage (R321, R379). -/
def TileBuf.bytes (t : TileBuf) : Nat :=
  let d := t.format
  if d.src2 = 10 then t.k / 32 * 4 * 1056 else t.k * tileStride d.src2 + tileScaleBytes d.scale t.k

/-- The parts that are always written (R379). -/
def State.imgAlways (s : State) (reason : SaveReason) : List Piece :=
  let h := s.hart
  [ (0x100, wordsBytes h.x.toList), (0x200, wordsBytes h.f.toList), (0x300, h.csr.image),
    (0x400, h.sq.toList.flatMap sqImage), (0x480, h.barrierImage), (0x500, h.adv.image),
    (0x600, h.tb.toList.flatMap tileRecord), (0x680, h.trap.image), (0x800, h.journalImage),
    (0x1000, h.queueImage .viq), (0x1600, h.queueImage .vmq), (0x1C00, h.queueImage .mq),
    (0x4000, (h.k.toList.drop 1).flatMap fun m => valBytes 8192 m.toNat),
    (0, s.imgHeader reason) ]

/-- The vector registers that DIRTYV names: the bytes up to their progress index (R380). -/
def State.imgVregs (s : State) : List Piece :=
  ((List.range 32).filter s.hart.dirtyv.getLsbD).map fun n =>
    (0x20000 + 0x1000 * n, valBytes (((s.vreg n).pidx + 7) / 8) ((s.vreg n).raw 0 ((s.vreg n).pidx)))

/-- The accumulators that DIRTYV names (R379). -/
def State.imgAccs (s : State) : List Piece :=
  ((List.range s.hart.bounds.accs).filter fun n => s.hart.dirtyv.getLsbD (32 + n)).map fun n =>
    (0x40000 + 0x8000 * n,
      (List.range 64).flatMap fun r => valBytes 512 (s.accRow (BitVec.ofNat 3 n) r).toNat)

/-- The chain and the tiles that DIRTYV names (R379). -/
def State.imgRest (s : State) : List Piece :=
  (if s.hart.dirtyv.getLsbD 40 then [(0x2000, s.hart.chain.image)] else [])
    ++ ((List.finRange 2).filter fun n => s.hart.dirtyv.getLsbD (41 + n.val)).filterMap fun n =>
      (s.hart.tb.get n).map fun t => (0x80000 + 0x22000 * n.val, valBytes t.bytes t.image.toNat)

/-- Pieces written into the hart's area at L2, the header with its STATE last (R377). -/
def State.writeArea (s : State) (l : List Piece) : State :=
  match s.hart.saveIdx with
  | some i => l.foldl (fun (t : State) p => t.l2WriteAt 3 (s.myCtx.areaBase i + p.1) p.2) s
  | none => s

/-! ### The save (R377) -/

/-- What stops before a save: a wait ends at its instruction, which executes again (R63, R250, R312); a
JOIN keeps what it waits for; lanes that a reclaim took leave their content in the area; stores on their way
perform. -/
def State.settleForSave (s : State) : State :=
  let u := s.drainStores
  let t := if u.hart.reclaimed then u.loadVregs else u
  match t.hart.wait with
  | .join .. => t
  | _ => t.abandonWait

/-- The pins of staged tiles released (R379). -/
def Hart.unpinTiles (h : Hart) : Vector (Option TileBuf) 2 :=
  h.tb.map fun t => t.map fun b => { b with pins := [] }

/-- The advice requests and unused pre-stages of a hart discarded (R196). -/
def Adv.discard (a : Adv) : Adv := { a with fills := [], stages := [] }

/-- The hart in focus saved for a reason, and left in a state (R377): L1 written back in all pages, the
parts of R379 written, its lanes and its slot given up. -/
def State.saveTo (s : State) (reason : SaveReason) (st : HStatus) : State :=
  let t := s.settleForSave
  let u := t.writeBackAll t.hart.core false
  let v := u.writeArea (u.imgVregs ++ u.imgAccs ++ u.imgRest ++ u.imgAlways reason)
  { v with hart := { v.hart with
      status := st
      saved := true
      holds := false
      reclaimed := false
      required := 0
      reason := reason
      saveReq := none
      holdReq := false
      readyAt := s.time
      qwait := .none
      ibuf := []
      tlb := []
      l0 := []
      tb := v.hart.unpinTiles
      adv := v.hart.adv.discard } }

/-! ### The restore (R382) -/

/-- The 8-byte word at an offset of the area. -/
def State.areaWord (s : State) (off : Nat) : Word := BitVec.ofNat 64 (s.areaVal off 8)

/-- Whether the dispatcher refuses the area (R382). -/
def State.restoreRefused (s : State) : Bool :=
  s.areaVal 0 4 != 1 || decide (16 < s.areaVal 0x15 1)

/-- VT with its reserved bit as it reads (R223). -/
def vtFields (v : BitVec 16) : BitVec 16 := v &&& 0xFF7F

/-- The user-level registers as the area holds them, each with what its fields store of a word (R5, R382). -/
def State.loadCsr (s : State) : Csr :=
  let w (j : Nat) : Word := s.areaWord (0x300 + 8 * j)
  { vl := (w 0).setWidth 17
    vt := vtFields ((w 1).setWidth 16)
    vstart := BitVec.ofNat 17 (s.areaVal 0x10 4)
    valloc := (w 2).setWidth 32
    efr := (w 3).setWidth 32
    fcsr := fcsrWrite ((w 4).toNat % 256)
    det := (w 5).getLsbD 2
    check := checkWrite ((w 5).setWidth 2)
    pmark := (w 6).setWidth 32
    alead := (w 7).setWidth 16
    pairto := pairtoWrite ((w 8).setWidth 20)
    cycle := w 9
    stallv := w 10
    stallm := w 11
    stallc := w 12
    loopn := Vector.ofFn fun (i : Fin 4) => w (13 + i.val) }

/-- The supervisor registers as the area holds them. -/
def State.loadTrap (s : State) : TrapRegs :=
  let w (j : Nat) : Word := s.areaWord (0x680 + 8 * j)
  { priv := (w 0).getLsbD 0
    ie := (w 0).getLsbD 2
    tvec := (w 1).extractLsb' 2 62
    vectored := (w 1).setWidth 2 == 1#2
    tcause := (w 2).setWidth 10
    tval := w 3
    tpc := (w 4).extractLsb' 2 62
    vpart := (w 5).getLsbD 2
    pie := (w 5).getLsbD 1
    ppriv := (w 5).getLsbD 0
    tscratch := w 6
    ctxid := (w 7).setWidth 16 }

/-- ASTAT.STATE read back (R199). -/
def advStateOf (n : Nat) : AdvState :=
  match n with
  | 0 => .unbound
  | 1 => .running
  | 2 => .waiting
  | 3 => .halted
  | _ => .stopped

/-- The advice context as the area holds it (R196). -/
def State.loadAdv (s : State) : Adv :=
  let a := s.areaVal 0x548 8
  { s.hart.adv with
    g := Vector.ofFn fun (i : Fin 8) => s.areaWord (0x500 + 8 * i.val)
    apc := s.areaWord 0x540
    amark := BitVec.ofNat 32 (s.areaVal 0x550 4)
    aprio := BitVec.ofNat 2 (s.areaVal 0x554 1)
    aorder := BitVec.ofNat 3 (s.areaVal 0x555 1)
    dropq := BitVec.ofNat 16 (bits a 48 16)
    dropx := BitVec.ofNat 16 (bits a 32 16)
    drops := BitVec.ofNat 16 (bits a 16 16)
    stop := BitVec.ofNat 4 (bits a 4 4)
    refused := bit a 3
    st := advStateOf (bits a 0 3)
    snapMark := BitVec.ofNat 32 (s.areaVal 0x558 4)
    snap := Vector.ofFn fun (i : Fin 8) => s.areaWord (0x560 + 8 * i.val)
    fills := []
    stages := [] }

/-- A handle register as the area holds it. -/
def State.loadSq (s : State) (n : Nat) : Option SqBinding :=
  if bit (s.areaVal (0x404 + 16 * n) 4) 0 then
    some ⟨BitVec.ofNat 32 (s.areaVal (0x400 + 16 * n) 4), s.areaWord (0x408 + 16 * n)⟩
  else none

/-- A tile buffer as the area holds it; its check column is formed again from the image (R330, R379). -/
def State.loadTile (s : State) (n : Nat) : Option TileBuf :=
  let o := 0x600 + 32 * n
  if bit (s.areaVal (o + 16) 1) 0 then
    let t : TileBuf := ⟨s.areaWord o, BitVec.ofNat 32 (s.areaVal (o + 8) 4), s.areaVal (o + 12) 4, 0, []⟩
    some { t with image := BitVec.ofNat 1114112 (s.areaVal (0x80000 + 0x22000 * n) (min t.bytes 139264)) }
  else none

/-- The chain as the area holds it. -/
def State.loadChain (s : State) : Chain where
  heads := Vector.ofFn fun (i : Fin 64) =>
    let o := 0x2000 + 80 * i.val
    { m := BitVec.ofNat 32 (s.areaVal o 4)
      sigma := BitVec.ofNat 32 (s.areaVal (o + 4) 4)
      alpha := BitVec.ofNat 32 (s.areaVal (o + 8) 4)
      valid := BitVec.ofNat 16 (s.areaVal (o + 12) 2)
      s := Vector.ofFn fun (j : Fin 16) => BitVec.ofNat 32 (s.areaVal (o + 16 + 4 * j.val) 4) }
  buf := match s.areaVal 0x3400 1 with
    | 0 => .empty
    | 1 => .scored
    | _ => .weighted

/-- The accumulator rows as the area holds them, their valid bits clear (R429). -/
def State.loadAccs (s : State) : Tbl AccCell :=
  (List.range (min 8 (s.areaVal 0x30 1))).flatMap fun n =>
    (List.range 64).map fun r =>
      (64 * n + r, ⟨BitVec.ofNat 4096 (s.areaVal (0x40000 + 0x8000 * n + 512 * r) 512), none⟩)

/-- An entry of a queue image, with its ORDER; what it captured beyond four operands is kept from the
entry saved in its place. -/
def State.loadEntry (s : State) (k : QKind) (o : Nat) : Option (Nat × QEntry) :=
  let fl := s.areaVal (o + 6) 2
  if bit fl 0 then
    let order := s.areaVal (o + 12) 4
    let w : IWord := BitVec.ofNat 32 (s.areaVal o 4)
    let old := (s.hart.queue[order]?).filter fun e => e.word == w
    some (order,
      { kind := k
        word := w
        vt := vtFields (BitVec.ofNat 16 (s.areaVal (o + 4) 2))
        vl := BitVec.ofNat 17 (s.areaVal (o + 8) 4)
        ops := ((List.range 4).map fun j => s.areaWord (o + 16 + 8 * j)) ++ ((old.map fun e => e.ops.drop 4).getD [])
        valloc := (old.map (·.valloc)).getD s.hart.csr.valloc
        checked := (old.map (·.checked)).getD false
        interrupted := bit fl 1
        rhold := bit fl 2
        pc := (old.map (·.pc)).getD 0
        waited := (old.map (·.waited)).getD false
        probe := none
        data := []
        zero := (old.map (·.zero)).getD false })
  else none

/-- The queues entered again in ORDER (R382). -/
def State.loadQueue (s : State) : List QEntry :=
  let img (k : QKind) (base : Nat) : List (Nat × QEntry) :=
    (List.range k.room).filterMap fun j => s.loadEntry k (base + 48 * j)
  (sortBy (fun (a b : Nat × QEntry) => decide (a.1 < b.1))
    (img .viq 0x1000 ++ img .vmq 0x1600 ++ img .mq 0x1C00)).map (·.2)

/-- A journal entry (R381): what its command captured at issue beyond the entry is kept from the command
saved in its place. -/
def State.loadCopy (s : State) (j : Nat) : Option CopyCmd :=
  let o := 0x800 + 64 * j
  let old := (s.hart.journal ++ s.hart.copyq)[j]?
  let mk (st : CopyStatus) : CopyCmd :=
    { status := st
      word := BitVec.ofNat 32 (s.areaVal o 4)
      ops := (List.range 5).map fun i => s.areaWord (o + 8 + 8 * i)
      desc := (old.map (·.desc)).getD []
      clen := (old.map (·.clen)).getD 0
      block := (old.map (·.block)).getD 0
      issued := (old.map (·.issued)).getD s.time
      lnk := (old.map (·.lnk)).getD false
      seq := (old.map (·.seq)).getD false
      attempt := none
      failed := []
      done := s.areaVal (o + 48) 8 }
  match s.areaVal (o + 4) 4 with
  | 1 => some (mk .queued)
  | 2 => some (mk .part)
  | 3 => some (mk .faulted)
  | 4 => some (mk .cancelled)
  | _ => none

/-- Whether a journal entry is a command that goes on. -/
def CopyCmd.goesOn (c : CopyCmd) : Bool := c.status == .queued || c.status == .part

/-- Every part of R379 loaded into the hart (R382 step 2). -/
def State.loadArea (s : State) : State :=
  let h := s.hart
  let copies := (List.range 16).filterMap s.loadCopy
  let t : State := { s with hart := { h with
      pc := s.areaWord 8
      grant := if s.areaVal 0x14 1 = h.grant.lanes then h.grant else ⟨s.areaVal 0x14 1, 0⟩
      brim := s.areaVal 0x15 1
      x := Vector.ofFn fun (i : Fin 32) => s.areaWord (0x100 + 8 * i.val)
      f := Vector.ofFn fun (i : Fin 32) => s.areaWord (0x200 + 8 * i.val)
      csr := s.loadCsr
      sq := Vector.ofFn fun (i : Fin 8) => s.loadSq i.val
      arrived := BitVec.ofNat 16 (packElems 1 (fun n => s.areaVal (0x480 + 8 * n) 8 / 2 ^ 63) 16)
      phase := Vector.ofFn fun (i : Fin 16) => s.areaVal (0x480 + 8 * i.val) 8 % 2 ^ 63
      adv := s.loadAdv
      tb := Vector.ofFn fun (i : Fin 2) => s.loadTile i.val
      trap := s.loadTrap
      copyq := copies.filter CopyCmd.goesOn
      journal := copies.filter fun c => !c.goesOn
      queue := s.loadQueue
      chain := s.loadChain
      k := Vector.ofFn fun (i : Fin 8) =>
        if i = 0 then h.k.get 0 else BitVec.ofNat 65536 (s.areaVal (0x4000 + 0x2000 * (i.val - 1)) 8192)
      acc := s.loadAccs } }
  t.loadVregs

/-- A JOIN that waited ends when its child has completed: the status goes to its register (R354); a hart
whose area names another PC no longer waits. -/
def State.joinOver (s : State) (pc : Word) : State :=
  let t := s.setWait .none
  match s.hart.wait with
  | .join c d =>
    match (tget s.launches c).bind (·.status) with
    | some st => if s.hart.pc = pc then (t.setX d (BitVec.ofNat 64 st)).advance else t
    | none => t
  | _ => t

/-- The hart in focus restored into a slot of its core (R382): STATE 2, every part loaded, L1
invalidated in all pages with its advice fills cancelled (R194), DIRTYV cleared, its target raised and taken where it is free. -/
def State.restoreInto (s : State) (slot : Nat) : State :=
  let t := (s.areaState 2).loadArea
  let u := (t.invalidate t.hart.core false).cancelFills t.hart.core
  let v : State := { u with hart := { u.hart with
      status := .running
      saved := false
      slot := slot
      issuedAt := s.time
      holds := false
      reclaimed := false
      dirtyv := 0
      sample := 0
      ibuf := []
      qwait := .none
      replay := none
      required := u.hart.requiredGrant } }
  let w := (v.joinOver s.hart.pc).retarget v.hart.core
  if w.hart.noLanes || !w.canTake then w else w.relayout w.hart.target

/-- A refused restore (R382, R398): the hart is held, and its context is notified. -/
def State.refuseRestore (s : State) : State :=
  let t : State := { s with hart := { s.hart with status := .held } }
  t.notify t.hart.ctx 0x10 t.hart.uid 0 (launchOf t.hart.uid) 0

end Sys2Proof.Machine
end

