-- ==== Sys2Proof/Machine/Dispatcher.lean ====
section
/-! DEFINITION. The dispatcher's operations (R50 to R56, R384 to R398): acceptance of a launch, its
eligibility, placement and completion, the start of a hart, the choice of harts and of victims. -/

namespace Sys2Proof.Machine

/-! ### The dispatcher's own accesses -/

/-- A state in which translations are those of a context at the kernel level, with nothing cached. -/
def State.asDispatcher (s : State) (c : Nat) : State :=
  { s with hart := { Hart.reset with uid := 2 ^ 96, ctx := c } }

/-- A dispatcher's translation of a virtual address of a context; a page in migration passes it (R412). -/
def State.dispXlat (s : State) (c : Nat) (kind : Kind) (va : Word) : Option Xlat :=
  if inWindow va then none
  else match (s.asDispatcher c).xlat kind va with
    | .ok (t, _) => some t
    | .error _ => none

/-- Whether an access of the dispatcher parks (R412). -/
def State.dispParks (s : State) (c : Nat) (kind : Kind) (va : Word) : Bool :=
  match s.dispXlat c kind va with
  | some t => t.mig
  | none => false

/-- A word the dispatcher reads at L2; what it reads where nothing translates is open (assumption log 3). -/
def State.dispRead (s : State) (c : Nat) (va : Word) (n : Nat) : Nat :=
  match s.dispXlat c .read va with
  | some t => bytesVal (s.l2Bytes t.gran t.pa n)
  | none => bytesVal ((List.range n).map fun i => Config.freeByte s.free (va.toNat + i))

/-- A completion value written at L2, where it can be written (R389); at a page in migration it parks (R412). -/
def State.dispWrite (s : State) (w : ParkedWrite) : State :=
  match s.dispXlat w.ctx .write w.va with
  | some t =>
    if t.seq then s
    else if t.mig then { s with parkedCw := s.parkedCw ++ [w] }
    else s.l2WriteAt t.gran t.pa (valBytes 8 w.val.toNat)
  | none => s

/-- The completion values that parked translate again, oldest first; each is written once (R108, R413). -/
def State.replayCw (s : State) : State :=
  s.parkedCw.foldl (fun (t : State) w => t.dispWrite w) { s with parkedCw := [] }

/-! ### Launch handles -/

/-- Whether a launch's handle is valid (R353, R386): a device launch's until the launch that issued it
completes, a host queue's until it is retired. -/
def State.handleOpen (s : State) (handle : Nat) (l : Launch) : Bool :=
  match l.hostq with
  | some q => ((tget s.hqs q).map fun k => k.handles.contains handle).getD false
  | none => match l.parent with
    | some uid => ((tget s.launches (launchOf uid)).map fun p => p.status.isNone).getD false
    | none => false

/-- The launch that a value names as a handle of a context (R353, R354). -/
def State.handleOf (s : State) (c : Nat) (v : Word) : Option (Nat × Launch) :=
  match tget s.launches v.toNat with
  | some l => if l.ctx = c ∧ s.handleOpen v.toNat l then some (v.toNat, l) else none
  | none => none

/-! ### Loop tables (R50 to R52) -/

/-- The product of the trip counts of a kind; 1 when there are none. -/
def tripProduct (k : LoopKind) (l : List (LoopKind × Nat)) : Nat :=
  (l.filter fun t => t.1 == k).foldl (fun n t => n * t.2) 1

/-- The instance count (R51). -/
def instanceCount (l : List (LoopKind × Nat)) : Nat := tripProduct .dies l * tripProduct .cores l

/-- The trip counts of a kernel for an argument block (R50). -/
def State.tripsOf (s : State) (c : Nat) (k : Kernel) (args : Word) : List (LoopKind × Nat) :=
  k.loops.map fun t => (t.1, s.dispRead c (args + BitVec.ofNat 64 (8 * t.2)) 8)

/-- The first trip count whose page is in migration: the launch waits for it (R412). -/
def State.tripParks (s : State) (c : Nat) (k : Kernel) (args : Word) : Option Word :=
  (k.loops.map fun t => args + BitVec.ofNat 64 (8 * t.2)).find? (s.dispParks c .read)

/-- Whether a loop table is valid (R51, R64): a paired kernel runs its cores-level instances in pairs. A paired kernel
without a cores level has one instance and no pair; the manual names no such launch, and the model refuses it too
(assumption log 28). -/
def tripsOk (paired : Bool) (l : List (LoopKind × Nat)) : Bool :=
  (l.all fun t => decide (t.2 < 2 ^ 32)) && decide (instanceCount l < 2 ^ 32)
    && (!paired || ((l.any fun t => t.1 == .cores) && l.all fun t => t.1 != .cores || t.2 % 2 == 0))

/-- The index of an instance at a level (R51, R52): levels of one kind combine row-major. -/
def levelIndex (l : List (LoopKind × Nat)) (inst n : Nat) : Nat :=
  match l[n]? with
  | none => 0
  | some (k, trip) =>
    let pc := tripProduct .cores l
    let i := match k with
      | .cores => inst % pc
      | .dies => inst / pc
      | .temporal => 0
    if k = .temporal then trip else i / tripProduct k (l.drop (n + 1)) % trip

/-! ### Acceptance (R53, R353, R384, R387) -/

/-- What a launch command names (R353, R385). -/
structure LaunchReq where
  ctx      : Nat
  die      : Nat
  kzhdr    : Word
  args     : Word
  ctl      : Word
  after    : Word
  parent   : Option Nat
  hostq    : Option Nat
  det      : Bool
  cwAddr   : Word
  cwVal    : Word
  waitAddr : Word
  waitVal  : Nat

/-- The answers of R353. -/
def launchBusy : Word := BitVec.allOnes 64
/-- Invalid loop table. -/
def launchBadLoop : Word := BitVec.allOnes 64 - 1
/-- Invalid descriptor. -/
def launchBadDesc : Word := BitVec.allOnes 64 - 2

/-- Whether a launch still stands in its die's queue: not all of its instances are placed (R384). -/
def Launch.queued (l : Launch) : Bool :=
  l.place == .queue && l.status.isNone && !(l.eligible && decide (l.count ≤ l.started.length))

/-- The launches in a die's queue, of one context or of all. -/
def State.queueCount (s : State) (die : Nat) (c : Option Nat) : Nat :=
  (s.launches.filter fun (_, l) => l.die == die && l.queued && (c.isNone || c == some l.ctx)).length

/-- Whether a die's queue has room for a context (R384). -/
def State.queueRoom (s : State) (die c : Nat) : Bool :=
  decide (s.queueCount die none < 256 ∧ s.queueCount die (some c) < 64)

/-- Whether a context's overflow ring holds entries (R387). -/
def Ctx.ringUsed (k : Ctx) : Nat := k.ringTail - k.ringHead

/-- How the advice of a kernel is bound (R197). -/
def Kernel.binding (k : Kernel) : Binding :=
  if k.advice = 0 then .none else if k.digestOk && k.advOk then .bound else .refused

/-- The fields of CTL in range (R353). -/
def ctlOk (v : Word) : Bool :=
  !bit v.toNat 7 && bits v.toNat 12 4 == 0 && bits v.toNat 24 40 == 0 && decide (bits v.toNat 16 8 ≤ 64)

/-- The record of an accepted launch (R53). -/
def State.launchRecord (s : State) (r : LaunchReq) (k : Kernel) (trips : List (LoopKind × Nat)) (ring : Bool) :
    Launch :=
  let c := s.ctx r.ctx
  { ctx := r.ctx
    die := r.die
    kzhdr := r.kzhdr.toNat
    kernel := k
    args := r.args
    prio := bits r.ctl.toNat 0 6
    det := r.det || r.ctl.getLsbD 6
    dieMask := r.ctl.extractLsb' 8 4
    perDie := bits r.ctl.toNat 16 8
    after := r.after.toNat
    seed := c.seed
    brim := c.vlcap.toNat
    binding := k.binding
    cwAddr := r.cwAddr.toNat
    cwVal := r.cwVal
    waitAddr := r.waitAddr.toNat
    waitVal := r.waitVal
    trips := trips
    count := instanceCount trips
    parent := r.parent
    hostq := r.hostq
    accepted := s.nextLaunch
    place := if ring then .ring else .queue
    eligible := false
    eligAt := 0
    cores := []
    started := []
    exits := 0
    boost := 0
    waitFrom := s.time
    status := none
    doneAt := 0 }

/-- The OP 0 entry of the overflow ring (R387). -/
def LaunchReq.ringEntry (r : LaunchReq) : List Byte :=
  wordsBytes [r.kzhdr, r.args, r.ctl, r.after, 0, 0, 0, 0]

/-- A launch accepted: its record, its handle, its refusal counted (R53, R197). Handles count the acceptances of the whole
device (R353 gives their range only; DESIGN CHOICE, assumption log 93). -/
def State.enqueueLaunch (s : State) (r : LaunchReq) (k : Kernel) (trips : List (LoopKind × Nat)) (ring : Bool) :
    Word × State :=
  let h := s.nextLaunch
  let c := s.ctx r.ctx
  let c1 := if k.binding = .refused ∧ c.abrefuse ≠ BitVec.allOnes 64 then { c with abrefuse := c.abrefuse + 1 } else c
  let t := ({ s with nextLaunch := h + 1 } : State).setLaunch h (s.launchRecord r k trips ring)
  if ring then
    let n := 2 ^ c.ringLog
    (BitVec.ofNat 64 h, (t.l2WriteAt 3 (c.ringBase + 64 * (c.ringTail % n)) r.ringEntry).setCtx r.ctx
      { c1 with ringTail := c.ringTail + 1 })
  else (BitVec.ofNat 64 h, t.setCtx r.ctx c1)

/-- The answer to a launch, and what it changes (R51, R64, R353, R384, R387). -/
def State.acceptLaunch (s : State) (r : LaunchReq) : Word × State :=
  let c := s.ctx r.ctx
  match tget c.kernels r.kzhdr.toNat with
  | none => (launchBadDesc, s)
  | some k =>
    if !ctlOk r.ctl || (r.after != 0 && (s.handleOf r.ctx r.after).isNone)
        || r.cwAddr.toNat % 8 != 0 || r.waitAddr.toNat % 8 != 0 then (launchBadDesc, s)
    else
      let trips := s.tripsOf r.ctx k r.args
      if !tripsOk k.bounds.paired trips then (launchBadLoop, s)
      else if s.queueRoom r.die r.ctx && c.ringUsed == 0 then s.enqueueLaunch r k trips false
      else if c.ringBase != 0 && decide (c.ringUsed < 2 ^ c.ringLog) then s.enqueueLaunch r k trips true
      else (launchBusy, s)

/-! ### Completion (R389, R390) -/

/-- Harts asleep in JOIN on a launch become ready (R56, R63, R394). -/
def State.wakeJoins (s : State) (handle : Nat) : State :=
  s.mapHarts fun h =>
    match h.wait with
    | .join c _ => if c = handle ∧ h.status = .joinSleep then { h with status := .ready, readyAt := s.time } else h
    | _ => h

/-- A launch ends with a status: its internal completion word, then CWVAL (R389, R390). -/
def State.endWith (s : State) (handle status : Nat) : State :=
  match tget s.launches handle with
  | none => s
  | some l =>
    if l.status.isSome then s
    else
      let t := (s.setLaunch handle { l with status := some status, doneAt := s.time }).wakeJoins handle
      if l.cwAddr = 0 then t else t.dispWrite ⟨l.ctx, BitVec.ofNat 64 l.cwAddr, l.cwVal⟩

/-! ### Eligibility and placement (R388, R391) -/

/-- The cores of a partition on a die, ascending (R447, R8). -/
def partCores (p : Partition) (die : Nat) : List Nat :=
  (List.range 64).filterMap fun i =>
    let c := 64 * die + i
    if p.hamlets.getLsbD (hamletOf c) then some c else none

/-- The harts assigned to a core, saved or resident (R391). -/
def State.assignedTo (s : State) (core : Nat) : List Hart :=
  s.harts.filter fun h => h.core == core && h.status != .exited

/-- The cores of a die's part of a placement (R391): the least loaded, then the lowest; whole pairs for a
paired kernel. -/
def State.pickCores (s : State) (cs : List Nat) (n : Nat) (paired : Bool) : List Nat :=
  let load (c : Nat) := (s.assignedTo c).length
  let asc := sortBy (fun (a b : Nat) => decide (a < b))
  if paired then
    let w (c : Nat) := load c + load (c + 1)
    asc (((sortBy (fun (a b : Nat) => decide (w a < w b)) (cs.filter fun c => c % 2 == 0)).take (n / 2)).flatMap
      fun c => [c, c + 1])
  else asc ((sortBy (fun (a b : Nat) => decide (load a < load b)) cs).take n)

/-- The placement of a launch (R391): the cores of each die, none where no die lies in the partition. -/
def State.placement (s : State) (l : Launch) : List (List Nat) :=
  match s.partition l.ctx with
  | none => []
  | some p =>
    let dies := (List.range 4).filter fun d =>
      (l.dieMask == 0 || l.dieMask.getLsbD d) && !(partCores p d).isEmpty
    let D := min dies.length (tripProduct .dies l.trips)
    let want := if l.perDie = 0 then tripProduct .cores l.trips else l.perDie
    (dies.take D).map fun d =>
      let cs := partCores p d
      let n := min want cs.length
      let paired := l.kernel.bounds.paired
      s.pickCores cs (if paired then n + n % 2 else n) paired

/-- Whether an accepted launch meets its dependences (R388); a WAITADDR word in a page in migration is not read yet
(R412). -/
def State.dependencesMet (s : State) (l : Launch) : Bool :=
  (match tget s.launches l.after with
    | some a => a.status.isSome
    | none => true)
  && (l.waitAddr == 0 || (let a := BitVec.ofNat 64 l.waitAddr
    !s.dispParks l.ctx .read a && decide (l.waitVal ≤ s.dispRead l.ctx a 8)))

/-- A launch in its die's queue becomes eligible where it can, and its placement is fixed; without
instances or without a die it completes at once (R388 to R391). -/
def State.makeEligible (s : State) (handle : Nat) : State :=
  match tget s.launches handle with
  | none => s
  | some l =>
    if l.status.isNone && !l.eligible && l.place == .queue && s.dependencesMet l then
      let l1 := { l with eligible := true, eligAt := s.time, waitFrom := s.time, cores := s.placement l }
      let t := s.setLaunch handle l1
      if l.count = 0 then t.endWith handle 0
      else if l1.cores.isEmpty then t.endWith handle 3
      else t
    else s

/-- Every waiting launch's dependences looked at once (R388). -/
def State.pollOnce (s : State) : State := s.launches.foldl (fun (t : State) p => t.makeEligible p.1) s

/-- The dependences of the waiting launches, again after each completion that this itself causes (R388). -/
def State.pollLaunches (s : State) : State := s.launches.foldl (fun (t : State) _ => t.pollOnce) s

/-- A launch completes with a status; every waiting launch is looked at again (R56, R388, R389). -/
def State.completeLaunch (s : State) (handle status : Nat) : State := (s.endWith handle status).pollLaunches

/-- The core that an instance is assigned to (R52). -/
def Launch.coreOf (l : Launch) (inst : Nat) : Option Nat :=
  let pc := tripProduct .cores l.trips
  match l.cores[inst / pc % max 1 l.cores.length]? with
  | some part => part[inst % pc % max 1 part.length]?
  | none => none

/-! ### Starting a hart (R54) -/

/-- The lowest free save area of a context (R377). -/
def Ctx.freeArea (k : Ctx) : Option Nat :=
  (List.range (min (k.areas.length + 1) k.poolCnt.toNat)).find? fun i => !k.areas.contains i

/-- The user-level registers of a hart at its start (R54). -/
def Launch.startCsr (l : Launch) (inst : Nat) : Csr :=
  { Csr.reset with
    det := l.det
    loopn := Vector.ofFn fun (n : Fin 4) => BitVec.ofNat 64 (levelIndex l.trips inst n.val) }

/-- The supervisor registers of a hart at its start (R372, R416). -/
def Ctx.startTrap (k : Ctx) (c : Nat) : TrapRegs :=
  { TrapRegs.reset with
    ie := true
    tvec := k.tvec.extractLsb' 2 62
    vectored := k.tvec.setWidth 2 == 1#2
    ctxid := BitVec.ofNat 16 c }

/-- The advice context of a hart at its start (R187, R197, R199). -/
def Launch.startAdv (l : Launch) : Adv :=
  match l.binding with
  | .bound => { Adv.reset with
      st := .running, apc := l.kernel.advice + 64, code := l.kernel.advice + 64, codeSize := l.kernel.advSize }
  | .refused => { Adv.reset with refused := true }
  | .none => Adv.reset

/-- A hart at its start (R54): kp, hp and sp, and what the launch record fixes; vector registers,
accumulators and scratchpad hold undefined values under fresh tags. -/
def State.newHart (s : State) (handle : Nat) (l : Launch) (inst core slot area : Nat) : Hart :=
  let k := s.ctx l.ctx
  let hp := k.hlbase.setWidth 64 * 65536 + BitVec.ofNat 64 (65536 * area)
  { Hart.reset with
    uid := handle * 2 ^ 32 + inst
    ctx := l.ctx
    core := core
    slot := slot
    status := .running
    issuedAt := s.time
    saveIdx := some area
    pc := l.kernel.text
    x := (((Vector.replicate 32 0).set 2 (hp + 65536)).set 3 l.args).set 4 hp
    v := Vector.ofFn fun (i : Fin 32) => VReg.undef (s.free * 32 + i.val)
    csr := l.startCsr inst
    trap := k.startTrap l.ctx
    bounds := l.kernel.bounds
    brim := l.brim
    seed := l.seed
    accTag := s.free
    scrTag := s.free
    adv := l.startAdv }

/-- The harts that count as resident on a core (R392): those in its slots, and saved harts that declare scratchpad
bytes. -/
def Hart.counts (h : Hart) : Bool := h.inSlot || (h.status != .exited && h.bounds.scratch != 0)

/-- The split of a core before a hart that declares some bytes is issued (R78): it stays while a resident hart
declares bytes; otherwise the model takes none, or all that may be given, so that later harts fit (assumption log
29). L1 is written back and empty where the scratchpad grows. -/
def State.splitCore (s : State) (core uid scratch : Nat) : State :=
  if s.harts.any fun h => h.core == core && h.uid != uid && h.status != .exited && h.bounds.scratch != 0 then s
  else
    let n := if scratch = 0 then 0 else 7
    let t := if (s.core core).split < n then s.invalidate core false else s
    t.setCore core { t.core core with split := n }

/-- The table of a context loaded into a core that does not hold it (R410), and the split set (R78), before a hart is
issued. -/
def State.readyCore (s : State) (core c uid scratch : Nat) : State :=
  (if (s.core core).vttCtx = some c then s else s.vttReload core c).splitCore core uid scratch

/-- Table storage in error, where a core loads a context's table before it issues a hart: the hart takes 0x305 at its
first instruction (R407, R431). -/
def State.loadTrouble (s : State) (core c : Nat) : Option (Cause × Word) :=
  if (s.core core).vttCtx = some c then none
  else match s.tableCheck (s.ctx c).vttBase 131072 with
    | .error (.trap x v) => some (x, v)
    | _ => none

/-- The trap of the table that was loaded for the hart in focus. -/
def State.takeTrouble (s : State) (x : Option (Cause × Word)) : State :=
  match x with
  | some (c, v) => s.takeTrap c v s.hart.pc s.hart.partial?
  | none => s

/-- An instance starts on a core (R54, R377): its hart comes into focus, and its start is an acquire (R104, R111,
R194). -/
def State.startHart (s : State) (handle inst core slot : Nat) : State :=
  match tget s.launches handle with
  | none => s
  | some l =>
    let k := s.ctx l.ctx
    match k.freeArea with
    | none => s
    | some area =>
      let h := s.newHart handle l inst core slot area
      let t := (s.readyCore core l.ctx h.uid l.kernel.bounds.scratch).bumpFree
      let u := (t.setCtx l.ctx { k with areas := area :: k.areas }).setLaunch handle
        { l with started := inst :: l.started, boost := 0 }
      let v : State := { u with hart := h, others := insertHart u.hart u.others }
      ((((v.invalidate core false).cancelFills core).areaState 2).retarget core).takeTrouble (s.loadTrouble core l.ctx)

/-! ### Candidates (R393) -/

/-- A candidate of a core: a saved ready hart or an unstarted instance; for a paired kernel, the pair of
an even instance and the next. -/
structure Cand where
  handle   : Nat
  inst     : Nat
  prio     : Nat
  readyAt  : Word
  saved    : Bool
  paired   : Bool
  ctx      : Nat
  bounds   : Bounds
deriving DecidableEq, Repr

/-- Whether a candidate ranks before another (R393). -/
def Cand.before (a b : Cand) : Bool :=
  if a.prio ≠ b.prio then decide (b.prio < a.prio)
  else if a.readyAt ≠ b.readyAt then decide (a.readyAt.toNat < b.readyAt.toNat)
  else if a.handle ≠ b.handle then decide (a.handle < b.handle)
  else decide (a.inst < b.inst)

/-- The identities a candidate issues. -/
def Cand.uids (c : Cand) : List Nat :=
  let u := c.handle * 2 ^ 32 + c.inst
  if c.paired then [u, u + 1] else [u]

/-- The cores a candidate occupies. -/
def Cand.cores (c : Cand) (core : Nat) : List Nat :=
  if c.paired then [core / 2 * 2, core / 2 * 2 + 1] else [core]

/-- The ready harts of a core as candidates; a pair counts when both of its harts are ready. -/
def State.readyCands (s : State) (core : Nat) : List Cand :=
  (s.harts.filter fun h => h.core == core && h.status == .ready).filterMap fun h =>
    match tget s.launches (launchOf h.uid) with
    | none => none
    | some l =>
      let other := s.findHart (partnerOf h.uid)
      let p := l.kernel.bounds.paired && (other.map fun g => g.status != .exited).getD false
      let at_ := match other with
        | some g => if p ∧ h.readyAt.toNat < g.readyAt.toNat then g.readyAt else h.readyAt
        | none => h.readyAt
      if p && !((other.map fun g => g.status == .ready).getD false) then none
      else some
        { handle := launchOf h.uid
          inst := if p then instOf h.uid / 2 * 2 else instOf h.uid
          prio := l.effective
          readyAt := at_
          saved := true
          paired := p
          ctx := h.ctx
          bounds := h.bounds }

/-- The lowest unstarted instances of a launch on a core, from an index on: at most k of them. -/
def Launch.nextInsts (l : Launch) (core : Nat) : Nat → Nat → Nat → List Nat
  | 0, _, _ => []
  | _, 0, _ => []
  | n + 1, k + 1, i =>
    if !l.started.contains i && l.coreOf i == some core then i :: l.nextInsts core n k (i + 1)
    else l.nextInsts core n (k + 1) (i + 1)

/-- The unstarted instances of eligible launches as candidates of a core: the first five of each launch, one more than
the slots that saves may be freeing. -/
def State.newCands (s : State) (core : Nat) : List Cand :=
  s.launches.flatMap fun (handle, l) =>
    if l.eligible && l.status.isNone then
      (l.nextInsts core l.count 5 0).map fun i =>
        let p := l.kernel.bounds.paired
        { handle := handle
          inst := if p then i / 2 * 2 else i
          prio := l.effective
          readyAt := l.eligAt
          saved := false
          paired := p
          ctx := l.ctx
          bounds := l.kernel.bounds }
    else []

/-- The candidates of a core, best first (R393). -/
def State.cands (s : State) (core : Nat) : List Cand :=
  sortBy Cand.before (s.readyCands core ++ s.newCands core)

/-! ### Fitting (R43, R78, R392, R410) -/

/-- The harts that count on a core, apart from a candidate's own. -/
def State.countedOn (s : State) (core : Nat) (c : Cand) : List Hart :=
  s.harts.filter fun h => h.core == core && h.counts && !c.uids.contains h.uid

/-- Whether a candidate's accumulators and scratchpad bytes fit a core alongside every hart assigned there, saved or
resident (R391, R392). -/
def State.fitsCore (s : State) (c : Cand) (core : Nat) : Bool :=
  let l := (s.assignedTo core).filter fun h => !c.uids.contains h.uid
  decide ((l.map fun h => h.bounds.accs).sum + c.bounds.accs ≤ 8
    ∧ (l.map fun h => h.bounds.scratch).sum + c.bounds.scratch ≤ 3670016)

/-- Whether a candidate fits all of its cores. -/
def State.fits (s : State) (core : Nat) (c : Cand) : Bool := (c.cores core).all (s.fitsCore c)

/-- Whether a core may take a hart of the candidate's context (R410). -/
def State.tableOk (s : State) (c : Cand) (core : Nat) : Bool :=
  (s.core core).vttCtx == some c.ctx || (s.countedOn core c).all fun h => h.ctx == c.ctx

/-- The occupant of a slot. -/
def State.occupant (s : State) (core slot : Nat) : Option Hart :=
  s.harts.find? fun h => h.core == core && h.slot == slot && h.inSlot

/-- The lowest slot free on all of some cores (R394). -/
def State.freeSlot (s : State) (cs : List Nat) : Option Nat :=
  (List.range 4).find? fun n => cs.all fun c => (s.occupant c n).isNone

/-- Whether the save pool has areas for a candidate's new harts (R377, R398). -/
def State.poolOk (s : State) (c : Cand) : Bool :=
  c.saved || decide ((s.ctx c.ctx).areas.length + c.uids.length ≤ (s.ctx c.ctx).poolCnt.toNat)

/-- Whether the best-ranked candidate of a core does not fit (R392). -/
def State.blockedCore (s : State) (core : Nat) : Bool :=
  match s.cands core with
  | c :: _ => !s.fits core c
  | [] => false

/-- The candidates of a core that may be issued to it, best first (R377, R392, R410): while the best-ranked of a core
does not fit, none that declares accumulators or scratchpad bytes goes to that core. -/
def State.eligibleCands (s : State) (core : Nat) : List Cand :=
  (s.cands core).filter fun c => s.fits core c && s.poolOk c && (c.cores core).all (s.tableOk c)
    && !((c.bounds.accs != 0 || c.bounds.scratch != 0) && (c.cores core).any s.blockedCore)

/-- The candidate that a free slot goes to (R394). -/
def State.pick (s : State) (core : Nat) : Option Cand :=
  (s.eligibleCands core).find? fun c => (s.freeSlot (c.cores core)).isSome

/-! ### Issue -/

/-- A launch returns to its own priority as one of its harts is issued (R70). -/
def State.unboost (s : State) (handle : Nat) : State :=
  match tget s.launches handle with
  | some l => s.setLaunch handle { l with boost := 0 }
  | none => s

/-- A saved hart resumed: its table and split stand on its core, and it is restored or refused (R382). -/
def State.resumeFocus (s : State) (slot : Nat) : State :=
  if s.restoreRefused then s.refuseRestore
  else
    let t := (s.readyCore s.hart.core s.hart.ctx s.hart.uid s.hart.bounds.scratch).unboost (launchOf s.hart.uid)
    (t.restoreInto slot).takeTrouble (s.loadTrouble s.hart.core s.hart.ctx)

/-- One hart of a candidate issued. -/
def State.issueOne (s : State) (c : Cand) (slot : Nat) (uid : Nat) : State :=
  if c.saved then s.onOther uid fun t => t.resumeFocus slot
  else match (tget s.launches c.handle).bind fun l => l.coreOf (instOf uid) with
    | some core =>
      let f := s.hart.uid
      let t := s.startHart c.handle (instOf uid) core slot
      (t.focus f).getD t
    | none => s

/-- A candidate issued to a slot: both harts of a pair (R65, R394). -/
def State.issue (s : State) (c : Cand) (slot : Nat) : State :=
  c.uids.foldl (fun (t : State) uid => t.issueOne c slot uid) s

/-! ### Victims (R393, R394) -/

/-- The scheduling quantum in ns (R393). -/
def State.quantum (s : State) : Nat := s.mgmt.quantumUs * 1000

/-- Whether an occupant ranks before another as a victim (R393). -/
def State.victimBefore (s : State) (a b : Hart) : Bool :=
  let rank (h : Hart) : Nat := if h.status = .sleeping ∨ h.status = .laneWaiting then 0 else 1
  if rank a ≠ rank b then decide (rank a < rank b)
  else if s.priority a ≠ s.priority b then decide (s.priority a < s.priority b)
  else if a.issuedAt ≠ b.issuedAt then decide (a.issuedAt.toNat < b.issuedAt.toNat)
  else decide (b.slot < a.slot)

/-- Whether a candidate may displace an occupant: by priority after Q/4, or at a tick an equal one after
Q/2 (R394). -/
def State.mayDisplace (s : State) (c : Cand) (tick : Bool) (h : Hart) : Bool :=
  let ran := (s.time - h.issuedAt).toNat
  decide (s.priority h < c.prio ∧ s.quantum / 4 ≤ ran)
    || (tick && decide (s.priority h = c.prio ∧ s.quantum / 2 ≤ ran))

/-- The occupants of a core. -/
def State.occupants (s : State) (core : Nat) : List Hart :=
  s.harts.filter fun h => h.core == core && h.inSlot

/-- The victims a candidate takes: the best-ranked that it may displace; for a pair, the occupants of the
slot whose better-priority occupant has the lowest priority, then the lower slot (R394). -/
def State.victims (s : State) (core : Nat) (c : Cand) (tick : Bool) : List Nat :=
  if c.paired then
    let occ (n : Nat) : List Hart := (c.cores core).filterMap fun k => s.occupant k n
    let worst (n : Nat) : Nat := (occ n).foldl (fun m h => max m (s.priority h)) 0
    match sortBy (fun (a b : Nat) => decide (worst a < worst b))
        ((List.range 4).filter fun n => (occ n).all fun h => h.saveReq.isNone && s.mayDisplace c tick h) with
    | [] => []
    | n :: _ => (occ n).map (·.uid)
  else match (sortBy s.victimBefore ((s.occupants core).filter fun h => h.saveReq.isNone)).find?
      (s.mayDisplace c tick) with
    | some h => [h.uid]
    | none => []

/-- Whether a hart belongs to a paired kernel. -/
def State.pairedHart (s : State) (uid : Nat) : Bool :=
  ((tget s.launches (launchOf uid)).map fun l => l.kernel.bounds.paired).getD false

/-- A hart and, for a paired kernel, its partner (R65). -/
def State.withPartner (s : State) (uid : Nat) : List Nat :=
  if s.pairedHart uid then [uid, partnerOf uid] else [uid]

/-- A save decided for a hart and its partner (R394); a save that was already decided stands. -/
def State.requestSave (s : State) (uid : Nat) (r : SaveReason) : State :=
  (s.withPartner uid).foldl (fun (t : State) u =>
    t.modHart u fun h =>
      if h.inSlot && h.saveReq.isNone then { h with saveReq := some r, saveFrom := s.time } else h) s

/-- The best candidate that no slot is on its way to: each occupant already asked to leave makes room for one. -/
def State.nextCand (s : State) (core : Nat) : Option Cand :=
  ((s.eligibleCands core).drop ((s.occupants core).filter fun h => h.saveReq.isSome).length).head?

/-- One action of a core's dispatcher (R394): the best candidate that fits goes to the lowest free slot; with no
slot free, the best candidate's victim is stopped. -/
def State.coreAct (s : State) (core : Nat) (tick : Bool) : State :=
  match s.pick core with
  | some c =>
    match s.freeSlot (c.cores core) with
    | some n => s.issue c n
    | none => s
  | none =>
    match s.nextCand core with
    | none => s
    | some c =>
      if (s.freeSlot (c.cores core)).isSome then s
      else (s.victims core c tick).foldl (fun (t : State) u => t.requestSave u .preempt) s

/-! ### Saves -/

/-- What leaving its slot does for a hart's launch and core: the wait of R70 begins when no hart of the
launch runs, and the lane targets change (R397). -/
def State.afterLeave (s : State) (core handle : Nat) : State :=
  let t := match tget s.launches handle with
    | some l =>
      if s.harts.any fun h => launchOf h.uid == handle && h.inSlot then s
      else s.setLaunch handle { l with waitFrom := s.time }
    | none => s
  t.retarget core

/-- The hart in focus saved and out of its slot (R377, R394); a requested hold leaves it held (R386). -/
def State.saveOut (s : State) (r : SaveReason) (st : HStatus) : State :=
  (s.saveTo r (if s.hart.holdReq then .held else st)).afterLeave s.hart.core (launchOf s.hart.uid)

/-- The save that was decided for the hart in focus (R377). -/
def State.saveNow (s : State) (r : SaveReason) : State := s.saveOut r .ready

end Sys2Proof.Machine
end

