-- ==== Sys2Proof/Machine/DispatchEvents.lean ====
section
/-! DEFINITION. The dispatcher's steps (R63, R70, R377, R382, R387, R388, R394). -/

namespace Sys2Proof.Machine

/-! ### Queues and dependences -/

/-- The oldest launch of a context in its overflow ring (R387). -/
def State.ringHead (s : State) (c : Nat) : Option (Nat × Launch) :=
  s.launches.find? fun (_, l) => l.ctx == c && l.place == .ring

/-- The entry at the ring's head returns to its die's queue, where that has room (R387). -/
def State.ringReturn (s : State) (c : Nat) : State :=
  match s.ringHead c with
  | none => s
  | some (h, l) =>
    if s.queueRoom l.die c then
      let k := s.ctx c
      (s.setLaunch h { l with place := .queue }).setCtx c { k with ringHead := k.ringHead + 1 }
    else s

/-- OVERFLOW_RING_RETURN (R387). -/
def execOverflowRingReturn (ctx : Nat) (s : State) : Host.Outcome State Fault Refusal :=
  .next (s.ringReturn ctx)

/-- LAUNCH_ELIGIBLE (R388, R391). -/
def execLaunchEligible (handle : Nat) (s : State) : Host.Outcome State Fault Refusal :=
  .next (s.makeEligible handle).pollLaunches

/-- WAITADDR_POLL: the WAITADDR words of the waiting launches are read again (R388). -/
def execWaitaddrPoll (s : State) : Host.Outcome State Fault Refusal := .next s.pollLaunches

/-! ### The choice of harts -/

/-- HART_ISSUE: the dispatcher of a core acts on a free slot, a new candidate or a change of priority
(R394). -/
def execHartIssue (core : Nat) (s : State) : Host.Outcome State Fault Refusal :=
  .next (s.coreAct core false)

/-- All that a core's dispatcher does at one moment, one action at a time: free slots filled, and victims stopped for
candidates that stand above them (R394). -/
def State.actCore (s : State) (core : Nat) : State :=
  (List.range 8).foldl (fun (t : State) _ => t.coreAct core false) s

/-- Whether a hart waits for lanes. -/
def Hart.wantsLanes (h : Hart) : Bool := h.inSlot && (h.wait == .lanes || h.qwait == .lanes)

/-- The holders whose lanes a hart's target needs, of its priority or a lower one (R69). -/
def State.inTheWay (s : State) (h : Hart) : List Hart :=
  s.harts.filter fun g => g.core == h.core && g.uid != h.uid && g.inSlot && g.holds && g.grant.meets h.target
    && decide (s.priority g ≤ s.priority h)

/-- Whether no ready candidate of its core stands above a hart. -/
def State.topReady (s : State) (h : Hart) : Bool := (s.cands h.core).all fun c => decide (c.prio ≤ s.priority h)

/-- The lane-waiting harts of a core at its highest ready priority, once a quarter of a quantum has passed, receive
their blocks: the holders in the way are stopped (R69; the moment is the model's, assumption log 31). -/
def State.freeBlocks (s : State) (core : Nat) : State :=
  ((s.occupants core).filter fun h =>
    h.wantsLanes && s.topReady h && decide (s.quantum / 4 ≤ (s.time - h.sleepAt).toNat)).foldl
    (fun (t : State) h => (t.inTheWay h).foldl (fun (u : State) g => u.requestSave g.uid .preempt) t) s

/-- A tick of a core, once Q/2 has passed since its last one (R394): what reached the dispatcher at the same moment
comes first, completions, slots, then new candidates (R398). -/
def State.tick (s : State) (core : Nat) : State :=
  let k := s.core core
  if s.quantum / 2 ≤ (s.time - k.tickAt).toNat then
    let t := ((s.setCore core { k with tickAt := s.time }).actCore core).pollLaunches
    ((t.actCore core).freeBlocks core).coreAct core true
  else s

/-- DISPATCH_TICK (R394). -/
def execDispatchTick (core : Nat) (s : State) : Host.Outcome State Fault Refusal :=
  .next (s.tick core)

/-- A waiting launch's priority rises by a level for each 2 ms without a hart running, up to 8 (R70). -/
def State.age (s : State) (handle : Nat) : State :=
  match tget s.launches handle with
  | none => s
  | some l =>
    if l.eligible && l.status.isNone && decide (l.boost < 8)
        && !(s.harts.any fun h => launchOf h.uid == handle && h.inSlot)
        && decide (2000000 * (l.boost + 1) ≤ (s.time - l.waitFrom).toNat) then
      s.setLaunch handle { l with boost := l.boost + 1 }
    else s

/-- PRIORITY_AGING (R70). -/
def execPriorityAging (handle : Nat) (s : State) : Host.Outcome State Fault Refusal :=
  .next (s.age handle)

/-! ### Saves and restores -/

/-- The save that the dispatcher decided on for a reason, with the partner's (R65, R377). -/
def State.saveAsked (s : State) (r : SaveReason) : State :=
  if s.hart.saveReq = some r ∧ s.hart.saved = false then
    let t := s.saveNow r
    if t.pairedHart t.hart.uid then
      t.onOther (partnerOf t.hart.uid) fun u =>
        if u.hart.saveReq.isSome && !u.hart.saved then u.saveNow r else u
    else t
  else s

/-- HART_SAVE (R377). -/
def execHartSave (uid : Nat) (reason : SaveReason) (s : State) : Host.Outcome State Fault Refusal :=
  onHart uid s fun t => t.saveAsked reason

/-- HART_RESTORE: a saved hart, the best candidate that fits its core, is restored into the lowest free
slot, or refused (R382, R394). -/
def State.restoreBest (s : State) (uid : Nat) : State :=
  let core := s.hart.core
  match s.pick core with
  | some c =>
    if c.saved && c.uids.contains uid then
      match s.freeSlot (c.cores core) with
      | some n => s.issue c n
      | none => s
    else s
  | none => s

/-- HART_RESTORE (R382). -/
def execHartRestore (uid : Nat) (s : State) : Host.Outcome State Fault Refusal :=
  onHart uid s fun t => t.restoreBest uid

end Sys2Proof.Machine
end

