-- ==== Sys2Proof/Machine/HartEvents.lean ====
section
/-! DEFINITION. The steps without a word that a hart takes: full queues, lanes, sleeps, interrupts,
reliability causes of queued work, context registers and parked accesses (R37, R46 to R49, R249, R262,
R371, R413, R420, R428). -/

namespace Sys2Proof.Machine

/-- QUEUE_ROOM_RESUME: a front end stopped at a full queue goes on once an entry is free (R37). -/
def execQueueRoomResume (uid : Nat) (s : State) : Host.Outcome State Fault Refusal :=
  onHart uid s fun t =>
    match t.hart.wait with
    | .room q => if t.hart.hasRoom q then t.setWait .none else t
    | _ => t

/-! ### Lanes -/

/-- Whether a waiting hart's queues allow the block to change its VLMAX now (R47): their entries drain
first, except where the lanes were taken from under them. -/
def Hart.mayRelayout (h : Hart) : Bool :=
  h.queue.isEmpty || !h.holds || h.target.lanes == h.grant.lanes

/-- Lanes taken by a hart whose front end or whose oldest queue entry waits for them (R46, R49); lanes that a reclaim
took make it a claimant again first. -/
def State.takeBlock (s : State) : State :=
  if s.hart.wait = .lanes ∨ s.hart.qwait = .lanes then
    let t := (if s.hart.reclaimed then s.reclaimTargets else s)
    if t.canTake && t.hart.target.lanes != 0 && t.hart.mayRelayout then
      let u := (t.relayout t.hart.target).setQwait .none
      if s.hart.wait = .lanes then u.awake else u
    else t
  else s

/-- LANE_BLOCK_TAKEN (R46). -/
def execLaneBlockTaken (uid : Nat) (s : State) : Host.Outcome State Fault Refusal :=
  onHart uid s State.takeBlock

/-- Whether a hart's grant lies inside its target (R48). -/
def Hart.inTarget (h : Hart) : Bool :=
  decide (h.target.base ≤ h.grant.base ∧ h.grant.base + h.grant.lanes ≤ h.target.base + h.target.lanes)

/-- Whether a hart has held lanes outside its target for a quantum (R48). -/
def State.holdOverdue (s : State) : Bool :=
  s.hart.inSlot && s.hart.holds && s.hart.grant.lanes != 0 && !s.hart.inTarget
    && decide (s.quantum ≤ (s.time - s.hart.targetAt).toNat)

/-- LANE_HOLD_TIMEOUT: the dispatcher ends the hold by pre-emption (R48). -/
def execLaneHoldTimeout (uid : Nat) (s : State) : Host.Outcome State Fault Refusal :=
  onHart uid s fun t => if t.holdOverdue then t.requestSave uid .preempt else t

/-- Whether a hart has slept longer than a quantum and holds lanes (R49, R251). -/
def State.reclaimable (s : State) : Bool :=
  s.hart.status == .sleeping && s.hart.holds && s.hart.grant.lanes != 0
    && decide (s.quantum < (s.time - s.hart.sleepAt).toNat)

/-- The lanes of a sleeping hart taken: its vector state is saved as at a pre-emption, and it sleeps on in
its slot (R49, R377). -/
def State.reclaimLanes (s : State) : State :=
  let t := s.writeBackAll s.hart.core false
  let u := t.writeArea (t.imgVregs ++ t.imgAccs ++ t.imgRest ++ t.imgAlways .reclaim)
  let v : State := { u with hart := { u.hart with
      holds := false
      reclaimed := true
      required := u.hart.requiredGrant
      reason := .reclaim
      tb := u.hart.unpinTiles
      adv := u.hart.adv.discard } }
  v.retarget v.hart.core

/-- LANE_RECLAIM (R49). -/
def execLaneReclaim (uid : Nat) (s : State) : Host.Outcome State Fault Refusal :=
  onHart uid s fun t => if t.reclaimable then t.reclaimLanes else t

/-! ### waita and wfi -/

/-- A sleeping waita reads its word once more (R249): it ends, faults, or sleeps on; a page in migration
keeps it asleep. -/
def State.waitaAgain (s : State) : State :=
  match s.hart.wait with
  | .waita c n d addr want sc start left =>
    match s.waitaRound c n d addr want sc start left with
    | .error (.wait _) => s
    | r => s.settle r
  | _ => s

/-- WAITA_WAKE: a satisfying write is visible (R58, R249). -/
def execWaitaWake (uid : Nat) (s : State) : Host.Outcome State Fault Refusal :=
  onHart uid s State.waitaAgain

/-- WAITA_TIMEOUT: the deadline has passed (R249). -/
def execWaitaTimeout (uid : Nat) (s : State) : Host.Outcome State Fault Refusal :=
  onHart uid s fun t => match t.hart.wait with
    | .waita _ _ _ _ _ _ start left => if t.expired start left then t.waitaAgain else t
    | _ => t

/-- WFI_WAKE: a pending interrupt ends a wfi, enabled or not (R262). -/
def execWfiWake (uid : Nat) (s : State) : Host.Outcome State Fault Refusal :=
  onHart uid s fun t => match t.hart.wait with
    | .wfi => if t.hart.pendingIrq then t.advance.awake else t
    | _ => t

/-! ### Interrupts (R420, R423) -/

/-- The pending interrupt of the lowest detail, taken: its event is cleared (R420, R423). -/
def State.takeInterrupt (s : State) : State :=
  let t := s.abandonWait
  match t.hart.irqSoft with
  | some v =>
    let u : State := { t with hart := { t.hart with irqSoft := none } }
    u.takeTrap 0x3C0 v u.hart.pc u.hart.partial?
  | none => match t.hart.irqMail with
    | some v =>
      let u : State := { t with hart := { t.hart with irqMail := none } }
      u.takeTrap 0x3C1 v u.hart.pc u.hart.partial?
    | none => s

/-- INTERRUPT_TAKE: at an instruction boundary with HSTAT.IE = 1 (R420). -/
def execInterruptTake (uid : Nat) (s : State) : Host.Outcome State Fault Refusal :=
  onHart uid s fun t => if t.hart.atBoundary && t.hart.interrupted then t.takeInterrupt else t

/-! ### Reliability causes of queued work (R428) -/

/-- The block bytes that a queued sqld reads: those of its units below the committed length (R317). -/
def State.sqldTargets (s : State) (e : QEntry) : List (Nat × Target) :=
  match s.sqReg (lo3 (rrA e.word)) with
  | none => []
  | some b => match s.myCtx.seqOf b.handle with
    | none => []
    | some (_, q) =>
      let w := typeWidth (vtType e.vt)
      let at_ := seqByteOf (e.ops.getD 0 0).toNat q.slotSize (unitBytes w)
      s.seqTargets q at_ ((List.range ((e.vl.toNat + unitElems w - 1) / unitElems w)).filter fun u =>
        at_ u / q.slotSize < q.clen)

/-- Whether a queued instruction reads a poisoned byte at an address (R431). -/
def State.readsPoison (s : State) (e : QEntry) (pa : Nat) : Bool :=
  let ts := if major e.word = 0x36 then s.sqldTargets e else e.probe.getD []
  s.poison.contains (pa / 32) && e.reads && ts.any fun u => match u.2 with
    | .window _ => false
    | .phys t => decide (t.pa / 32 ≤ pa / 32 ∧ pa / 32 ≤ (t.pa + e.unit - 1) / 32)

/-- The TVAL of a cause that stops an entry where it stands (R422, R428): 0x301 in the lanes, with the word; 0x302
and 0x303 where the store engine's checks fail, with the row's address or the destination; 0x300 where it reads
poison. -/
def State.struckBy (s : State) (e : QEntry) (c : Cause) (v : Word) : Option Word :=
  match c.toNat with
  | 0x300 => if s.readsPoison e v.toNat then some v else none
  | 0x301 => if e.kind = .mq ∨ major e.word = 0x37 then none else some (wordVal e.word)
  | 0x302 => (s.storeCause e).bind fun p => if p.1 = c then some p.2 else none
  | 0x303 => (s.storeCause e).bind fun p => if p.1 = c then some p.2 else none
  | _ => none

/-- The oldest entry of the queues stops where it stands: it is the INTERRUPTED entry, held with every younger one,
and the trap is taken at the front end's boundary (R428). -/
def State.strikeQueue (s : State) (c : Cause) (v : Word) : State :=
  match s.hart.nextEntry with
  | some (e, rest) => match s.struckBy e c v with
    | some tv =>
      if s.hart.atBoundary then
        let q := { e with interrupted := true, rhold := true, data := [] } :: rest
        ({ s with hart := { s.hart with queue := q } } : State).queuedTrap c tv
      else s
    | none => s
  | none => s

/-- RELIABILITY_QUEUED_TRAP (R428). -/
def execReliabilityQueuedTrap (uid : Nat) (cause : BitVec 10) (tval : Word) (s : State) :
    Host.Outcome State Fault Refusal :=
  onHart uid s fun t => t.strikeQueue cause tval

/-! ### Context registers (R371) -/

/-- The tables of every core that holds a context loaded again (R407). -/
def State.vttReloadAll (s : State) (c : Nat) : State :=
  (s.cores.filter fun (_, k) => k.vttCtx == some c).foldl (fun (t : State) p => t.vttReload p.1 c) s

/-- A context register takes its new value; a write of VTTB loads the tables first (R371, R407). -/
def State.ctxWritten (s : State) (n : BitVec 12) (keep set : Word) : Except Halt State := do
  let v := (s.csrRead n &&& keep) ||| set
  let k := s.myCtx.csrWrite n v
  let t := s.setCtx s.hart.ctx k
  if n = 0x80A then
    t.tableCheck k.vttBase 131072
    return (t.vttReloadAll s.hart.ctx).advance.awake
  else return t.advance.awake

/-- CONTEXT_REGISTER_WRITE_COMPLETE (R371). -/
def execContextRegisterWriteComplete (uid : Nat) (s : State) : Host.Outcome State Fault Refusal :=
  onHart uid s fun t => match t.hart.wait with
    | .ctxWrite n keep set => t.settle (t.ctxWritten n keep set)
    | _ => t

/-! ### Parked accesses (R413) -/

/-- A parked access translates again, from memory: its TLB entry is dropped, or its VTT entry re-read (R413). -/
def State.reread (s : State) (va : Word) (vec : Bool) : Except Halt State :=
  if vec then
    match s.myCtx.vttIndex va with
    | some i => do
      s.tableCheck (s.myCtx.vttBase + 8 * i) 8
      return s.vttReread s.hart.core s.hart.ctx i
    | none => .ok s
  else .ok (s.dropTlb va)

/-- What is parked translates again, and executes again: the front end's access, and the oldest entry of the queues
(R413). -/
def State.retranslate (s : State) : State :=
  let t := match s.hart.wait with
    | .parked va vec => s.settle ((s.reread va vec).map State.awake)
    | _ => s
  match t.hart.qwait with
  | .parked va vec => match t.reread va vec with
    | .ok u => u.setQwait .none
    | .error (.trap c v) => (t.setQwait .none).queuedTrap c v
    | .error (.wait _) => t
  | _ => t

/-- PARKED_ACCESS_RETRANSLATE (R413). -/
def execParkedAccessRetranslate (uid : Nat) (s : State) : Host.Outcome State Fault Refusal :=
  onHart uid s State.retranslate

end Sys2Proof.Machine
end

