-- ==== Sys2Proof/Machine/HostQueues.lean ====
section
/-! DEFINITION. Host queues: the commands a dispatcher consumes in ring order, and its responses (R384 to
R386). -/

namespace Sys2Proof.Machine

/-! ### Entries and responses (R385) -/

/-- A command entry. -/
structure HqEntry where
  body     : Nat
  cwAddr   : Word
  cwVal    : Word
  waitAddr : Word
  waitVal  : Nat
  op       : Nat
  tag      : Nat
deriving DecidableEq, Repr

/-- Word j of the body. -/
def HqEntry.word (e : HqEntry) (j : Nat) : Word := BitVec.ofNat 64 (bits e.body (64 * j) 64)

/-- The entry at a queue's command index. -/
def State.hqEntry (s : State) (k : HostQueue) : HqEntry :=
  let a := k.cfg.cmdBase + 64 * (k.cmdIdx % 2 ^ k.cfg.cmdLog)
  let f (o n : Nat) : Nat := bytesVal (s.l2Bytes 3 (a + o) n)
  { body := f 0 32
    cwAddr := BitVec.ofNat 64 (f 32 8)
    cwVal := BitVec.ofNat 64 (f 40 8)
    waitAddr := BitVec.ofNat 64 (f 48 8)
    waitVal := f 56 4
    op := f 60 2
    tag := f 62 2 }

/-- An invalid argument. -/
def hqInvalid : Word := BitVec.allOnes 64 - 2

/-- An OP of 6 or more. -/
def hqUnknown : Word := BitVec.allOnes 64 - 3

/-- The entry consumed and its response written, as a release at V (R385). -/
def State.hqRespond (s : State) (q : Nat) (e : HqEntry) (result : Word) : State :=
  match tget s.hqs q with
  | none => s
  | some k =>
    let a := k.cfg.respBase + 16 * (k.respIdx % 2 ^ k.cfg.respLog)
    let t := s.l2WriteAt 3 a (valBytes 8 result.toNat ++ valBytes 2 e.tag ++ valBytes 2 e.op ++ valBytes 4 0)
    { t with hqs := tset t.hqs q { k with cmdIdx := k.cmdIdx + 1, respIdx := k.respIdx + 1 } }

/-- The command of an OP at the head of a bound queue, served, where the host's doorbell has posted it (R384); an
unknown OP is answered by any of the steps, and another step's command is left to it. -/
def State.hqServe (s : State) (q op : Nat) (f : HostQueue → HqEntry → State → State) : State :=
  match tget s.hqs q with
  | none => s
  | some k =>
    let e := s.hqEntry k
    if k.produced ≤ k.cmdIdx then s
    else if e.op = op then f k e s
    else if 6 ≤ e.op then s.hqRespond q e hqUnknown
    else s

/-! ### OP 0: launch -/

/-- The launch a host queue asks for (R385). -/
def hostRequest (q : Nat) (k : HostQueue) (e : HqEntry) : LaunchReq :=
  { ctx := k.cfg.ctx
    die := k.cfg.die
    kzhdr := e.word 0
    args := e.word 1
    ctl := e.word 2
    after := e.word 3
    parent := none
    hostq := some q
    det := false
    cwAddr := e.cwAddr
    cwVal := e.cwVal
    waitAddr := e.waitAddr
    waitVal := e.waitVal }

/-- A handle that a queue has received (R386). -/
def State.addHandle (s : State) (q : Nat) (h : Nat) : State :=
  match tget s.hqs q with
  | none => s
  | some k => { s with hqs := tset s.hqs q { k with handles := k.handles ++ [h] } }

/-- A launch accepted or refused; its entry stays in the ring until the launch queue has room for it (R385,
R387). -/
def State.hqLaunch (q : Nat) (k : HostQueue) (e : HqEntry) (s : State) : State :=
  let parks := (tget (s.ctx k.cfg.ctx).kernels (e.word 0).toNat).bind fun x => s.tripParks k.cfg.ctx x (e.word 1)
  if parks.isNone && s.queueRoom k.cfg.die k.cfg.ctx && (s.ctx k.cfg.ctx).ringUsed == 0 then
    let (r, t) := s.acceptLaunch (hostRequest q k e)
    let u := t.bumpFree
    (if r.toNat < 2 ^ 63 then u.addHandle q r.toNat else u).hqRespond q e r
  else s

/-- HQ_LAUNCH (R385). -/
def execHqLaunch (q : Nat) (s : State) : Host.Outcome State Fault Refusal :=
  .next (s.hqServe q 0 (State.hqLaunch q))

/-! ### OPs 1, 2 and 4: hold, release, migrate (R386) -/

/-- The hart of a context that a save-area address names, as SAVEPTR reads it. -/
def State.hartAt (s : State) (c : Nat) (area : Word) : Option Hart :=
  s.harts.find? fun h => h.ctx == c && h.status != .exited &&
    match h.saveIdx with
    | some i => BitVec.ofNat 64 ((s.ctx c).areaBase i) == area
    | none => false

/-- A hart held: at once if it is saved, else when its save has been made, with REASON 0 (R386). -/
def State.holdHart (s : State) (uid : Nat) : State :=
  match s.findHart uid with
  | none => s
  | some h =>
    if h.saved then s.modHart uid fun g => { g with status := .held }
    else (s.requestSave uid .preempt).modHart uid fun g => { g with holdReq := true, saveReq := some .preempt }

/-- OP 1: hold. -/
def State.hqHold (q : Nat) (k : HostQueue) (e : HqEntry) (s : State) : State :=
  match s.hartAt k.cfg.ctx (e.word 0) with
  | some h => (s.holdHart h.uid).hqRespond q e 0
  | none => s.hqRespond q e hqInvalid

/-- HQ_HOLD_HART (R386). -/
def execHqHoldHart (q : Nat) (s : State) : Host.Outcome State Fault Refusal :=
  .next (s.hqServe q 1 (State.hqHold q))

/-- A held hart made ready. -/
def State.releaseHart (s : State) (uid : Nat) : State :=
  s.modHart uid fun h => { h with status := .ready, readyAt := s.time }

/-- OP 2: release. -/
def State.hqRelease (q : Nat) (k : HostQueue) (e : HqEntry) (s : State) : State :=
  match s.hartAt k.cfg.ctx (e.word 0) with
  | some h =>
    if h.status = .held then (s.releaseHart h.uid).hqRespond q e 0 else s.hqRespond q e hqInvalid
  | none => s.hqRespond q e hqInvalid

/-- HQ_RELEASE_HART (R386). -/
def execHqReleaseHart (q : Nat) (s : State) : Host.Outcome State Fault Refusal :=
  .next (s.hqServe q 2 (State.hqRelease q))

/-- Whether a held hart may move to a core (R386). -/
def State.mayMigrate (s : State) (h : Hart) (core : Nat) : Bool :=
  h.status == .held && h.saved && h.bounds.scratch == 0 && h.bounds.barriers == 0 && !h.bounds.paired
    && ((tget s.launches (launchOf h.uid)).map fun l => l.cores.any fun p => p.contains core).getD false

/-- OP 4: migrate. -/
def State.hqMigrate (q : Nat) (k : HostQueue) (e : HqEntry) (s : State) : State :=
  match s.hartAt k.cfg.ctx (e.word 0) with
  | some h =>
    let core := (e.word 1).toNat
    if s.mayMigrate h core then (s.modHart h.uid fun g => { g with core := core }).hqRespond q e 0
    else s.hqRespond q e hqInvalid
  | none => s.hqRespond q e hqInvalid

/-- HQ_MIGRATE_HART (R386). -/
def execHqMigrateHart (q : Nat) (s : State) : Host.Outcome State Fault Refusal :=
  .next (s.hqServe q 4 (State.hqMigrate q))

/-! ### OPs 3 and 5: retire a handle, set the overflow ring (R386) -/

/-- OP 3: retire. -/
def State.hqRetire (q : Nat) (k : HostQueue) (e : HqEntry) (s : State) : State :=
  let h := (e.word 0).toNat
  match (tget s.launches h).bind (·.status) with
  | some st =>
    if k.handles.contains h then
      ({ s with hqs := tset s.hqs q { k with handles := k.handles.filter fun x => x != h } } : State).hqRespond q e
        (BitVec.ofNat 64 st)
    else s.hqRespond q e hqInvalid
  | none => s.hqRespond q e hqInvalid

/-- HQ_RETIRE_HANDLE (R386). -/
def execHqRetireHandle (q : Nat) (s : State) : Host.Outcome State Fault Refusal :=
  .next (s.hqServe q 3 (State.hqRetire q))

/-- OP 5: set or remove the context's overflow ring. -/
def State.hqRing (q : Nat) (k : HostQueue) (e : HqEntry) (s : State) : State :=
  let c := s.ctx k.cfg.ctx
  let n := bits (e.word 1).toNat 0 5
  if c.ringUsed ≠ 0 ∨ (e.word 0 ≠ 0 ∧ (n < 4 ∨ 16 < n)) then s.hqRespond q e hqInvalid
  else (s.setCtx k.cfg.ctx { c with
    ringBase := (e.word 0).toNat
    ringLog := if e.word 0 = 0 then 0 else n
    ringHead := 0
    ringTail := 0 }).hqRespond q e 0

/-- HQ_SET_OVERFLOW_RING (R386). -/
def execHqSetOverflowRing (q : Nat) (s : State) : Host.Outcome State Fault Refusal :=
  .next (s.hqServe q 5 (State.hqRing q))

end Sys2Proof.Machine
end

