-- ==== Sys2Proof/Machine/Clock.lean ====
section
/-! DEFINITION. TIME and what the device does by itself as it passes: parked accesses (R413), the dispatcher's polls
and ticks (R388, R394), saves (R395), holds (R48) and aging (R70). -/

namespace Sys2Proof.Machine

/-- Whether something of a hart may be parked: an access, or the command at the head of its copy queue. -/
def Hart.parks (h : Hart) : Bool :=
  match h.wait, h.qwait with
  | .parked .., _ => true
  | _, .parked .. => true
  | _, _ => !h.copyq.isEmpty

/-- Whatever is parked translates again (R413). -/
def State.retranslateAll (s : State) : State :=
  ((s.harts.filter Hart.parks).map (·.uid)).foldl (fun (t : State) n =>
    t.onOther n fun u => u.retranslate.copyAgain) s.replayCw

/-- The cores that the dispatcher looks at: those with harts, and those with instances to start. -/
def State.dispatchCores (s : State) : List Nat :=
  sortBy (fun (a b : Nat) => decide (a < b))
    (((s.harts.filter fun h => h.status != .exited).map (·.core)
      ++ (s.launches.filter fun p => p.2.eligible && p.2.status.isNone).flatMap fun p => p.2.cores.flatten).eraseDups)

/-- The command at the head of a host queue, where the host has posted one (R384, R385). -/
def State.serveQueue (s : State) (q : Nat) : State :=
  [(0, State.hqLaunch q), (1, State.hqHold q), (2, State.hqRelease q), (3, State.hqRetire q), (4, State.hqMigrate q),
    (5, State.hqRing q)].foldl (fun (t : State) p => t.hqServe q p.1 p.2) s

/-- The dispatcher of each core acts (R394). -/
def State.actCores (s : State) : State := s.dispatchCores.foldl (fun (t : State) c => t.actCore c) s

/-- The dispatcher's poll, at least every 10 µs (R387, R388): rings, host queues, dependences, and what the new
candidates and priorities lead to. -/
def State.poll (s : State) : State :=
  let a := (s.ctxs.map (·.1)).foldl (fun (t : State) c => t.ringReturn c) s
  (((a.hqs.map (·.1)).foldl (fun (t : State) q => t.serveQueue q) a).pollLaunches).actCores

/-- The hart in focus is asked to give up lanes that it held for too long (R48); a save decided 20 µs ago is made
(R395). -/
def State.overdue (s : State) : State :=
  let t := if s.holdOverdue then s.requestSave s.hart.uid .preempt else s
  match t.hart.saveReq with
  | some r => if 20000 ≤ (t.time - t.hart.saveFrom).toNat then t.saveAsked r else t
  | none => t

/-- Whether an occupant's protection has just ended (R394). -/
def State.protectionEnds (s : State) : Bool :=
  s.harts.any fun h => h.inSlot && (s.time - h.issuedAt).toNat == s.quantum / 4

/-- Whether a save must be made by now (R395). -/
def State.saveDue (s : State) : Bool :=
  s.harts.any fun h => h.saveReq.isSome && decide (20000 ≤ (s.time - h.saveFrom).toNat)

/-- Nanoseconds of TIME until the device must act by itself: the next multiple of 10 µs and of 4,096 ticks, the next
tick of a core, the end of a save, and the end of an occupant's protection. -/
def State.nextDue (s : State) : Nat :=
  let ticks := s.dispatchCores.map fun c => s.quantum / 2 - (s.time - (s.core c).tickAt).toNat
  let saves := (s.harts.filter fun h => h.saveReq.isSome).map fun h => 20000 - (s.time - h.saveFrom).toNat
  let ends := (s.harts.filter fun h => h.inSlot && decide ((s.time - h.issuedAt).toNat < s.quantum / 4)).map fun h =>
    s.quantum / 4 - (s.time - h.issuedAt).toNat
  max 1 ((ticks ++ saves ++ ends).foldl min (min (10000 - s.time.toNat % 10000) (4096 - s.time.toNat % 4096)))

/-- What falls due at this TIME: slots that saves free, then new candidates and priorities, then the ticks (R398). -/
def State.fallDue (s : State) : State :=
  let a := if s.time.toNat % 4096 = 0 then s.retranslateAll else s
  let late := (a.harts.map (·.uid)).foldl (fun (t : State) u => t.onOther u State.overdue) a
  let b := if a.saveDue || a.protectionEnds then late.actCores else late
  let c := if b.time.toNat % 10000 = 0 then (b.launches.foldl (fun (t : State) p => t.age p.1) b).poll else b
  c.dispatchCores.foldl (fun (t : State) k => t.tick k) c

/-- TIME passes by some nanoseconds, or until the device must act by itself. -/
def State.pass (s : State) (ns : Nat) : State := (s.elapse (min ns s.nextDue)).fallDue

end Sys2Proof.Machine
end

