-- ==== Sys2Proof/Machine/Advice.lean ====
section
/-! DEFINITION. The advice half (R187 to R211): the words of an advice context, which act on the hart in
focus, and its later steps. No word writes a register, a memory value or any other state of a semantic
hart (R190). -/

namespace Sys2Proof.Machine

/-! ### The context's registers -/

/-- A change of the advice context of the hart in focus. -/
def State.setAdv (s : State) (a : Adv) : State := { s with hart := { s.hart with adv := a } }

/-- An advice register. -/
def State.g (s : State) (r : GReg) : Word := s.hart.adv.g.get r.toFin

/-- The APC past its word. -/
def State.advNext (s : State) : State := s.setAdv { s.hart.adv with apc := s.hart.adv.apc + 4 }

/-- A word that writes an advice register (R206). -/
def State.advPut (s : State) (d : GReg) (v : Word) : State :=
  s.setAdv { s.hart.adv with g := s.hart.adv.g.set d.toNat v d.isLt, apc := s.hart.adv.apc + 4 }

/-! ### Control and registers (R206) -/

/-- ahalt: STATE 3; the context issues nothing more. -/
def execAhalt (s : State) : Host.Outcome State Fault Refusal :=
  .next (s.setAdv { s.hart.adv with st := .halted })

/-- Whether the marks have reached a number (R206). -/
def markReached (pmark t : BitVec 32) : Bool := decide ((pmark - t).toNat < 2 ^ 31)

/-- An await that completes, or waits in STATE 2 with its word at the APC. -/
def State.await (s : State) (a : GReg) : State :=
  let t := (s.g a).setWidth 32
  if markReached s.hart.csr.pmark t then
    s.setAdv { s.hart.adv with amark := t, st := .running, apc := s.hart.adv.apc + 4 }
  else s.setAdv { s.hart.adv with st := .waiting }

/-- await (R206). -/
def execAwait (a : GReg) (s : State) : Host.Outcome State Fault Refusal :=
  .next (s.await a)

/-- The views of R189. -/
def State.view (s : State) (slot : BitVec 12) : Word :=
  match slot.toNat with
  | 8 => s.hart.adv.snapMark.setWidth 64
  | 9 => s.hart.csr.vl.setWidth 64
  | 10 => BitVec.ofNat 64 s.hart.lgrant
  | 11 => s.hart.csr.pmark.setWidth 64
  | n => s.hart.adv.snap.toList.getD n 0

/-- aread (R206). -/
def execAread (d : GReg) (slot : BitVec 12) (s : State) : Host.Outcome State Fault Refusal :=
  .next (s.advPut d (s.view slot))

/-- ali (R206). -/
def execAli (d : GReg) (c : BitVec 18) (s : State) : Host.Outcome State Fault Refusal :=
  .next (s.advPut d (c.signExtend 64))

/-- aaddi (R206). -/
def execAaddi (d a : GReg) (c : BitVec 12) (s : State) : Host.Outcome State Fault Refusal :=
  .next (s.advPut d (s.g a + c.signExtend 64))

/-- aadd (R206). -/
def execAadd (d a b : GReg) (s : State) : Host.Outcome State Fault Refusal :=
  .next (s.advPut d (s.g a + s.g b))

/-- asub (R206). -/
def execAsub (d a b : GReg) (s : State) : Host.Outcome State Fault Refusal :=
  .next (s.advPut d (s.g a - s.g b))

/-- aand (R206). -/
def execAand (d a b : GReg) (s : State) : Host.Outcome State Fault Refusal :=
  .next (s.advPut d (s.g a &&& s.g b))

/-- aor (R206). -/
def execAor (d a b : GReg) (s : State) : Host.Outcome State Fault Refusal :=
  .next (s.advPut d (s.g a ||| s.g b))

/-- asll: by g[b][5:0] (R206). -/
def execAsll (d a b : GReg) (s : State) : Host.Outcome State Fault Refusal :=
  .next (s.advPut d (s.g a <<< ((s.g b).toNat % 64)))

/-- asrl: by g[b][5:0] (R206). -/
def execAsrl (d a b : GReg) (s : State) : Host.Outcome State Fault Refusal :=
  .next (s.advPut d (s.g a >>> ((s.g b).toNat % 64)))

/-- amul: the low 64 bits (R206). -/
def execAmul (d a b : GReg) (s : State) : Host.Outcome State Fault Refusal :=
  .next (s.advPut d (s.g a * s.g b))

/-- aslli (R206). -/
def execAslli (d a : GReg) (c : BitVec 6) (s : State) : Host.Outcome State Fault Refusal :=
  .next (s.advPut d (s.g a <<< c.toNat))

/-- asrli (R206). -/
def execAsrli (d a : GReg) (c : BitVec 6) (s : State) : Host.Outcome State Fault Refusal :=
  .next (s.advPut d (s.g a >>> c.toNat))

/-- A branch or jump of the context: word offsets from its own word (R204, R206). -/
def State.advBranch (s : State) (taken : Bool) (off : Word) : State :=
  if taken then s.setAdv { s.hart.adv with apc := s.hart.adv.apc + (off <<< 2) } else s.advNext

/-- abeq (R206). -/
def execAbeq (a b : GReg) (off : BitVec 12) (s : State) : Host.Outcome State Fault Refusal :=
  .next (s.advBranch (s.g a == s.g b) (off.signExtend 64))

/-- abne (R206). -/
def execAbne (a b : GReg) (off : BitVec 12) (s : State) : Host.Outcome State Fault Refusal :=
  .next (s.advBranch (s.g a != s.g b) (off.signExtend 64))

/-- ablt: signed (R206). -/
def execAblt (a b : GReg) (off : BitVec 12) (s : State) : Host.Outcome State Fault Refusal :=
  .next (s.advBranch ((s.g a).slt (s.g b)) (off.signExtend 64))

/-- abltu: unsigned (R206). -/
def execAbltu (a b : GReg) (off : BitVec 12) (s : State) : Host.Outcome State Fault Refusal :=
  .next (s.advBranch ((s.g a).ult (s.g b)) (off.signExtend 64))

/-- aj (R206). -/
def execAj (off : BitVec 18) (s : State) : Host.Outcome State Fault Refusal :=
  .next (s.advBranch true (off.signExtend 64))

/-! ### Hints: checks and counters (R192, R193, R199) -/

/-- A counter that saturates at 0xFFFF. -/
def sat16 (c : BitVec 16) : BitVec 16 := if c = BitVec.allOnes 16 then c else c + 1

/-- DROPS counted, where a hint is stale. -/
def State.dropS (s : State) : State := s.setAdv { s.hart.adv with drops := sat16 s.hart.adv.drops }

/-- DROPX counted, for an ineligible hint or one over a limit. -/
def State.dropX (s : State) : State := s.setAdv { s.hart.adv with dropx := sat16 s.hart.adv.dropx }

/-- DROPQ counted, for a full queue. -/
def State.dropQ (s : State) : State := s.setAdv { s.hart.adv with dropq := sat16 s.hart.adv.dropq }

/-- A hint has met a port. -/
def State.ask (s : State) : State := s.setAdv { s.hart.adv with asks := s.hart.adv.asks + 1 }

/-- Whether the request queue of the pin port (1) or the pre-stage port (2) is full now (R193): a free value. -/
def State.portFull (s : State) (port : Nat) : Bool := Config.portFull s.hart.uid s.hart.adv.asks port

/-- Whether a hint issued now is stale (R192). -/
def State.stale (s : State) : Bool :=
  decide (s.hart.csr.alead.toNat < (s.hart.csr.pmark - s.hart.adv.amark).toNat)

/-- Pieces of a range, cut at 256-byte lines: an address and a byte count each. -/
def linePieces : Nat → Nat → Nat → List (Nat × Nat)
  | 0, _, _ => []
  | fuel + 1, a, n =>
    if n = 0 then []
    else
      let k := min n (256 - a % 256)
      (a, k) :: linePieces fuel (a + k) (n - k)

/-- The line pieces of n bytes from an address. -/
def piecesOf (va : Word) (n : Nat) : List (Nat × Nat) := linePieces (n / 256 + 2) va.toNat n

/-- Check 2 of R193 on one piece: mapped, readable by the hart, not in a page in migration, the local
window, a host or a domain window. -/
def State.hintXlat (s : State) (vec : Bool) (p : Nat × Nat) : Option Xlat :=
  let va : Word := BitVec.ofNat 64 p.1
  if 2 ^ 64 < p.1 + p.2 ∨ inWindow va ∨ inWindow (va + BitVec.ofNat 64 (p.2 - 1)) then none
  else
    let r : Except Halt Xlat := if vec then s.xlatVec true false va else (s.xlat .read va).map (·.1)
    match r with
    | .ok t => if t.mig || t.lnk || isHost t.pa then none else some t
    | .error _ => none

/-- The prefetch port's request queue full (R193). -/
def State.hintFull (s : State) : Bool := decide (Config.hintQueue ≤ s.hart.adv.fills.length)

/-- A fill requested for a piece (R193, R411): a SEQ page and one that L1 does not hold fill L2 only. -/
def fillOf (l2 vec : Bool) (p : Nat × Nat) (t : Xlat) : Fill :=
  ⟨l2 || t.seq || t.cache != 0, vec, BitVec.ofNat 64 p.1, p.2⟩

/-- The fills of a prefetch after its stale check (R193): the pieces that pass check 2 are requested, and
those that fail it are counted once. Where the rest then meet a full queue, both counters rise (DESIGN CHOICE,
assumption log 24). -/
def State.prefetch (s : State) (l2 vec : Bool) (ps : List (Nat × Nat)) : State :=
  let ok := ps.filterMap fun p => (s.hintXlat vec p).map (fillOf l2 vec p)
  let t := if ok.length < ps.length then s.dropX else s
  if ok.isEmpty then t
  else if t.hintFull then t.dropQ
  else t.setAdv { t.hart.adv with fills := t.hart.adv.fills ++ ok }

/-- apf (R207): a register count of 0 fills and counts nothing; a range that wraps is dropped. -/
def State.apf (s : State) (l2 : Bool) (a b : GReg) (n : BitVec 12) : State :=
  let cnt := if n = 0 then min (s.g b).toNat (2 ^ 24) else n.toNat
  if cnt = 0 then s
  else if s.stale then s.dropS
  else if 2 ^ 64 < (s.g a).toNat + cnt then s.dropX
  else s.prefetch l2 false (piecesOf (s.g a) cnt)

/-- apf.l1, apf.l2 (R207). -/
def execApf (l2 : Bool) (a b : GReg) (n : BitVec 12) (s : State) : Host.Outcome State Fault Refusal :=
  .next (s.apf l2 a b n).advNext

/-- apfv (R207): elements at a signed stride; a count of 0 fills and counts nothing. -/
def State.apfv (s : State) (l2 : Bool) (a b d : GReg) (esize : BitVec 2) : State :=
  let cnt := min (s.g d).toNat 4096
  if cnt = 0 then s
  else if s.stale then s.dropS
  else s.prefetch l2 true (((List.range cnt).flatMap fun i =>
    piecesOf (s.g a + BitVec.ofNat 64 i * s.g b) (2 ^ esize.toNat)).eraseDups)

/-- apfv.l1, apfv.l2 (R207). -/
def execApfv (l2 : Bool) (a b d : GReg) (esize : BitVec 2) (s : State) : Host.Outcome State Fault Refusal :=
  .next (s.apfv l2 a b d esize).advNext

/-! ### Pins (R194, R208) -/

/-- The lane cycles a pin lasts (R194). -/
def pinCycles : Nat := 2 ^ 16

/-- The lines that an advice context may hold (R194). -/
def pinMax : Nat := 4096

/-- The lines a context's pins and pre-stages hold, each once (R194, R210); a pin whose cycles have run off holds
none. -/
def Adv.held (a : Adv) : List Nat :=
  ((a.pins.filter fun p => p.2 != 0).map (·.1) ++ a.stages.flatMap (·.pins)).eraseDups

/-- One line pinned, or renewed, within the limits; with whether it was (R208). -/
def State.pinLine (s : State) (line : Nat) : State × Bool :=
  let a := s.hart.adv
  let mine := ((tget a.pins line).getD 0) != 0
  if mine || (decide ((line :: a.held).eraseDups.length ≤ pinMax) && !(s.pinLines [line]).isEmpty) then
    (s.setAdv { a with pins := tset a.pins line pinCycles }, true)
  else (s, false)

/-- A line of L2 by its number, and its page's granule. -/
abbrev PinLine := Nat × BitVec 2

/-- Lines pinned in order, filled where they are absent (R208); with the lines that a limit refused. -/
def State.pinAll (s : State) : List PinLine → State × List PinLine
  | [] => (s, [])
  | l :: t =>
    let (u, ok) := s.pinLine l.1
    let w := if ok then (List.range 8).foldl (fun (x : State) k => x.l2Sector l.2 false (8 * l.1 + k)) u else u
    let (v, refused) := w.pinAll t
    (v, if ok then refused else l :: refused)

/-- Lines that L2 holds take the highest replacement priority (R208). -/
def State.keepAll (s : State) (ls : List PinLine) : State :=
  ls.foldl (fun (t : State) p => match tget t.l2 p.1 with
    | some l => { t with l2 := tset t.l2 p.1 { l with keep := true } }
    | none => t) s

/-- The pieces an apin names (R208), with their translations. -/
def State.pinPieces (s : State) (a b : GReg) : List (Option Xlat) :=
  (piecesOf (s.g a) (min (s.g b).toNat (2 ^ 20))).map (s.hintXlat false)

/-- The lines that an apin's eligible pieces lie on, each once. -/
def pinLinesOf (ps : List (Option Xlat)) : List PinLine :=
  ((ps.filterMap id).filter fun t => isHbm t.pa).map (fun t => (t.pa / 256, t.gran)) |>.eraseDups

/-- An apin after its stale check: f acts on the eligible lines and says which a limit refused; a refusal of either
kind is counted once, and a full queue drops a hint of which lines are left (R193, R208). The first check that applies
to all that is left drops it: one that lost lines to an earlier check and then meets a full queue counts in both (DESIGN
CHOICE, assumption log 24). -/
def State.apin (s : State) (a b : GReg) (f : State → List PinLine → State × List PinLine) : State :=
  if s.stale then s.dropS
  else
    let ps := s.pinPieces a b
    let ls := pinLinesOf ps
    let (t, refused) := f s.ask ls
    let whole := refused.isEmpty && ps.all Option.isSome
    if ls.length ≤ refused.length then (if ps.isEmpty then s else s.dropX)
    else if s.portFull 1 then (if whole then s.ask else s.ask.dropX).dropQ
    else if whole then t else t.dropX

/-- apin.pri (R208). -/
def execApinPri (a b : GReg) (s : State) : Host.Outcome State Fault Refusal :=
  .next (s.apin a b fun t ls => (t.keepAll ls, [])).advNext

/-- apin.pin: lines filled and pinned, or their pins renewed (R208). -/
def execApinPin (a b : GReg) (s : State) : Host.Outcome State Fault Refusal :=
  .next (s.apin a b State.pinAll).advNext

/-- apin.off: this context's pins on the lines released (R208). -/
def execApinOff (a b : GReg) (s : State) : Host.Outcome State Fault Refusal :=
  .next (s.apin a b fun t ls =>
    (t.setAdv { t.hart.adv with pins := (ls.map (·.1)).foldl tdel t.hart.adv.pins }, [])).advNext

/-! ### Pre-stages (R209, R210) -/

/-- Whether mtile would accept a descriptor (R321). -/
def tileDescOk (v : Word) : Bool :=
  match (Desc.of v).check tileAccept v with
  | .ok _ => true
  | .error _ => false

/-- The lines a pre-stage pins, or none where one of the tile's sectors fails check 2 (R193, R209). -/
def State.stageLines (s : State) (base desc : Word) (k : Nat) : Option (List Nat) :=
  if tileDescOk desc then
    (((tilePieces (Desc.of desc) k).flatMap fun p => piecesOf (base + BitVec.ofNat 64 p.1) p.2).mapM
      (s.hintXlat true)).map fun ts => linesOf (ts.map (·.pa))
  else some []

/-- atile after its stale check (R209): dropped whole where a line fails check 2, the buffer holds a
staged tile, K is out of range, the lines that it would pin take the context beyond its limit, or the port's queue
is full; otherwise it takes the place of an earlier pre-stage of the buffer. The range of K of a descriptor that mtile
would refuse is that of its SRC2 field's width, and of no width 512 (DESIGN CHOICE, assumption log 92). -/
def State.atile (s : State) (tb : Bool) (base desc : Word) (k : Nat) : State :=
  if s.stale then s.dropS
  else match s.stageLines base desc k with
    | none => s.dropX
    | some ls =>
      let t := s.dropStage tb
      if (s.tile tb).isSome || !tileKOk (Desc.of desc).src2 k
          || decide (pinMax < (t.hart.adv.held ++ t.pinLines ls).eraseDups.length) then s.dropX
      else if s.portFull 2 then s.ask.dropQ
      else t.ask.setAdv { t.ask.hart.adv with
        stages := t.hart.adv.stages ++ [⟨tb, base, desc.setWidth 32, k, t.pinLines ls⟩] }

/-- atile (R209). -/
def execAtile (tb : Bool) (a b d : GReg) (s : State) : Host.Outcome State Fault Refusal :=
  .next (s.atile tb (s.g a) ((s.g b).setWidth 32 |>.setWidth 64) (s.g d).toNat).advNext

/-! ### Settings (R211) -/

/-- aprio (R211). A setting is no hint that the stale check drops (DESIGN CHOICE, assumption log 25). -/
def execAprio (c : BitVec 2) (s : State) : Host.Outcome State Fault Refusal :=
  .next (s.setAdv { s.hart.adv with aprio := c, apc := s.hart.adv.apc + 4 })

/-- aorder (R211). A setting is no hint that the stale check drops (DESIGN CHOICE, assumption log 25). -/
def execAorder (c : BitVec 3) (s : State) : Host.Outcome State Fault Refusal :=
  .next (s.setAdv { s.hart.adv with aorder := c, apc := s.hart.adv.apc + 4 })

/-! ### Later steps -/

/-- Whether a word is an await (R204). -/
def isAwait (w : IWord) : Bool :=
  major w == 0x3F && fld w 6 5 == 1 && advD w == 0 && advB w == 0 && advImm w == 0

/-- ADVICE_AWAIT_WAKE: a waiting await completes once PMARK reaches its target (R206); a context whose word is
another one now goes on with it. -/
def State.awaitWake (s : State) : State :=
  if s.hart.adv.st = .waiting ∧ s.hart.inSlot then
    match s.fetchAdvice with
    | none => s.stopAdvice 4
    | some (w, _) => if isAwait w then s.await (advA w) else s.setAdv { s.hart.adv with st := .running }
  else s

/-- ADVICE_AWAIT_WAKE (R206). -/
def execAdviceAwaitWake (uid : Nat) (s : State) : Host.Outcome State Fault Refusal :=
  onHart uid s State.awaitWake

/-- ADVICE_PIN_EXPIRE: pins whose lane cycles have run off lapse (R194). -/
def execAdvicePinExpire (uid : Nat) (s : State) : Host.Outcome State Fault Refusal :=
  onHart uid s fun t => t.setAdv { t.hart.adv with pins := t.hart.adv.pins.filter fun p => p.2 != 0 }

/-- Clean sectors of n bytes installed in L1 (R194): dirty bytes stay as they are, and poison comes with the
line (R431). A line that it brings in takes the normal priority (DESIGN CHOICE, assumption log 92). -/
def State.installClean (s : State) (t : Xlat) (n : Nat) : State :=
  if t.lnk then s else (s.l1Fill s.hart.core t 1 n).l1Took t n

/-- A fill that completes: an L1 fill reads at L2 now; one whose page may fill L1 no longer is dropped. -/
def State.fillDone (s : State) (f : Fill) : State :=
  if f.l2 then
    match s.hintXlat f.vec (f.va.toNat, f.n) with
    | some t => ((List.range f.n).map fun i => (t.pa + i) / 32).eraseDups.foldl
        (fun (u : State) k => u.l2Sector t.gran false k) s
    | none => s
  else match s.hintXlat f.vec (f.va.toNat, f.n) with
    | some t => if t.seq || t.cache != 0 then s else s.installClean t f.n
    | none => s

/-- ADVICE_FILL_COMPLETE: the oldest fill in flight finishes (R194). -/
def execAdviceFillComplete (uid : Nat) (s : State) : Host.Outcome State Fault Refusal :=
  onHart uid s fun t => match t.hart.adv.fills with
    | [] => t
    | f :: rest => (t.setAdv { t.hart.adv with fills := rest }).fillDone f

/-- Whether the hardware stride prefetcher serves a hart (R202): at the basic level, and after its advice
has stopped. -/
def Hart.prefetches (h : Hart) : Bool := h.adv.st == .unbound || h.adv.st == .stopped

/-- HARDWARE_PREFETCH: the prefetcher fills by itself what the hart could read (R202). -/
def execHardwarePrefetch (uid : Nat) (va : Word) (n : Nat) (s : State) : Host.Outcome State Fault Refusal :=
  onHart uid s fun t =>
    if t.hart.inSlot && t.hart.prefetches then
      (piecesOf va n).foldl (fun (u : State) p => u.fillDone ⟨false, false, BitVec.ofNat 64 p.1, p.2⟩) t
    else t

end Sys2Proof.Machine
end

