-- ==== Sys2Proof/Machine/Control.lean ====
section
/-! DEFINITION. Control transfer (R240, R241). -/

namespace Sys2Proof.Machine

/-- PC + 4 × sext(off16) (R213). -/
def branchTarget (pc : Word) (off : BitVec 16) : Word := pc + (off.signExtend 64 <<< 2)

/-- PC + 4 × sext(off26) (R213). -/
def jumpTarget (pc : Word) (off : BitVec 26) : Word := pc + (off.signExtend 64 <<< 2)

/-- A branch whose comparison holds or not (R240). -/
def branchIf (c : Bool) (off : BitVec 16) (s : State) : Host.Outcome State Fault Refusal :=
  .next (if c then s.jump (branchTarget s.hart.pc off) else s.advance)

/-- beq: a branch on equality (R240). -/
def execBeq (a b : Reg) (off : BitVec 16) (s : State) : Host.Outcome State Fault Refusal :=
  branchIf (s.x a == s.x b) off s

/-- bne: a branch on inequality (R240). -/
def execBne (a b : Reg) (off : BitVec 16) (s : State) : Host.Outcome State Fault Refusal :=
  branchIf (s.x a != s.x b) off s

/-- blt: a branch on signed less-than (R240). -/
def execBlt (a b : Reg) (off : BitVec 16) (s : State) : Host.Outcome State Fault Refusal :=
  branchIf ((s.x a).slt (s.x b)) off s

/-- bge: a branch on signed greater-or-equal (R240). -/
def execBge (a b : Reg) (off : BitVec 16) (s : State) : Host.Outcome State Fault Refusal :=
  branchIf (!(s.x a).slt (s.x b)) off s

/-- bltu: a branch on unsigned less-than (R240). -/
def execBltu (a b : Reg) (off : BitVec 16) (s : State) : Host.Outcome State Fault Refusal :=
  branchIf ((s.x a).ult (s.x b)) off s

/-- bgeu: a branch on unsigned greater-or-equal (R240). -/
def execBgeu (a b : Reg) (off : BitVec 16) (s : State) : Host.Outcome State Fault Refusal :=
  branchIf (!(s.x a).ult (s.x b)) off s

/-- j (R241). -/
def execJ (off : BitVec 26) (s : State) : Host.Outcome State Fault Refusal :=
  .next (s.jump (jumpTarget s.hart.pc off))

/-- jal: lr receives PC + 4 (R241). -/
def execJal (off : BitVec 26) (s : State) : Host.Outcome State Fault Refusal :=
  .next ((s.setX 1 (s.hart.pc + 4)).jump (jumpTarget s.hart.pc off))

/-- jalr: x[a] is read first; a value whose bits [1:0] are not zero raises 0x0C2 (R241). -/
def execJalr (d a : Reg) (s : State) : Host.Outcome State Fault Refusal :=
  let t := s.x a
  if t.toNat % 4 = 0 then .next ((s.setX d (s.hart.pc + 4)).jump t)
  else commit s (.error (.trap 0x0C2 t))

end Sys2Proof.Machine
end

