-- ==== Sys2Proof/Machine/Sched.lean ====
section
/-! DEFINITION. Major SCHED (R352 to R354): launch, join, yield, exit and mark (R53 to R62, R188). -/

namespace Sys2Proof.Machine

/-! ### launch (R353) -/

/-- The four words of a launch descriptor. -/
def State.launchWords (s : State) (va : Word) : Except Halt ((Word × Word × Word × Word) × State) := do
  need (va.toNat % 8 = 0) 0x0C8 va
  let (a, s1) ← s.load .normal va 8
  let (b, s2) ← s1.load .normal (va + 8) 8
  let (c, s3) ← s2.load .normal (va + 16) 8
  let (e, s4) ← s3.load .normal (va + 24) 8
  return ((BitVec.ofNat 64 a, BitVec.ofNat 64 b, BitVec.ofNat 64 c, BitVec.ofNat 64 e), s4)

/-- The launch a hart asks its die's dispatcher for (R353, R384). -/
def State.hartRequest (s : State) (w : Word × Word × Word × Word) : LaunchReq :=
  { ctx := s.hart.ctx
    die := dieOf s.hart.core
    kzhdr := w.1
    args := w.2.1
    ctl := w.2.2.1
    after := w.2.2.2
    parent := some s.hart.uid
    hostq := none
    det := s.hart.csr.det
    cwAddr := 0
    cwVal := 0
    waitAddr := 0
    waitVal := 0 }

/-- launch: a release at V (R111, R353), then the dispatcher's answer in x[d]. -/
def execLaunch (d a : Reg) (s : State) : Host.Outcome State Fault Refusal :=
  commit s (do
    let (w, t) ← s.launchWords (s.x a)
    match (tget t.myCtx.kernels w.1.toNat).bind fun k => t.tripParks t.hart.ctx k w.2.1 with
    | some va => .error (.wait (.parked va false))
    | none =>
      let u := t.writeBackAll t.hart.core false
      let (r, v) := u.acceptLaunch (u.hartRequest w)
      return (v.bumpFree.setX d r).advance)

/-! ### join (R60, R354) -/

/-- join: the hart drains its queues and is saved out of its slot; it is ready again once its child has
completed, at once where it already has (R60, R63, R394). -/
def execJoin (d a : Reg) (s : State) : Host.Outcome State Fault Refusal :=
  commit s (do
    let v := s.x a
    match s.handleOf s.hart.ctx v with
    | none => .error (.trap 0x243 v)
    | some (h, l) =>
      need (h ≠ launchOf s.hart.uid) 0x242 v
      s.drained
      let t := (s.setWait (.join h d)).saveOut .join (if l.status.isSome then .ready else .joinSleep)
      return if l.status.isSome then { t with hart := { t.hart with readyAt := l.doneAt } } else t)

/-! ### yield (R61) -/

/-- Whether a candidate of the core stands at a priority at or above the hart's: the dispatcher may use the offer
then, and the model's always does (R61; assumption log 30). -/
def State.yieldTaken (s : State) : Bool :=
  (s.cands s.hart.core).any fun c => decide (s.priority s.hart ≤ c.prio)

/-- yield: no architectural state changes; the offer, where it is taken, is a save decided on (R61). -/
def execYield (s : State) : Host.Outcome State Fault Refusal :=
  let t := s.advance
  .next (if t.yieldTaken then t.requestSave t.hart.uid .yield else t)

/-! ### exit (R62) -/

/-- The handles still held dropped, in ascending order (R62). -/
def State.dropAll (s : State) : State :=
  (List.finRange 8).foldl (fun (t : State) n => t.dropReg (BitVec.ofFin n)) s

/-- The hart's area goes back to its pool (R377). -/
def State.freeSaveArea (s : State) : State :=
  match s.hart.saveIdx with
  | some i =>
    let k := s.myCtx
    let t := (s.areaState 0).setCtx s.hart.ctx { k with areas := k.areas.filter fun j => j != i }
    { t with hart := { t.hart with saveIdx := none } }
  | none => s

/-- The hart no longer exists: its lanes, accumulators, scratchpad, buffers and advice context are given
back (R62, R187, R329). -/
def State.leaveDevice (s : State) : State :=
  { s with hart := { s.hart with
      status := .exited
      saved := false
      holds := false
      wait := .none
      saveReq := none
      holdReq := false
      acc := []
      scr := []
      scrBad := []
      l0 := []
      pending := []
      queue := []
      qwait := .none
      replay := none
      tb := Vector.replicate 2 none
      tlb := []
      ibuf := []
      entry := none
      copyq := []
      adv := Adv.reset } }

/-- One more instance has exited; the last one completes the launch (R56, R389, R390). -/
def State.countExit (s : State) (handle : Nat) : State :=
  match tget s.launches handle with
  | none => s
  | some l =>
    let t := s.setLaunch handle { l with exits := l.exits + 1 }
    if l.exits + 1 = l.count then t.completeLaunch handle 0 else t

/-- The end of a hart that exits (R62): its write-back, its handles, its area, its lanes; barriers it took
part in may complete (R251). -/
def State.exitHart (s : State) : State :=
  let core := s.hart.core
  let h := launchOf s.hart.uid
  let t := ((s.writeBackAll core false).dropAll.freeSaveArea).leaveDevice
  ((t.closeBarriers core).afterLeave core h).countExit h

/-- exit: after every earlier instruction and copy command (R62). -/
def execExit (s : State) : Host.Outcome State Fault Refusal :=
  commit s (do
    s.drained
    if s.hart.copyq.isEmpty then return s.exitHart
    else .error (.wait .copyDrain))

/-! ### mark (R188) -/

/-- The snapshot that a mark takes by the mark table. -/
def State.snapshot (s : State) : Vector Word 8 :=
  Vector.ofFn fun (i : Fin 8) =>
    let b := s.hart.bounds.marks.get i
    if b.toNat < 32 then s.x (b.setWidth 5) else 0

/-- mark: PMARK rises and the snapshot is taken, as one step (R188). -/
def execMark (s : State) : Host.Outcome State Fault Refusal :=
  let m := s.hart.csr.pmark + 1
  let t := s.setCsr { s.hart.csr with pmark := m }
  .next ({ t with hart := { t.hart with adv := { t.hart.adv with snap := s.snapshot, snapMark := m } } } : State).advance

end Sys2Proof.Machine
end

