-- ==== Sys2Proof/Machine/Mailbox.lean ====
section
/-! DEFINITION. The management mailbox (R449 to R452): ownership, and the commands of R451 apart from hash
regions and kernels. -/

namespace Sys2Proof.Machine

/-! ### Commands and answers (R451) -/

/-- The management masters (R449). -/
def isMaster (m : Nat) : Bool := m == 1 || m == 2 || m == 3 || decide (0x10 ≤ m ∧ m < 0x20)

/-- Whether a master may name a partition: a virtual function only its own (R451). -/
def mayName (m part : Nat) : Bool := decide (m < 0x10) || m == 0x10 + part

/-- What a command answers, status and result, with what it changes. -/
abbrev Answer := Nat × List Word × State

/-- A command refused with a status; nothing changes. -/
def State.refuse (s : State) (status : Nat) : Answer := (status, [], s)

/-- A command served. -/
def State.served (s : State) (result : List Word) : Answer := (0, result, s)

/-- Whether a master owns the device now (R450). -/
def State.owns (s : State) (m : Nat) : Bool :=
  s.mgmt.owner == m && m != 0 && decide (s.time.toNat < s.mgmt.leaseEnd.toNat)

/-- A master's mailbox. -/
def State.mailbox (s : State) (m : Nat) : Mailbox := (tget s.mgmt.mboxes m).getD Mailbox.reset

/-- A master's mailbox written. -/
def State.setMailbox (s : State) (m : Nat) (b : Mailbox) : State :=
  { s with mgmt := { s.mgmt with mboxes := tset s.mgmt.mboxes m b } }

/-- The answer in a master's mailbox: status and result, then the completion bit (R451). -/
def State.answer (m : Nat) (a : Answer) : State :=
  a.2.2.setMailbox m { a.2.2.mailbox m with op := none, status := a.1, result := a.2.1, done := true }

/-- Whether a master has a command of an OP under way: a function of the host by its mailbox's doorbell (R451); the
board controller and the fabric manager send theirs over links that the manual does not describe, and a step of theirs
carries the whole command (DESIGN CHOICE, assumption log 67). -/
def State.rung (s : State) (m op : Nat) : Bool := m == 2 || m == 3 || (s.mailbox m).op == some op

/-- Whether window M is open and the master is one (R449, R457). -/
def State.opened (s : State) (m : Nat) : Bool := s.boot == .done && isMaster m

/-- A command of any master: started, it is served and answered (R450, R451). -/
def State.command (s : State) (m op : Nat) (f : State → Answer) : Host.Outcome State Fault Refusal :=
  .next (if s.opened m && s.rung m op then State.answer m (f s) else s)

/-- A command that R451 marks owner: from any other master it answers 2 (R450). -/
def State.ownerCommand (s : State) (m op : Nat) (f : State → Answer) : Host.Outcome State Fault Refusal :=
  s.command m op fun t => if t.owns m then f t else t.refuse 2

/-- A command whose arguments are valid, else status 1. -/
def State.valid (s : State) (c : Bool) (f : State → State) : Answer :=
  if c then (f s).served [] else s.refuse 1

/-! ### Ownership (R450) -/

/-- Nanoseconds of the lease and of the handover window. -/
def leaseNs : Nat := 5000000000
/-- The handover window. -/
def handoverNs : Nat := 1000000000

/-- Whether a handover window is open. -/
def State.handing (s : State) : Bool := s.mgmt.handTo != 0 && decide (s.time.toNat < s.mgmt.handEnd.toNat)

/-- A management state with a lease that begins at a TIME. -/
def Mgmt.renewed (g : Mgmt) (now : Word) : Mgmt :=
  { g with leaseEnd := now + BitVec.ofNat 64 leaseNs, lease := BitVec.ofNat 32 (leaseNs / leaseUnit) }

/-- A master becomes the owner with a fresh lease. -/
def State.own (s : State) (m : Nat) : State :=
  { s with mgmt := { s.mgmt.renewed s.time with owner := m, handTo := 0, handEnd := 0 } }

/-- Whether a claim succeeds: in a handover window its target's only, else with no owner or a lapsed lease. -/
def State.claimable (s : State) (m : Nat) : Bool :=
  if s.handing then s.mgmt.handTo == m
  else s.mgmt.owner == 0 || decide (s.mgmt.leaseEnd.toNat ≤ s.time.toNat)

/-- CLAIM answers OWNER (R450). -/
def State.claimOwner (s : State) (m : Nat) : Answer :=
  let t := if s.claimable m then s.own m else s
  t.served [BitVec.ofNat 64 t.mgmt.owner]

/-- MAILBOX_CLAIM (R450). -/
def execMailboxClaim (m : Nat) (s : State) : Host.Outcome State Fault Refusal :=
  s.command m 0x0D fun t => t.claimOwner m

/-- HANDOVER: a window of a second for one master (R450). -/
def execHandover (m target : Nat) (s : State) : Host.Outcome State Fault Refusal :=
  s.ownerCommand m 0x0E fun t => t.valid (isMaster target) fun u =>
    { u with mgmt := { u.mgmt with handTo := target, handEnd := u.time + BitVec.ofNat 64 handoverNs } }

/-- HEARTBEAT's answer: the owner's lease begins again (R450). -/
def State.heartbeat (s : State) (m : Nat) : Answer :=
  if s.owns m then
    ({ s with mgmt := s.mgmt.renewed s.time } : State).served []
  else s.refuse 2

/-- HEARTBEAT (R450). -/
def execHeartbeat (m : Nat) (s : State) : Host.Outcome State Fault Refusal :=
  s.command m 0x0F fun t => t.heartbeat m

/-- LEASE_LAPSE: OWNER becomes 0 (R450). -/
def execLeaseLapse (s : State) : Host.Outcome State Fault Refusal :=
  .next (if s.mgmt.owner ≠ 0 ∧ s.mgmt.leaseEnd.toNat ≤ s.time.toNat then
    { s with mgmt := { s.mgmt with owner := 0, lease := 0 } } else s)

/-- HANDOVER_EXPIRE: the window closes and OWNER stays (R450). -/
def execHandoverExpire (s : State) : Host.Outcome State Fault Refusal :=
  .next (if s.mgmt.handTo ≠ 0 ∧ s.mgmt.handEnd.toNat ≤ s.time.toNat then
    { s with mgmt := { s.mgmt with handTo := 0, handEnd := 0 } } else s)

/-! ### Contexts and queues -/

/-- A context at its creation: the fields the command names, and reset values (R374, R451). -/
def newContext (c : CtxInit) : Ctx :=
  let k := ((Ctx.reset.csrWrite 0x809 c.sttb).csrWrite 0x80A c.vttb).csrWrite 0x80B c.vwbase
  { k with
    part := c.part
    tvec := c.tvec
    poolNext := c.pool.base
    poolEnd := c.pool.base + c.pool.size / 2
    bigNext := c.pool.base + c.pool.size / 2
    bigEnd := c.pool.base + c.pool.size }

/-- CREATE_CONTEXT (R451). -/
def execCreateContext (m : Nat) (c : CtxInit) (s : State) : Host.Outcome State Fault Refusal :=
  s.ownerCommand m 0x01 fun t =>
    t.valid (decide (c.id < 65536) && (tget t.ctxs c.id).isNone && decide (c.part < t.mgmt.parts.length)
        && mayName m c.part) fun u => u.setCtx c.id (newContext c)

/-- Whether a master may name an existing context. -/
def State.mayNameCtx (s : State) (m c : Nat) : Bool :=
  match tget s.ctxs c with
  | some k => mayName m k.part
  | none => false

/-- Whether a context has harts or launches that have not ended. -/
def State.ctxBusy (s : State) (c : Nat) : Bool :=
  (s.harts.any fun h => h.ctx == c && h.status != .exited)
    || s.launches.any fun (_, l) => l.ctx == c && l.status.isNone

/-- A context with its queues, and the tables that cores hold for it, removed. -/
def State.dropCtx (s : State) (c : Nat) : State :=
  { s with
    ctxs := tdel s.ctxs c
    hqs := s.hqs.filter fun q => q.2.cfg.ctx != c
    cores := s.cores.map fun p => (p.1, if p.2.vttCtx = some c then { p.2 with vttCtx := none, vtt := [] } else p.2) }

/-- DESTROY_CONTEXT (R451). -/
def execDestroyContext (m ctx : Nat) (s : State) : Host.Outcome State Fault Refusal :=
  s.ownerCommand m 0x02 fun t => t.valid (t.mayNameCtx m ctx && !t.ctxBusy ctx) fun u => u.dropCtx ctx

/-- BIND_HOST_QUEUE (R384, R451). -/
def execBindHostQueue (m q : Nat) (c : QueueInit) (s : State) : Host.Outcome State Fault Refusal :=
  s.ownerCommand m 0x03 fun t =>
    t.valid (decide (q < 64 ∧ c.die < 4) && t.mayNameCtx m c.ctx) fun u =>
      { u with hqs := tset u.hqs q ⟨c, 0, 0, 0, []⟩ }

/-! ### Settings -/

/-- SET_SCHEDULING_QUANTUM (R393). -/
def execSetSchedulingQuantum (m us : Nat) (s : State) : Host.Outcome State Fault Refusal :=
  s.ownerCommand m 0x04 fun t => t.valid (decide (40 ≤ us ∧ us ≤ 10000)) fun u =>
    { u with mgmt := { u.mgmt with quantumUs := us } }

/-- SET_COLLECTIVE_TIMEOUT: 1 ms to 60 s (R446). -/
def execSetCollectiveTimeout (m ns : Nat) (s : State) : Host.Outcome State Fault Refusal :=
  s.ownerCommand m 0x0B fun t => t.valid (decide (1000000 ≤ ns ∧ ns ≤ 60000000000)) fun u =>
    { u with mgmt := { u.mgmt with collNs := ns } }

/-- SET_POWER_LIMIT: at most 2,400 W (R453). -/
def execSetPowerLimit (m watts : Nat) (s : State) : Host.Outcome State Fault Refusal :=
  s.ownerCommand m 0x0B fun t => t.valid (decide (watts ≤ 2400)) fun u =>
    { u with mgmt := { u.mgmt with powerLimit := watts } }

/-- SET_DOMAIN_TABLE (R445). -/
def execSetDomainTable (m own : Nat) (present : BitVec 1024) (s : State) : Host.Outcome State Fault Refusal :=
  s.ownerCommand m 0x0A fun t => t.valid (decide (own < 1024)) fun u =>
    { u with mgmt := { u.mgmt with ownDevice := own, present := present } }

/-- A host aperture inside the host range (R399, R441). -/
def apertureOk (a : MemRange) : Bool :=
  a.base % 4096 == 0 && a.size % 4096 == 0 && decide (a.base + a.size ≤ 0x1000000000000)

/-- SET_HOST_APERTURES (R441). -/
def execSetHostApertures (m part : Nat) (l : List MemRange) (s : State) : Host.Outcome State Fault Refusal :=
  s.ownerCommand m 0x0B fun t =>
    t.valid (decide (part < t.mgmt.parts.length ∧ l.length ≤ 8) && mayName m part && l.all apertureOk) fun u =>
      { u with mgmt := { u.mgmt with apertures := tset u.mgmt.apertures part l } }

/-! ### Partitions (R447) -/

/-- A range of HBM in whole GiB. -/
def rangeOk (r : Nat × Nat) : Bool :=
  r.1 % 2 ^ 30 == 0 && r.2 % 2 ^ 30 == 0 && decide (r.1 + r.2 ≤ 0x8000000000)

/-- A partition whose fields are in range. -/
def partOk (p : Partition) : Bool :=
  p.hamlets != 0 && p.ways != 0 && decide (p.ranges.length ≤ 4) && p.ranges.all rangeOk

/-- Whether two partitions share nothing. -/
def partsApart (p q : Partition) : Bool :=
  (p.hamlets &&& q.hamlets) == 0 && (p.ways &&& q.ways) == 0
    && p.ranges.all fun a => q.ranges.all fun b => !(decide (a.1 < b.1 + b.2 ∧ b.1 < a.1 + a.2))

/-- Whether every two partitions of a list share nothing. -/
def allApart : List Partition → Bool
  | [] => true
  | p :: t => t.all (partsApart p) && allApart t

/-- Whether a table would change no partition of an existing context, and a virtual function's only its own. -/
def State.mayRepart (s : State) (m : Nat) (l : List Partition) : Bool :=
  (List.range 16).all fun i =>
    s.mgmt.parts[i]? == l[i]? || (mayName m i && s.ctxs.all fun p => p.2.part != i)

/-- SET_PARTITION_TABLE (R447). -/
def execSetPartitionTable (m : Nat) (l : List Partition) (s : State) : Host.Outcome State Fault Refusal :=
  s.ownerCommand m 0x09 fun t =>
    t.valid (decide (l.length ≤ 16) && l.all partOk && allApart l && t.mayRepart m l) fun u =>
      { u with mgmt := { u.mgmt with parts := l } }

/-! ### Ending a launch (R452) -/

/-- A hart of an ended launch: held, its handles dropped, its copy commands cancelled, its area and its lanes
freed. -/
def State.endHart (s : State) : State :=
  let core := s.hart.core
  let h := launchOf s.hart.uid
  let t := if s.hart.saved then s else s.saveOut .preempt .held
  let u := (t.dropAll.freeSaveArea).leaveDevice
  (u.closeBarriers core).afterLeave core h

/-- Every hart of a launch ended, and the launch completed with status 4 (R390, R452). -/
def State.endLaunch (s : State) (handle : Nat) : State :=
  let us := (s.harts.filter fun h => launchOf h.uid == handle && h.status != .exited).map (·.uid)
  (us.foldl (fun (t : State) u => t.onOther u State.endHart) s).completeLaunch handle 4

/-- Whether a master may name a launch that has not completed. -/
def State.mayEnd (s : State) (m handle : Nat) : Bool :=
  match tget s.launches handle with
  | some l => l.status.isNone && s.mayNameCtx m l.ctx
  | none => false

/-- END_LAUNCH (R452). -/
def execEndLaunch (m handle : Nat) (s : State) : Host.Outcome State Fault Refusal :=
  s.ownerCommand m 0x05 fun t => t.valid (t.mayEnd m handle) fun u => u.endLaunch handle

/-! ### Logs, traces and quotes -/

/-- The sub-channels of an entry as a mask of its stack's 64. -/
def ErrEntry.subMask (e : ErrEntry) : Word := e.subs.foldl (fun m c => m ||| BitVec.ofNat 64 (2 ^ (c % 64))) 0

/-- An entry of the error log as words: TIME, kind, address, stack, sub-channels, granule, symbols (R432). -/
def ErrEntry.words (e : ErrEntry) : List Word :=
  [e.time, BitVec.ofNat 64 e.kind, BitVec.ofNat 64 e.pa, BitVec.ofNat 64 (stackOf e.pa), e.subMask,
    BitVec.ofNat 64 e.gran, BitVec.ofNat 64 e.symbols]

/-- READ_ERROR_LOG: the overflow count and the entries, oldest first (R432). -/
def execReadErrorLog (m die : Nat) (s : State) : Host.Outcome State Fault Refusal :=
  s.command m 0x07 fun t =>
    if die < 4 then
      let d := (tget t.dieLogs die).getD DieLog.reset
      t.served (BitVec.ofNat 64 d.ovf :: d.log.flatMap ErrEntry.words)
    else t.refuse 1

/-- CLEAR_ERROR_LOG (R432). -/
def execClearErrorLog (m die : Nat) (s : State) : Host.Outcome State Fault Refusal :=
  s.ownerCommand m 0x07 fun t => t.valid (decide (die < 4)) fun u => { u with dieLogs := tset u.dieLogs die DieLog.reset }

/-- The code of a clock domain (R454). -/
def domainCode : ClockDomain → Nat
  | .scalar => 0
  | .lane => 1
  | .vmu => 2

/-- The code of a reason (R454). -/
def reasonCode : ClockReason → Nat
  | .power => 0
  | .thermal => 1
  | .current => 2
  | .owner => 3

/-- The 16 bytes of a trace entry as two words (R454). -/
def TraceEntry.words (e : TraceEntry) : List Word :=
  [e.time, BitVec.ofNat 64 (domainCode e.dom + 2 ^ 8 * reasonCode e.reason + 2 ^ 16 * (e.mhz % 2 ^ 16))]

/-- READ_TRACE_BUFFER: the overflow count and the entries in order (R454). -/
def execReadTraceBuffer (m hamlet : Nat) (s : State) : Host.Outcome State Fault Refusal :=
  s.command m 0x08 fun t =>
    if hamlet < 32 then
      let h := t.hamlet hamlet
      t.served (BitVec.ofNat 64 h.traceOvf :: h.trace.flatMap TraceEntry.words)
    else t.refuse 1

/-- The bytes of a value of 32 bytes, first byte first. -/
def bytes32 (v : BitVec 256) : List Byte := valBytes 32 v.toNat

/-- The numbers of the partition table. -/
def partNumbers (l : List Partition) : List Nat :=
  l.flatMap fun p => [p.hamlets.toNat, p.ways.toNat, p.ranges.length] ++ p.ranges.flatMap fun r => [r.1, r.2]

/-- The numbers of the aperture tables. -/
def apertureNumbers (t : Tbl (List MemRange)) : List Nat :=
  t.flatMap fun p => [p.1, p.2.length] ++ p.2.flatMap fun a => [a.base, a.size]

/-- The items of a quote (R458): the nonce, the five digests, and the count of quotes issued. -/
def State.quoteBytes (s : State) (nonce : BitVec 256) : List Byte :=
  let g := s.mgmt
  bytes32 nonce ++ bytes32 Config.romDigest ++ bytes32 (Config.firmwareDigest g.slotB)
    ++ sha256 (Config.tableBytes (partNumbers g.parts))
    ++ sha256 (Config.tableBytes [g.ownDevice, g.present.toNat])
    ++ sha256 (Config.tableBytes (apertureNumbers g.apertures))
    ++ valBytes 8 (g.quotes + 1)

/-- ATTESTATION_QUOTE: signed with a one-time key, up to 2^40 of them (R458). -/
def execAttestationQuote (m : Nat) (nonce : BitVec 256) (s : State) : Host.Outcome State Fault Refusal :=
  s.command m 0x0C fun t =>
    if t.mgmt.quotes < 2 ^ 40 then
      let q := t.quoteBytes nonce
      ({ t with mgmt := { t.mgmt with quotes := t.mgmt.quotes + 1 } } : State).served
        ((q ++ Config.signature q t.mgmt.quotes).map fun b => b.setWidth 64)
    else t.refuse 1

/-! ### Messages to harts (R423) -/

/-- MAILBOX_MESSAGE_TO_HART: cause 0x3C1 pends with the message's number; repeats coalesce (R420, R423). R451 gives a
message no OP: its step needs no doorbell (DESIGN CHOICE, assumption log 67). -/
def execMailboxMessageToHart (m uid : Nat) (msg : Word) (s : State) : Host.Outcome State Fault Refusal :=
  .next (if s.opened m then State.answer m (match s.findHart uid with
    | some h =>
      s.valid (h.status != .exited && s.mayNameCtx m h.ctx) fun u => u.modHart uid fun g => { g with irqMail := some msg }
    | none => s.refuse 1) else s)

end Sys2Proof.Machine
end

