-- ==== Sys2Proof/Machine/HashTree.lean ====
section
/-! DEFINITION. Hash regions and their trees (R435, R436). -/

namespace Sys2Proof.Machine

/-! ### Registration (R435) -/

/-- The least D with 2^D at or above a count, searched from a start. -/
def log2Up (n : Nat) : Nat → Nat → Nat
  | 0, d => d
  | f + 1, d => if n ≤ 2 ^ d then d else log2Up n f (d + 1)

/-- D of a region: ⌈log2 (SIZE / 65,536)⌉. -/
def treeDepth (size : Nat) : Nat := log2Up (size / 65536) 21 0

/-- Whether two ranges share a byte. -/
def rangesMeet (a n b m : Nat) : Bool := decide (a < b + m ∧ b < a + n)

/-- The fields of a descriptor in range, its region apart from every other. -/
def State.regionOk (s : State) (base size tree interval : Nat) : Bool :=
  base % 65536 == 0 && size % 65536 == 0 && decide (65536 ≤ size ∧ size ≤ 2 ^ 36 ∧ base + size ≤ 0x8000000000)
    && tree % 32 == 0 && decide (tree + 32 * 2 ^ (treeDepth size + 1) ≤ 2 ^ 52) && decide (interval ≤ 60000)
    && s.regions.all fun p => !rangesMeet base size p.2.base p.2.size

/-- The lowest region number without a region. -/
def State.freeRegion (s : State) : Option Nat := (List.range 16).find? fun n => (tget s.regions n).isNone

/-- A field of a descriptor in memory (R435). -/
def State.regionField (s : State) (desc o n : Nat) : Nat := bytesVal (s.l2Bytes 3 (desc + o) n)

/-- A region at its registration: no tree is in memory yet, so every leaf counts as dirty. -/
def State.newRegion (s : State) (desc base size tree interval : Nat) : HashRegion where
  base := base
  size := size
  tree := tree
  interval := interval
  depth := treeDepth size
  epoch := 0
  dirty := List.range (2 ^ treeDepth size)
  updated := s.time
  desc := desc

/-- The fields of a descriptor that the device writes: D and EPOCH (R435). -/
def State.writeBackRegion (s : State) (r : HashRegion) : State :=
  s.l2WriteAt 3 (r.desc + 28) (valBytes 4 r.depth ++ valBytes 8 r.epoch)

/-- HASH_REGION_REGISTER of the descriptor at a physical address (R435): it answers the region's number. -/
def execHashRegionRegister (m desc : Nat) (s : State) : Host.Outcome State Fault Refusal :=
  s.ownerCommand m 0x06 fun t =>
    let f := t.regionField desc
    match t.freeRegion with
    | some n =>
      if isHbm (desc + 63) && f 40 24 == 0 && t.regionOk (f 0 8) (f 8 8) (f 16 8) (f 24 4) then
        let r := t.newRegion desc (f 0 8) (f 8 8) (f 16 8) (f 24 4)
        ({ t.writeBackRegion r with regions := tset t.regions n r } : State).served [BitVec.ofNat 64 n]
      else t.refuse 1
    | none => t.refuse 1

/-- HASH_REGION_REMOVE (R435, R451). -/
def execHashRegionRemove (m region : Nat) (s : State) : Host.Outcome State Fault Refusal :=
  s.ownerCommand m 0x06 fun t => t.valid (tget t.regions region).isSome fun u =>
    { u with regions := tdel u.regions region }

/-! ### Updates (R436) -/

/-- Node j of a tree written. -/
def State.putNode (s : State) (r : HashRegion) (j : Nat) (d : List Byte) : State :=
  s.l2WriteAt 3 (r.tree + 32 * j) d

/-- A leaf hashed again: 32 zero bytes beyond the region's end. -/
def State.rehashLeaf (s : State) (r : HashRegion) (i : Nat) : State :=
  s.putNode r (2 ^ r.depth + i)
    (if i < r.size / 65536 then sha256 (cellsGet s.mem (r.base + 65536 * i) 65536) else List.replicate 32 0)

/-- An inner node hashed again from its two children, left first. -/
def State.rehashNode (s : State) (r : HashRegion) (j : Nat) : State :=
  s.putNode r j (sha256 (cellsGet s.mem (r.tree + 64 * j) 64))

/-- The nodes above some nodes, level by level up to the root. -/
def State.rehashUp (s : State) (r : HashRegion) : Nat → List Nat → State
  | 0, _ => s
  | n + 1, js =>
    let up := (js.map (· / 2)).eraseDups
    (up.foldl (fun (t : State) j => t.rehashNode r j) s).rehashUp r n up

/-- Every dirty leaf and every node above it hashed again; EPOCH rises (R436). The tree's writes are no
writes of the regions. -/
def State.hashUpdate (s : State) (n : Nat) : State :=
  match tget s.regions n with
  | none => s
  | some r =>
    let t := r.dirty.foldl (fun (t : State) i => t.rehashLeaf r i) s
    let u := t.rehashUp r r.depth (r.dirty.map (2 ^ r.depth + ·))
    let q := { r with dirty := [], epoch := r.epoch + 1, updated := s.time }
    { u.writeBackRegion q with regions := tset s.regions n q }

/-- HASH_TREE_UPDATE: at each interval (R436). -/
def execHashTreeUpdate (region : Nat) (s : State) : Host.Outcome State Fault Refusal :=
  .next (match tget s.regions region with
    | some r =>
      if r.interval ≠ 0 ∧ r.interval * 1000000 ≤ (s.time - r.updated).toNat then s.hashUpdate region else s
    | none => s)

/-- HASH_REGION_SEAL: an update at request, answered after its tree writes (R436). -/
def execHashRegionSeal (m region : Nat) (s : State) : Host.Outcome State Fault Refusal :=
  s.ownerCommand m 0x06 fun t => t.valid (tget t.regions region).isSome fun u => u.hashUpdate region

end Sys2Proof.Machine
end

