-- ==== Sys2Proof/Machine/Kernels.lean ====
section
/-! DEFINITION. The registration of kernels (R50, R188, R197, R232, R235). -/

namespace Sys2Proof.Machine

/-! ### The header (R232) -/

/-- The bytes of a virtual range as the controller reads them through a context's scalar translation. -/
def State.ctxBytes (s : State) (c : Nat) (va : Word) : Nat → Option (List Byte)
  | 0 => some []
  | n + 1 =>
    match s.dispXlat c .read va, s.ctxBytes c (va + 1) n with
    | some t, some l => some (s.l2Byte t.gran t.pa :: l)
    | _, _ => none

/-- A field of a header. -/
def hdrField (l : List Byte) (o n : Nat) : Nat := bytesVal ((l.drop o).take n)

/-- The loop table's entries. -/
def loopEntries (l : List Byte) : List Nat := (List.range 4).map fun i => hdrField l (24 + 2 * i) 2

/-- The kind of a loop entry and its argument word (R232). -/
def loopEntry (e : Nat) : Option (LoopKind × Nat) :=
  match bits e 14 2 with
  | 1 => some (.temporal, bits e 0 14)
  | 2 => some (.cores, bits e 0 14)
  | 3 => some (.dies, bits e 0 14)
  | _ => none

/-- The place of a kind in the order R50 asks for: dies, then cores, then temporal levels. -/
def LoopKind.rank : LoopKind → Nat
  | .dies => 0
  | .cores => 1
  | .temporal => 2

/-- The levels of a loop table, where it is well formed (R50, R232): an absent entry, of kind 0 whatever its index,
has only absent ones behind it. -/
def loopLevels : List Nat → Option (List (LoopKind × Nat))
  | [] => some []
  | e :: t =>
    match loopEntry e with
    | none => if t.all (fun n => bits n 14 2 == 0) then some [] else none
    | some k =>
      match loopLevels t with
      | some l => if l.all fun j => decide (k.1.rank ≤ j.1.rank) then some (k :: l) else none
      | none => none

/-- Whether a mark table byte is allowed (R188). -/
def markOk (b : Byte) : Bool := decide (b.toNat < 32) || b == 0xFF

/-- Whether the fixed fields of a header are in range and its reserved bytes zero (R232). -/
def headerOk (l : List Byte) : Bool :=
  hdrField l 0 4 == 0x39485A4B && decide (hdrField l 4 1 ≤ 32) && decide (1 ≤ hdrField l 5 1 ∧ hdrField l 5 1 ≤ 32)
    && decide (hdrField l 6 1 ≤ 8 ∧ hdrField l 7 1 ≤ 16 ∧ hdrField l 8 1 ≤ 8 ∧ hdrField l 9 1 < 4)
    && hdrField l 10 2 == 0 && decide (hdrField l 12 4 ≤ 3670016) && ((l.drop 16).take 8).all markOk
    && hdrField l 32 32 == 0

/-- The bounds a header declares (R188, R233). -/
def headerBounds (l : List Byte) : Bounds where
  vregs := hdrField l 4 1
  accs := hdrField l 6 1
  barriers := hdrField l 7 1
  seqs := hdrField l 8 1
  scratch := hdrField l 12 4
  paired := bit (hdrField l 9 1) 0
  marks := Vector.ofFn fun (i : Fin 8) => l.getD (16 + i.val) 0xFF

/-! ### The checks of a registration (R235) -/

/-- The first address of each page that a range lies in, at the smallest page size. -/
def pagesOf (va : Word) (n : Nat) : List Word :=
  (List.range ((va.toNat % 4096 + n + 4095) / 4096)).map fun i => BitVec.ofNat 64 (va.toNat / 4096 * 4096 + 4096 * i)

/-- Whether a range can be accessed in a kind through a context's scalar translation. -/
def State.ctxAllows (s : State) (c : Nat) (kind : Kind) (va : Word) (n : Nat) : Bool :=
  (pagesOf va n).all fun p => (s.dispXlat c kind p).isSome

/-- The advice code size and whether the advice section's fixed fields are in range (R197). -/
def adviceHead (l : List Byte) : Nat × Bool :=
  let n := hdrField l 32 4
  (n, n % 4 == 0 && decide (4 ≤ n ∧ n ≤ 65536) && hdrField l 36 28 == 0)

/-- The advice section of a registration: its size and whether it is well formed, none where it cannot be
read; no section where the address is 0. -/
def State.adviceOf (s : State) (c : Nat) (va : Word) : Option (Nat × Bool) :=
  if va = 0 then some (0, true)
  else match s.ctxBytes c va 64 with
    | some l =>
      let a := adviceHead l
      if s.ctxAllows c .read va (64 + if a.2 then a.1 else 0) then some a else none
    | none => none

/-- A kernel of a registration, where every check passes (R235). -/
def State.kernelOf (s : State) (c : KernelInit) : Option Kernel :=
  match s.ctxBytes c.ctx c.kzhdr 64 with
  | none => none
  | some l =>
    match loopLevels (loopEntries l), s.adviceOf c.ctx c.advice with
    | some loops, some a =>
      if headerOk l && s.ctxAllows c.ctx .read c.text c.textSize && s.ctxAllows c.ctx .fetch c.text c.textSize then
        some
          { text := c.text
            advice := c.advice
            textSize := c.textSize
            digestOk := c.digestOk
            bounds := headerBounds l
            loops := loops
            advSize := a.1
            advOk := a.2 }
      else none
    | _, _ => none

/-- Whether the controller's reads of a registration park at a page in migration (R412). -/
def State.registerParks (s : State) (c : KernelInit) : Bool :=
  (pagesOf c.kzhdr 64).any (s.dispParks c.ctx .read)
    || (c.advice != 0 && (pagesOf c.advice 64).any (s.dispParks c.ctx .read))

/-- REGISTER_KERNEL (R235); a command whose reads park is served later. -/
def execRegisterKernel (m : Nat) (c : KernelInit) (s : State) : Host.Outcome State Fault Refusal :=
  if s.rung m 0x10 && s.owns m && s.registerParks c then .next s
  else s.ownerCommand m 0x10 fun t =>
    match t.kernelOf c with
    | some k => t.valid (t.mayNameCtx m c.ctx) fun u =>
        let x := u.ctx c.ctx
        u.setCtx c.ctx { x with kernels := tset x.kernels c.kzhdr.toNat k }
    | none => t.refuse 1

/-- Whether a registered kernel has no accepted launch that has not completed (R235). -/
def State.kernelIdle (s : State) (c kzhdr : Nat) : Bool :=
  (tget (s.ctx c).kernels kzhdr).isSome
    && s.launches.all fun (_, l) => !(l.ctx == c && l.kzhdr == kzhdr && l.status.isNone)

/-- UNREGISTER_KERNEL (R235). -/
def execUnregisterKernel (m ctx kzhdr : Nat) (s : State) : Host.Outcome State Fault Refusal :=
  s.ownerCommand m 0x10 fun t => t.valid (t.mayNameCtx m ctx && t.kernelIdle ctx kzhdr) fun u =>
    let x := u.ctx ctx
    u.setCtx ctx { x with kernels := tdel x.kernels kzhdr }

end Sys2Proof.Machine
end

