-- ==== Sys2Proof/Machine/Links.lean ====
section
/-! DEFINITION. The host's windows, the errors of host and remote requests, and the link's ports (R439 to
R446). -/

namespace Sys2Proof.Machine

/-- The last function: one physical function, 0, and virtual functions 1 to 16 (R438). A request to another reaches
no window. -/
def lastFn : Nat := 16

/-! ### Window D (R439, R440) -/

/-- Whether a function reaches an HBM address: the physical function, 0, all of it; virtual function i, i + 1,
its partition's ranges (R439). -/
def State.windowReaches (s : State) (fn pa : Nat) : Bool :=
  isHbm pa && (fn == 0 || match s.mgmt.parts[fn - 1]? with
    | some p => p.ranges.any fun r => decide (r.1 ≤ pa ∧ pa < r.1 + r.2)
    | none => false)

/-- A byte as the host reads it at its home slice; poisoned data is delivered as such, and its bytes are open. -/
def State.hostByte (s : State) (fn pa : Nat) : Byte :=
  if s.boot = .done ∧ s.windowReaches fn pa then
    if s.poison.contains (pa / 32) then Config.freeByte s.free pa else cellGet s.mem pa
  else 0

/-- Poison that a host read delivers is logged once for each sector (R432). -/
def State.logHostPoison (s : State) (fn pa n : Nat) : State :=
  let secs := ((List.range n).map fun i => (pa + i) / 32).eraseDups.filter fun k =>
    s.boot == .done && s.windowReaches fn (32 * k) && s.poison.contains k
  secs.foldl (fun (t : State) k => t.logError (bits (32 * k) 36 3 / 2) 2 (32 * k) (t.grainOf (32 * k)).toNat 0) s

/-! ### Window M (R439, R451) -/

/-- The master that a function is (R449). -/
def fnMaster (fn : Nat) : Nat := if fn = 0 then 1 else 0x10 + (fn - 1)

/-- The host queue whose doorbell page holds an offset, where the function reaches it: the physical function all of
them, a virtual function those of its partition (R439). -/
def State.pageQueue (s : State) (fn off : Nat) : Option (Nat × HostQueue) :=
  if 0x100000 ≤ off ∧ off < 0x140000 then
    let q := (off - 0x100000) / 4096
    match tget s.hqs q with
    | some k => if fn = 0 ∨ (s.ctx k.cfg.ctx).part = fn - 1 then some (q, k) else none
    | none => none
  else none

/-- A byte of window M: the command entry, the answer, the completion bit, and in a doorbell page the producer index
and the response index; the rest reads as zero (R439, R451; the layout within a page and behind the status is the
model's, assumption log 32). -/
def State.windowM (s : State) (fn off : Nat) : Byte :=
  let b := s.mailbox (fnMaster fn)
  if off < 0x40 then b.entry.getD off 0
  else if 0x80 ≤ off ∧ off < 0xC0 then
    ((BitVec.ofNat 64 b.status :: b.result).flatMap fun w => valBytes 8 w.toNat).getD (off - 0x80) 0
  else if off = 0xC0 then (if b.done then 1 else 0)
  else match s.pageQueue fn off with
    | some (_, k) => (valBytes 8 k.produced ++ valBytes 8 k.respIdx).getD (off % 4096) 0
    | none => 0

/-- The mailbox's doorbell (R451): the command of the entry's OP begins, its completion bit clear; its step of the
opcode table serves it. An unknown OP is answered at once. -/
def State.ringMailbox (s : State) (m : Nat) : State :=
  let b := s.mailbox m
  let op := bytesVal (b.entry.take 2)
  let t := s.setMailbox m { b with done := false, op := some op }
  if op = 0 ∨ 0x10 < op then State.answer m (t.refuse 3) else t

/-- A write of window M: entry bytes, then the mailbox's doorbell, then a queue's producer index (R384, R439). -/
def State.writeM (s : State) (fn off : Nat) (data : List Byte) : State :=
  let m := fnMaster fn
  let at_ (i : Nat) : Option Byte := if off ≤ i then data[i - off]? else none
  let b := s.mailbox m
  let t := if off < 0x40 then s.setMailbox m { b with entry := (List.range 64).map fun i => (at_ i).getD (b.entry.getD i 0) }
    else s
  let u := if (at_ 0x40).isSome then t.ringMailbox m else t
  match u.pageQueue fn off with
  | some (q, k) =>
    if off % 4096 < 8 then
      let old := valBytes 8 k.produced
      let v := bytesVal ((List.range 8).map fun i => (at_ (off / 4096 * 4096 + i)).getD (old.getD i 0))
      { u with hqs := tset u.hqs q { k with produced := v } }
    else u
  | none => u

/-- HOST_WINDOW_READ: in window D an acquire at V that changes no L1 (R440). -/
def execHostWindowRead (fn : Nat) (sp : HostSpace) (addr n : Nat) (s : State) : Host.Outcome State Fault Refusal :=
  if lastFn < fn then .next s
  else match sp with
  | .d =>
    let t := (s.logHostPoison fn addr n).bumpFree
    .next { t with hostOut := (List.range n).map fun i => s.hostByte fn (addr + i) }
  | .m => .next { s with hostOut := (List.range n).map fun i =>
      if s.boot = .done then s.windowM fn (addr + i) else 0 }

/-- HOST_WINDOW_WRITE: in window D a release at V (R440); ignored before the windows are open and outside a function's
ranges (R439, R457). -/
def execHostWindowWrite (fn : Nat) (sp : HostSpace) (addr : Nat) (data : List Byte) (s : State) :
    Host.Outcome State Fault Refusal :=
  .next (if s.boot = .done ∧ fn ≤ lastFn then
    match sp with
    | .d => s.homeWrite ((cellsAt addr data).filter fun c => s.windowReaches fn c.1)
    | .m => s.writeM fn addr data
  else s)

/-! ### Requests that fail (R441, R446) -/

/-- A read of host or remote memory that ends without data delivers poison (R431). -/
def State.poisonRange (s : State) (pa n : Nat) : State :=
  ((List.range n).map fun i => (pa + i) / 32).eraseDups.foldl (fun (t : State) k => t.addPoison k) s

/-- A write that its target dropped, logged (R432): the target's bytes are as they were before it, and L2 keeps no
copy of the line (R441, R446). -/
def State.dropWrite (s : State) (die pa n : Nat) : State :=
  let old := (List.range n).filterMap fun i => (tget s.posted (pa + i)).map fun b => (pa + i, b)
  let t := old.foldl (fun (t : State) c => { t with mem := cellSet t.mem c.1 c.2, posted := tdel t.posted c.1 })
    (s.l2EvictRange pa n)
  t.logError die 3 pa 3 0

/-- HOST_REQUEST_ERROR: Unsupported Request or Completer Abort on a host window (R441). -/
def execHostRequestError (pa n : Nat) (isWrite : Bool) (s : State) : Host.Outcome State Fault Refusal :=
  .next (if isHost pa then (if isWrite then s.dropWrite 0 pa n else s.poisonRange pa n) else s)

/-- HOST_READ_TIMEOUT: no completion within 50 ms (R441). -/
def execHostReadTimeout (pa n : Nat) (s : State) : Host.Outcome State Fault Refusal :=
  .next (if isHost pa then s.poisonRange pa n else s)

/-- HOST_SNOOP (R442): with the CXL option, the host asks for a line of an aperture that L2 has taken under CACHE 0. What
L2's copy holds dirty goes to the host, and L2 keeps a clean copy, or none where the host takes the line; no L1 is
snooped, and no other line of L2. -/
def execHostSnoop (pa : Nat) (take : Bool) (s : State) : Host.Outcome State Fault Refusal :=
  .next (match tget s.l2 (pa / 256) with
    | some l =>
      if !isHost pa || !Config.cxl || !l.snoop then s
      else if take then s.l2Evict (pa / 256)
      else { s with
        l2 := tset s.l2 (pa / 256) { l with dirty := 0 }
        hostMem := s.hostMem.filter fun c => c.1 / 256 != pa / 256 || !l.dirty.getLsbD (c.1 % 256 / 32) }
    | none => s)

/-- Nanoseconds after which a request without a path ends (R446). -/
def remoteNs : Nat := 10000000

/-- REMOTE_REQUEST_TIMEOUT: a read or atomic delivers poison, a write is dropped, a coll records status 2
(R446). -/
def execRemoteRequestTimeout (kind : RemoteKind) (pa n uid : Nat) (s : State) : Host.Outcome State Fault Refusal :=
  match kind with
  | .read => .next (if isDomain pa then s.poisonRange pa n else s)
  | .write => .next (if isDomain pa then s.dropWrite 0 pa n else s)
  | .coll => onHart uid s fun t => match t.hart.copyq with
    | [] => t
    | c :: _ => if remoteNs ≤ (t.time - c.issued).toNat then t.collTimeout fun _ => true else t

/-! ### Ports (R443, R444) -/

/-- A port. -/
def State.port (s : State) (n : Nat) : Port := (tget s.ports n).getD Port.reset

/-- A port written. -/
def State.setPort (s : State) (n : Nat) (p : Port) : State := { s with ports := tset s.ports n p }

/-- Whether a flit's CRC holds: over bytes 0 to 247, in bytes 248 to 255 (R443). -/
def flitOk (f : List Byte) : Bool :=
  f.length == 256 && (crc64 (f.take 248)).toNat == bytesVal (f.drop 248)

/-- A flit that fails: discarded, and a replay requested; the sixteenth failed replay sends the port into
retraining. -/
def Port.failed (p : Port) (now : Word) : Port :=
  if p.replay then
    if p.retries + 1 = 16 then { p with st := .retraining, since := now, retries := 0 }
    else { p with retries := p.retries + 1 }
  else { p with replay := true, retries := 0 }

/-- The flits of a retry buffer. -/
def retryMax : Nat := 512

/-- Flits to send move into the retry buffer of a port that is up, as far as it has room (R444). -/
def Port.pump (p : Port) : Port :=
  if p.st = .up then
    let k := retryMax - p.retry.length
    { p with retry := p.retry ++ p.sendq.take k, sendq := p.sendq.drop k }
  else p

/-- Flits up to the acknowledged one leave the retry buffer (R443, R444). -/
def Port.acked (p : Port) (ack : Nat) : Port :=
  match p.retry.findIdx? fun f => Config.flitSeq f == ack with
  | some i => { p with retry := p.retry.drop (i + 1) }
  | none => p

/-- A flit at a port that is up: accepted in sequence, with what it acknowledges; discarded otherwise. -/
def Port.receive (p : Port) (f : List Byte) (now : Word) : Port :=
  if !flitOk f then p.failed now
  else if Config.flitSeq f = p.expected then
    ({ p with expected := p.expected + 1, retries := 0, replay := false, flits := p.flits ++ [f] }.acked
      (Config.flitAck f)).pump
  else p

/-- LINK_FLIT_RECEIVE (R444). -/
def execLinkFlitReceive (port : Nat) (flit : List Byte) (s : State) : Host.Outcome State Fault Refusal :=
  .next (if port < 18 ∧ (s.port port).st = .up then s.setPort port ((s.port port).receive flit s.time) else s)

/-- Nanoseconds within which a port retrains (R444). -/
def retrainNs : Nat := 100000000

/-- LINK_PORT_RETRAINED: within 100 ms the port is up again, and the flit it asked for is replayed (R444). -/
def execLinkPortRetrained (port : Nat) (s : State) : Host.Outcome State Fault Refusal :=
  let p := s.port port
  .next (if port < 18 ∧ p.st = .retraining ∧ (s.time - p.since).toNat < retrainNs then
    s.setPort port { p with st := .up, retries := 0 }.pump else s)

/-- The port that takes over the traffic of one that is down: the lowest of those that are up and reach the same
neighbour or switch (R444). -/
def State.takeover (s : State) (port : Nat) : Option Nat :=
  (List.range 18).find? fun n =>
    n != port && Config.neighbour n == Config.neighbour port && (s.port n).st == .up

/-- A port down: its unacknowledged flits and those still to send move to another port, in their order (R444). -/
def State.portDown (s : State) (port : Nat) : State :=
  let p := s.port port
  match s.takeover port with
  | some n =>
    let q := s.port n
    (s.setPort port { p with st := .down, retry := [], sendq := [] }).setPort n
      { q with sendq := q.sendq ++ p.retry ++ p.sendq }.pump
  | none => s.setPort port { p with st := .down }

/-- LINK_PORT_DOWN: a port that did not retrain within 100 ms (R444). -/
def execLinkPortDown (port : Nat) (s : State) : Host.Outcome State Fault Refusal :=
  let p := s.port port
  .next (if port < 18 ∧ p.st = .retraining ∧ retrainNs ≤ (s.time - p.since).toNat then s.portDown port else s)

/-- A flit to send on a port (R443): a port that is down leaves it to the one that took its traffic over. -/
def State.sendFlit (s : State) (port : Nat) (flit : List Byte) : State :=
  let n := if (s.port port).st = .down then (s.takeover port).getD port else port
  if n < 18 then
    let q := s.port n
    s.setPort n { q with sendq := q.sendq ++ [flit] }.pump
  else s

end Sys2Proof.Machine
end

