-- ==== Sys2Proof/Machine/Power.lean ====
section
/-! DEFINITION. Clocks, throttle, power notifications, bring-up and uncorrectable storage errors (R431,
R453 to R457). -/

namespace Sys2Proof.Machine

/-! ### Notifications (R456) -/

/-- The lowest-numbered of some harts. -/
def lowestHart : List Hart → Option Hart
  | [] => none
  | h :: t => match lowestHart t with
    | some g => if g.number < h.number then some g else some h
    | none => some h

/-- The resident harts of a context, in a hamlet or in the whole device. -/
def State.residents (s : State) (c : Nat) (hamlet : Option Nat) : List Hart :=
  s.harts.filter fun h => h.ctx == c && h.inSlot && (hamlet.isNone || hamlet == some (hamletOf h.core))

/-- A notification to every context that has a resident hart, addressed to the lowest-numbered one (R456). -/
def State.notifyResidents (s : State) (hamlet : Option Nat) (kind detail a1 a2 : Nat) : State :=
  s.ctxs.foldl (fun (t : State) p =>
    match lowestHart (s.residents p.1 hamlet) with
    | some h => t.notify p.1 kind h.uid detail a1 a2
    | none => t) s

/-! ### Clocks and throttle (R453 to R455) -/

/-- The lowest and the highest frequency of a domain in MHz (R453). -/
def clockRange : ClockDomain → Nat × Nat
  | .scalar => (1200, 3600)
  | .lane => (600, 1800)
  | .vmu => (800, 2400)

/-- A hamlet's frequency. -/
def Hamlet.clock (h : Hamlet) : ClockDomain → Nat
  | .scalar => h.scalar
  | .lane => h.lane
  | .vmu => h.vmu

/-- A hamlet's frequency set. -/
def Hamlet.setClock (h : Hamlet) (d : ClockDomain) (mhz : Nat) : Hamlet :=
  match d with
  | .scalar => { h with scalar := mhz }
  | .lane => { h with lane := mhz }
  | .vmu => { h with vmu := mhz }

/-- A change recorded: 256 entries, the oldest overwritten (R454). -/
def Hamlet.record (h : Hamlet) (e : TraceEntry) : Hamlet :=
  if h.trace.length < 256 then { h with trace := h.trace ++ [e] }
  else { h with trace := h.trace.drop 1 ++ [e], traceOvf := h.traceOvf + 1 }

/-- A hamlet written. -/
def State.setHamlet (s : State) (n : Nat) (h : Hamlet) : State := { s with hamlets := tset s.hamlets n h }

/-- A frequency a domain can take: in range, in steps of 100 MHz. -/
def clockOk (d : ClockDomain) (mhz : Nat) : Bool :=
  mhz % 100 == 0 && decide ((clockRange d).1 ≤ mhz ∧ mhz ≤ (clockRange d).2)

/-- A frequency changed (R453, R454, R456). -/
def State.changeClock (s : State) (n : Nat) (d : ClockDomain) (mhz : Nat) (r : ClockReason) : State :=
  (s.setHamlet n (((s.hamlet n).setClock d mhz).record ⟨s.time, d, r, mhz⟩)).notifyResidents (some n) 0x02
    (domainCode d) n mhz

/-- CLOCK_CHANGE (R453). -/
def execClockChange (hamlet : Nat) (dom : ClockDomain) (mhz : Nat) (reason : ClockReason) (s : State) :
    Host.Outcome State Fault Refusal :=
  .next (if hamlet < 32 ∧ clockOk dom mhz ∧ (s.hamlet hamlet).clock dom ≠ mhz then
    s.changeClock hamlet dom mhz reason else s)

/-- THROTTLE_LEVEL_CHANGE: kind 0x00 where the level rises, 0x01 where it falls (R455, R456). -/
def execThrottleLevelChange (hamlet level : Nat) (s : State) : Host.Outcome State Fault Refusal :=
  let old := (s.hamlet hamlet).throttle
  .next (if hamlet < 32 ∧ level ≤ 6 ∧ level ≠ old then
    (s.setHamlet hamlet { s.hamlet hamlet with throttle := level }).notifyResidents (some hamlet)
      (if old < level then 0x00 else 0x01) level hamlet old
  else s)

/-- POWER_LIMIT_REACHED (R456). -/
def execPowerLimitReached (watts limit : Nat) (s : State) : Host.Outcome State Fault Refusal :=
  .next (if limit = s.mgmt.powerLimit then s.notifyResidents none 0x03 0 watts limit else s)

/-- THERMAL_LIMIT_REACHED (R456). -/
def execThermalLimitReached (hamlet tenths : Nat) (s : State) : Host.Outcome State Fault Refusal :=
  .next (if hamlet < 32 then s.notifyResidents (some hamlet) 0x04 0 hamlet tenths else s)

/-- POWER_BACK_WITHIN_LIMIT (R456). -/
def execPowerBackWithinLimit (watts limit : Nat) (s : State) : Host.Outcome State Fault Refusal :=
  .next (if limit = s.mgmt.powerLimit then s.notifyResidents none 0x05 0 watts limit else s)

/-! ### Bring-up (R457) -/

/-- The stores after bring-up: every HBM byte zero under G256, L2 and the core arrays zero with correct codes. -/
def State.clearStores (s : State) : State :=
  { s with
    mem := (cellsPut s.mem s.hostMem).filter fun c => !isHbm c.1
    hostMem := []
    l2 := []
    broken := []
    poison := s.poison.filter fun k => !isHbm (32 * k) && !s.l2Poison.contains k
    l2Poison := []
    grain := []
    cores := s.cores.map fun p => (p.1, Core.reset) }

/-- POWER_ON_BRING_UP: from slot A's firmware, or slot B's where the first does not verify; with neither the boot
ROM halts (R457). -/
def execPowerOnBringUp (slotA slotB : Bool) (s : State) : Host.Outcome State Fault Refusal :=
  .next (if s.boot = .off then
    if slotA || slotB then
      { s.clearStores with boot := .done, mgmt := { s.mgmt with slotB := !slotA } }
    else { s with boot := .halted }
  else s)

/-! ### Uncorrectable errors in L2 and in core arrays (R431) -/

/-- A line of L2 in error: its dirty sectors are marked poisoned, and its clean ones are to be fetched again. -/
def State.l2Error (s : State) (pa : Nat) : State :=
  let line := pa / 256
  match tget s.l2 line with
  | none => s
  | some l =>
    let secs (f : Nat → Bool) : List Nat := ((List.range 8).filter f).map (8 * line + ·)
    let t := s.addPoisons (secs l.dirty.getLsbD)
    let clean := secs fun k => l.valid.getLsbD k && !l.dirty.getLsbD k
    ({ t with broken := clean ++ t.broken } : State).logError (l2Slice line / 64) 1 pa l.gran.toNat 0

/-- A line of a core's L1 in error: its dirty bytes are marked poisoned, and its clean data is to be fetched
again. -/
def State.l1Error (s : State) (core pa : Nat) : State :=
  match tget (s.core core).l1 (pa / 256) with
  | some l =>
    (s.setLine core (pa / 256) { l with broken := l.valid, poison := l.poison ||| l.dirty }).logError (dieOf core) 1 pa
      l.gran.toNat 0
  | none => s

/-- A word of a hart's scratchpad in error: the core array holds its only copy. -/
def State.scrError (s : State) (uid word : Nat) : State :=
  s.modHart uid fun h => { h with scrBad := if h.scrBad.contains word then h.scrBad else word :: h.scrBad }

/-- UNCORRECTABLE_STORAGE_ERROR (R431). -/
def execUncorrectableStorageError (level : StorageLevel) (pa : Nat) (s : State) : Host.Outcome State Fault Refusal :=
  .next (match level with
    | .l2 => s.l2Error pa
    | .coreArray core => s.l1Error core pa
    | .scratchpad uid => s.scrError uid (pa / 4))

end Sys2Proof.Machine
end

