-- ==== Sys2Proof/Machine/ScalarInt.lean ====
section
/-! DEFINITION. Scalar integer instructions: major INT and the immediate majors (R237 to R239). -/

namespace Sys2Proof.Machine

/-- A value written to x[d], and the next instruction. -/
def writeNext (d : Reg) (v : Word) (s : State) : Host.Outcome State Fault Refusal :=
  .next (s.setX d v).advance

/-- 1 when a condition holds, else 0. -/
def word01 (b : Bool) : Word := if b then 1 else 0

/-- Leading zeros; 64 for 0. -/
def clz64 (v : Word) : Nat := if v = 0 then 64 else 63 - Nat.log2 v.toNat

/-- Trailing zeros; 64 for 0. -/
def ctz64 (v : Word) : Nat := ((List.range 64).find? fun i => v.getLsbD i).getD 64

/-- Set bits. -/
def popc64 (v : Word) : Nat := ((List.range 64).filter fun i => v.getLsbD i).length

/-- Bits [127:64] of the exact signed product. -/
def mulHigh (a b : Word) : Word := BitVec.ofInt 64 (a.toInt * b.toInt / 2 ^ 64)

/-- Bits [127:64] of the exact unsigned product. -/
def mulHighU (a b : Word) : Word := BitVec.ofNat 64 (a.toNat * b.toNat / 2 ^ 64)

/-- Signed quotient toward zero; all ones for a zero divisor (R238). -/
def divS (a b : Word) : Word := if b = 0 then BitVec.allOnes 64 else a.sdiv b

/-- Unsigned quotient; all ones for a zero divisor. -/
def divU (a b : Word) : Word := if b = 0 then BitVec.allOnes 64 else a / b

/-- Remainder with the dividend's sign; the dividend for a zero divisor. -/
def remS (a b : Word) : Word := if b = 0 then a else a.srem b

/-- Unsigned remainder; the dividend for a zero divisor. -/
def remU (a b : Word) : Word := if b = 0 then a else a % b

/-- A shift amount x[b][5:0]. -/
def shamt (b : Word) : Nat := b.toNat % 64

/-! ### Major INT (R237) -/

/-- add: x[a] + x[b] mod 2^64 (R237). -/
def execAdd (d a b : Reg) (s : State) : Host.Outcome State Fault Refusal :=
  writeNext d (s.x a + s.x b) s

/-- sub: x[a] − x[b] mod 2^64 (R237). -/
def execSub (d a b : Reg) (s : State) : Host.Outcome State Fault Refusal :=
  writeNext d (s.x a - s.x b) s

/-- and: x[a] and x[b], bitwise (R237). -/
def execAnd (d a b : Reg) (s : State) : Host.Outcome State Fault Refusal :=
  writeNext d (s.x a &&& s.x b) s

/-- or: x[a] or x[b], bitwise (R237). -/
def execOr (d a b : Reg) (s : State) : Host.Outcome State Fault Refusal :=
  writeNext d (s.x a ||| s.x b) s

/-- xor: x[a] exclusive-or x[b], bitwise (R237). -/
def execXor (d a b : Reg) (s : State) : Host.Outcome State Fault Refusal :=
  writeNext d (s.x a ^^^ s.x b) s

/-- sll: x[a] shifted left by x[b][5:0] (R237). -/
def execSll (d a b : Reg) (s : State) : Host.Outcome State Fault Refusal :=
  writeNext d (s.x a <<< shamt (s.x b)) s

/-- srl: x[a] shifted right logically (R237). -/
def execSrl (d a b : Reg) (s : State) : Host.Outcome State Fault Refusal :=
  writeNext d (s.x a >>> shamt (s.x b)) s

/-- sra: x[a] shifted right arithmetically (R237). -/
def execSra (d a b : Reg) (s : State) : Host.Outcome State Fault Refusal :=
  writeNext d ((s.x a).sshiftRight (shamt (s.x b))) s

/-- slt: 1 if x[a] < x[b] signed, else 0 (R237). -/
def execSlt (d a b : Reg) (s : State) : Host.Outcome State Fault Refusal :=
  writeNext d (word01 ((s.x a).slt (s.x b))) s

/-- sltu: 1 if x[a] < x[b] unsigned, else 0 (R237). -/
def execSltu (d a b : Reg) (s : State) : Host.Outcome State Fault Refusal :=
  writeNext d (word01 ((s.x a).ult (s.x b))) s

/-- mul: x[a] × x[b] mod 2^64 (R237). -/
def execMul (d a b : Reg) (s : State) : Host.Outcome State Fault Refusal :=
  writeNext d (s.x a * s.x b) s

/-- mulh: the high half of the signed product (R237). -/
def execMulh (d a b : Reg) (s : State) : Host.Outcome State Fault Refusal :=
  writeNext d (mulHigh (s.x a) (s.x b)) s

/-- mulhu: the high half of the unsigned product (R237). -/
def execMulhu (d a b : Reg) (s : State) : Host.Outcome State Fault Refusal :=
  writeNext d (mulHighU (s.x a) (s.x b)) s

/-- div: the signed quotient (R237, R238). -/
def execDiv (d a b : Reg) (s : State) : Host.Outcome State Fault Refusal :=
  writeNext d (divS (s.x a) (s.x b)) s

/-- divu: the unsigned quotient (R237, R238). -/
def execDivu (d a b : Reg) (s : State) : Host.Outcome State Fault Refusal :=
  writeNext d (divU (s.x a) (s.x b)) s

/-- rem: the signed remainder (R237, R238). -/
def execRem (d a b : Reg) (s : State) : Host.Outcome State Fault Refusal :=
  writeNext d (remS (s.x a) (s.x b)) s

/-- remu: the unsigned remainder (R237, R238). -/
def execRemu (d a b : Reg) (s : State) : Host.Outcome State Fault Refusal :=
  writeNext d (remU (s.x a) (s.x b)) s

/-- min: the signed minimum (R237). -/
def execMin (d a b : Reg) (s : State) : Host.Outcome State Fault Refusal :=
  writeNext d ((if (s.x b).slt (s.x a) then s.x b else s.x a)) s

/-- max: the signed maximum (R237). -/
def execMax (d a b : Reg) (s : State) : Host.Outcome State Fault Refusal :=
  writeNext d ((if (s.x a).slt (s.x b) then s.x b else s.x a)) s

/-- minu: the unsigned minimum (R237). -/
def execMinu (d a b : Reg) (s : State) : Host.Outcome State Fault Refusal :=
  writeNext d ((if (s.x b).ult (s.x a) then s.x b else s.x a)) s

/-- maxu: the unsigned maximum (R237). -/
def execMaxu (d a b : Reg) (s : State) : Host.Outcome State Fault Refusal :=
  writeNext d ((if (s.x a).ult (s.x b) then s.x b else s.x a)) s

/-- clz: leading zeros of x[a] (R237). -/
def execClz (d a : Reg) (s : State) : Host.Outcome State Fault Refusal :=
  writeNext d (BitVec.ofNat 64 (clz64 (s.x a))) s

/-- ctz: trailing zeros of x[a] (R237). -/
def execCtz (d a : Reg) (s : State) : Host.Outcome State Fault Refusal :=
  writeNext d (BitVec.ofNat 64 (ctz64 (s.x a))) s

/-- popc: set bits of x[a] (R237). -/
def execPopc (d a : Reg) (s : State) : Host.Outcome State Fault Refusal :=
  writeNext d (BitVec.ofNat 64 (popc64 (s.x a))) s

/-! ### Immediate majors (R239) -/

/-- addi: x[a] + sext(c) (R239). -/
def execAddi (d a : Reg) (c : BitVec 16) (s : State) : Host.Outcome State Fault Refusal :=
  writeNext d (s.x a + c.signExtend 64) s

/-- andi: x[a] and zext(c) (R239). -/
def execAndi (d a : Reg) (c : BitVec 16) (s : State) : Host.Outcome State Fault Refusal :=
  writeNext d (s.x a &&& c.setWidth 64) s

/-- ori: x[a] or zext(c) (R239). -/
def execOri (d a : Reg) (c : BitVec 16) (s : State) : Host.Outcome State Fault Refusal :=
  writeNext d (s.x a ||| c.setWidth 64) s

/-- xori: x[a] exclusive-or zext(c) (R239). -/
def execXori (d a : Reg) (c : BitVec 16) (s : State) : Host.Outcome State Fault Refusal :=
  writeNext d (s.x a ^^^ c.setWidth 64) s

/-- slti: 1 if x[a] < sext(c) signed, else 0 (R239). -/
def execSlti (d a : Reg) (c : BitVec 16) (s : State) : Host.Outcome State Fault Refusal :=
  writeNext d (word01 ((s.x a).slt (c.signExtend 64))) s

/-- sltiu: 1 if x[a] < zext(c) unsigned, else 0 (R239). -/
def execSltiu (d a : Reg) (c : BitVec 16) (s : State) : Host.Outcome State Fault Refusal :=
  writeNext d (word01 ((s.x a).ult (c.setWidth 64))) s

/-- lui: zext(c) × 65,536 (R239). -/
def execLui (d : Reg) (c : BitVec 16) (s : State) : Host.Outcome State Fault Refusal :=
  writeNext d (c.setWidth 64 <<< 16) s

/-- slli: x[a] shifted left by c (R239). -/
def execSlli (d a : Reg) (c : BitVec 6) (s : State) : Host.Outcome State Fault Refusal :=
  writeNext d (s.x a <<< c.toNat) s

/-- srli: x[a] shifted right logically by c (R239). -/
def execSrli (d a : Reg) (c : BitVec 6) (s : State) : Host.Outcome State Fault Refusal :=
  writeNext d (s.x a >>> c.toNat) s

/-- srai: x[a] shifted right arithmetically by c (R239). -/
def execSrai (d a : Reg) (c : BitVec 6) (s : State) : Host.Outcome State Fault Refusal :=
  writeNext d ((s.x a).sshiftRight c.toNat) s

end Sys2Proof.Machine
end

