-- ==== Sys2Proof/Machine/ScalarMem.lean ====
section
/-! DEFINITION. Scalar loads and stores (R242 to R244) and scalar atomics (R245, R246). -/

namespace Sys2Proof.Machine

/-- The address x[a] + sext(imm16) (R242, R243). -/
def State.effAddr (s : State) (a : Reg) (c : BitVec 16) : Word := s.x a + c.signExtend 64

/-- A scalar load into x[d], sign-extended; a load to x0 is performed and its value discarded (R242). -/
def loadX (al : Alloc) (n : Nat) (d a : Reg) (c : BitVec 16) (s : State) :
    Host.Outcome State Fault Refusal :=
  commit s (do
    let (v, t) ← s.load al (s.effAddr a c) n
    return (t.setX d (sext64 (8 * n) v)).advance)

/-- A scalar load into f[d], zero-filled (R242). -/
def loadF (n : Nat) (d a : Reg) (c : BitVec 16) (s : State) : Host.Outcome State Fault Refusal :=
  commit s (do
    let (v, t) ← s.load .normal (s.effAddr a c) n
    return (t.setF d (BitVec.ofNat 64 v)).advance)

/-- A scalar store of the low n bytes of a value (R242). -/
def storeVal (n : Nat) (v : Word) (a : Reg) (c : BitVec 16) (s : State) :
    Host.Outcome State Fault Refusal :=
  commit s (do
    let t ← s.store (s.effAddr a c) n v.toNat
    return t.advance)

/-- ld.b (R242). -/
def execLdB (d a : Reg) (c : BitVec 16) (s : State) : Host.Outcome State Fault Refusal :=
  loadX .normal 1 d a c s

/-- ld.h (R242). -/
def execLdH (d a : Reg) (c : BitVec 16) (s : State) : Host.Outcome State Fault Refusal :=
  loadX .normal 2 d a c s

/-- ld.w (R242). -/
def execLdW (d a : Reg) (c : BitVec 16) (s : State) : Host.Outcome State Fault Refusal :=
  loadX .normal 4 d a c s

/-- ld.d (R242). -/
def execLdD (d a : Reg) (c : BitVec 16) (s : State) : Host.Outcome State Fault Refusal :=
  loadX .normal 8 d a c s

/-- ld.w.nc (R242, R244). -/
def execLdWNc (d a : Reg) (c : BitVec 16) (s : State) : Host.Outcome State Fault Refusal :=
  loadX .nc 4 d a c s

/-- ld.d.nc (R242, R244). -/
def execLdDNc (d a : Reg) (c : BitVec 16) (s : State) : Host.Outcome State Fault Refusal :=
  loadX .nc 8 d a c s

/-- st.b (R242). -/
def execStB (d a : Reg) (c : BitVec 16) (s : State) : Host.Outcome State Fault Refusal :=
  storeVal 1 (s.x d) a c s

/-- st.h (R242). -/
def execStH (d a : Reg) (c : BitVec 16) (s : State) : Host.Outcome State Fault Refusal :=
  storeVal 2 (s.x d) a c s

/-- st.w (R242). -/
def execStW (d a : Reg) (c : BitVec 16) (s : State) : Host.Outcome State Fault Refusal :=
  storeVal 4 (s.x d) a c s

/-- st.d (R242). -/
def execStD (d a : Reg) (c : BitVec 16) (s : State) : Host.Outcome State Fault Refusal :=
  storeVal 8 (s.x d) a c s

/-- fld.s (R242). -/
def execFldS (d a : Reg) (c : BitVec 16) (s : State) : Host.Outcome State Fault Refusal :=
  loadF 4 d a c s

/-- fld.d (R242). -/
def execFldD (d a : Reg) (c : BitVec 16) (s : State) : Host.Outcome State Fault Refusal :=
  loadF 8 d a c s

/-- fst.s (R242). -/
def execFstS (d a : Reg) (c : BitVec 16) (s : State) : Host.Outcome State Fault Refusal :=
  storeVal 4 (s.f d) a c s

/-- fst.d (R242). -/
def execFstD (d a : Reg) (c : BitVec 16) (s : State) : Host.Outcome State Fault Refusal :=
  storeVal 8 (s.f d) a c s

/-! ### Scalar atomics -/

/-- One indivisible read and write at L2: the core's line is written back and invalidated first
(R95, R246). `f` gives the new value, or none where nothing is written. -/
def State.atomicPhys (s : State) (t : Xlat) (n : Nat) (rl : Bool) (f : Nat → Option Nat) :
    Except Halt (Nat × State) := do
  let s1 := if t.lnk then s else (s.dropLine s.hart.core (t.pa / 256)).hostCopy t n
  let bs ← s1.l2Read t.gran t.pa n
  let old := bytesVal bs
  match f old with
  | none => return (old, s1.l2Take t t.pa n)
  | some v =>
    let s2 := if rl then s1.writeBackAll s.hart.core true else s1
    return (old, ((s2.dropGathered s.hart.core t.pa n).l2WriteAt t.gran t.pa (valBytes n v)).hostCopy t n)

/-- One indivisible read and write of the scratchpad (R89). -/
def State.atomicScr (s : State) (o n : Nat) (rl : Bool) (f : Nat → Option Nat) : Except Halt (Nat × State) := do
  let bs ← s.scrRead o n
  let old := bytesVal bs
  match f old with
  | none => return (old, s)
  | some v => return (old, (if rl then s.writeBackAll s.hart.core true else s).scrWrite o (valBytes n v))

/-- The place and the step of a scalar atomic, after its checks in order (R246). -/
def State.atomic (s : State) (va : Word) (n : Nat) (rl : Bool) (f : Nat → Option Nat) :
    Except Halt (Nat × State) := do
  need (va.toNat % n = 0) 0x0C1 va
  let (t, s1) ← s.target .rw va n
  match t with
  | .window o => s1.atomicScr o n rl f
  | .phys t =>
    need (t.seq = false) 0x1C0 va
    need (isHost t.pa = false) 0x0C3 va
    parkCheck t va false
    s1.atomicPhys t n rl f

/-- A scalar atomic (R245): with aq its read is an acquire, with rl its write a release, at the named
scope. -/
def amo (f : Nat → Nat → Nat → Nat → Option Nat) (d a b : Reg) (dbl aq rl : Bool) (sc : Scope)
    (s : State) : Host.Outcome State Fault Refusal :=
  let n := if dbl then 8 else 4
  let opnd := (s.x b).toNat % 2 ^ (8 * n)
  let expect := (s.x d).toNat % 2 ^ (8 * n)
  commit s (do
    let (old, t) ← s.atomic (s.x a) n (rl && sc.wide) (f n opnd expect)
    let t' := if aq then t.acquire sc.wide else t
    return (t'.setX d (sext64 (8 * n) old)).advance)

/-- amoswap: the operand is written (R245). -/
def execAmoswap (d a b : Reg) (dbl aq rl : Bool) (sc : Scope) (s : State) :
    Host.Outcome State Fault Refusal :=
  amo (fun _ v _ _ => some v) d a b dbl aq rl sc s

/-- amocas: the operand is written if the old value is the expected one (R245). -/
def execAmocas (d a b : Reg) (dbl aq rl : Bool) (sc : Scope) (s : State) :
    Host.Outcome State Fault Refusal :=
  amo (fun _ v e old => if old = e then some v else none) d a b dbl aq rl sc s

/-- amoadd: the sum mod 2^(8n) (R245). -/
def execAmoadd (d a b : Reg) (dbl aq rl : Bool) (sc : Scope) (s : State) :
    Host.Outcome State Fault Refusal :=
  amo (fun n v _ old => some ((old + v) % 2 ^ (8 * n))) d a b dbl aq rl sc s

/-- amoand: bitwise and (R245). -/
def execAmoand (d a b : Reg) (dbl aq rl : Bool) (sc : Scope) (s : State) :
    Host.Outcome State Fault Refusal :=
  amo (fun _ v _ old => some (old &&& v)) d a b dbl aq rl sc s

/-- amoor: bitwise or (R245). -/
def execAmoor (d a b : Reg) (dbl aq rl : Bool) (sc : Scope) (s : State) :
    Host.Outcome State Fault Refusal :=
  amo (fun _ v _ old => some (old ||| v)) d a b dbl aq rl sc s

/-- amoxor: bitwise exclusive or (R245). -/
def execAmoxor (d a b : Reg) (dbl aq rl : Bool) (sc : Scope) (s : State) :
    Host.Outcome State Fault Refusal :=
  amo (fun _ v _ old => some (old ^^^ v)) d a b dbl aq rl sc s

end Sys2Proof.Machine
end

