-- ==== Sys2Proof/Machine/VAttn.lean ====
section
/-! DEFINITION. The attention chain, page selection, draws and sampling: major VATT (R332 to R345). -/

namespace Sys2Proof.Machine

/-! ### FP32 arithmetic of the units: RNE, no flag (R334) -/

/-- a × b, rounded once. -/
def mul32 (a b : Nat) : Nat := (fp32.result .rne ((fp32.decode a).mul (fp32.decode b))).code

/-- a + b, rounded once. -/
def add32 (a b : Nat) : Nat := (fp32.result .rne ((fp32.decode a).add .rne (fp32.decode b))).code

/-- a × b + c, rounded once. -/
def fma32 (a b c : Nat) : Nat :=
  (fp32.result .rne (Num.fma .rne (fp32.decode a) (fp32.decode b) (fp32.decode c))).code

/-- An exact sum rounded once. -/
def sum32 (l : List Num) : Nat :=
  match l with
  | [] => 0
  | x :: t => (fp32.convert (.mode .rne) (t.foldl (fun a y => (a.add .rne y).1) x)).code

/-- e^(a − b) of the exact difference, rounded once (R336). -/
def expDiff (a b : Nat) : Nat :=
  (fp32.expNum .rne ((fp32.decode a).add .rne (fp32.decode b).neg).1).code

/-- −∞. -/
def negInf : Nat := 0xFF800000

/-- 1.0. -/
def one32 : Nat := 0x3F800000

/-! ### Checks at queue entry (R226, R332, R333) -/

/-- The segment length of the chain: 2^(SHAPE − 1) (R332). -/
def chainLen (vt : BitVec 16) : Nat := 2 ^ (vtShape vt - 1)

/-- The number of heads (R334). -/
def heads (vt : BitVec 16) (vl : Nat) : Nat := (vl + chainLen vt - 1) / chainLen vt

/-- Header bounds, type state and VL of a VATT word; the chain needs a SHAPE. -/
def State.vattChecks (s : State) (fields : List Nat) (types : List Nat) (chain : Bool) : Except Halt Unit := do
  let g := vtGroup s.hart.csr.vt
  let spans := fields.map fun f => (f, g)
  s.vcheck ⟨spans, types.contains s.etype, spansAligned spans, !chain || vtShape s.hart.csr.vt != 0, true⟩
  s.vlCheck s.vlmaxNow

/-- At most 64 heads (R334). -/
def State.headCheck (s : State) : Except Halt Unit :=
  need (heads s.hart.csr.vt s.hart.csr.vl.toNat ≤ 64) 0x20B (s.hart.csr.vl.setWidth 64)

/-- The alignment and the bound of a window offset over n bytes (R333). -/
def State.offsetCheck (s : State) (o n : Nat) : Except Halt Unit := do
  need (o % 4 = 0) 0x0C5 (BitVec.ofNat 64 o)
  need (n = 0 ∨ o + n ≤ s.hart.bounds.scratch) 0x082 (BitVec.ofNat 64 (max o s.hart.bounds.scratch))

/-- The checks of a chain instruction that reads no scratchpad. -/
def State.chainChecks (s : State) (fields : List Nat) : Except Halt Unit := do
  s.vattChecks fields [0] true
  s.headCheck

/-- The checks of vscore and vaccv. -/
def State.keyChecks (s : State) (field : Reg) (xb : Reg) : Except Halt Unit := do
  s.chainChecks [field.toNat]
  s.offsetCheck (s.x xb).toNat (64 * s.hart.csr.vl.toNat)

/-- An instruction that reads bytes of the scratchpad stops where a word is in error (R431). -/
def State.scrGuard (s : State) (o n : Nat) (r : Except Halt Ran) : Except Halt Ran :=
  match s.scrRead o n with
  | .error (.trap c v) => .ok (.stopped s c v)
  | .error (.wait w) => .error (.wait w)
  | .ok _ => r

/-- A word of the hart's scratchpad. -/
def State.scrWord (s : State) (o : Nat) : Nat := bytesVal (s.scrBytes o 4)

/-! ### The chain (R334 to R338) -/

/-- The chain written; DIRTYV.CHAIN is set by any chain instruction (R375). -/
def State.setChain (s : State) (c : Chain) : State :=
  ({ s with hart := { s.hart with chain := c } } : State).markDirty 40

/-- The heads below H changed. -/
def Chain.mapHeads (c : Chain) (H : Nat) (f : Nat → Head → Head) : Chain :=
  { c with heads := Vector.ofFn fun (i : Fin 64) =>
      if i.val < H then f i.val (c.heads.get i) else c.heads.get i }

/-- The elements of head h (R334). -/
def headElems (L vl h : Nat) : List Nat := (List.range (min L (vl - h * L))).map (h * L + ·)

/-- vscore of one head (R335). -/
def State.scoreHead (s : State) (a : Reg) (o : Nat) (k : KReg) (h : Nat) (hd : Head) : Head :=
  let L := chainLen s.qvt
  { hd with
    s := Vector.ofFn fun (j : Fin 16) => BitVec.ofNat 32 (sum32 ((headElems L s.qvl h).map fun e =>
      ((fp32.decode (s.elem a.toNat 32 e)).mul (fp32.decode (s.scrWord (o + 4 * (j.val * s.qvl + e))))).1))
    valid := BitVec.ofNat 16 (packElems 1 (fun j => if s.active k (16 * h + j) then 1 else 0) 16) }

/-- vscore (R332, R335). -/
def execVscore (a xb : Reg) (k : KReg) (s : State) : Host.Outcome State Fault Refusal :=
  s.enter .viq (encode (.vscore a xb k)) [s.x xb] (s.keyChecks a xb) fun t =>
    let o := (t.qop 0 (t.x xb)).toNat
    let c := t.hart.chain.mapHeads (heads t.qvt t.qvl) (t.scoreHead a o k)
    t.scrGuard o (64 * t.qvl) <| .ok (.done ((t.setChain { c with buf := .scored }).setVstart 0))

/-- vexpm of one head (R336). -/
def expHead (hd : Head) : Head :=
  let m0 := hd.m.toNat
  let sc (j : Nat) : Nat := (hd.s.toList.getD j 0).toNat
  let ok (j : Nat) : Bool := hd.valid.getLsbD j
  let m := (List.range 16).foldl (fun m j => if ok j then (fp32.minmax true m (sc j)).code else m) m0
  let a := if (fp32.decode m).cmp (fp32.decode m0) = .eq then one32 else expDiff m0 m
  let p (j : Nat) : Nat := if !ok j || sc j == negInf then 0 else expDiff (sc j) m
  let ps := (List.range 16).map p
  { hd with
    m := BitVec.ofNat 32 m
    sigma := BitVec.ofNat 32 (ps.foldl add32 (mul32 hd.sigma.toNat a))
    alpha := BitVec.ofNat 32 (mul32 hd.alpha.toNat a)
    s := Vector.ofFn fun (j : Fin 16) => BitVec.ofNat 32 (p j.val) }

/-- vexpm: it acts on a scored buffer only (R334, R336). -/
def execVexpm (s : State) : Host.Outcome State Fault Refusal :=
  s.enter .viq (encode .vexpm) [] (s.chainChecks []) fun t =>
    let c := t.hart.chain
    let c' : Chain := match c.buf with
      | .scored => { c.mapHeads (heads t.qvt t.qvl) (fun _ => expHead) with buf := .weighted }
      | .empty => c
      | .weighted => c
    .ok (.done ((t.setChain c').setVstart 0))

/-- One output element of vaccv (R337). -/
def State.accElem (s : State) (d : Reg) (o : Nat) (e : Nat) : Nat :=
  let c := s.hart.chain
  let hd := c.heads.toList.getD (e / chainLen s.qvt) Head.reset
  if hd.m.toNat = negInf then 0
  else
    let x := mul32 (s.elem d.toNat 32 e) hd.alpha.toNat
    match c.buf with
    | .weighted => (List.range 16).foldl (fun z j =>
        fma32 (hd.s.toList.getD j 0).toNat (s.scrWord (o + 4 * (j * s.qvl + e))) z) x
    | .empty => x
    | .scored => x

/-- vaccv (R332, R334, R337). -/
def execVaccv (d xb : Reg) (s : State) : Host.Outcome State Fault Refusal :=
  s.enter .viq (encode (.vaccv d xb)) [s.x xb] (s.keyChecks d xb) fun t =>
    let o := (t.qop 0 (t.x xb)).toNat
    let c := t.hart.chain.mapHeads (heads t.qvt t.qvl) fun _ hd => { hd with alpha := BitVec.ofNat 32 one32 }
    let b : ChainBuf := match c.buf with
      | .weighted => .empty
      | .empty => .empty
      | .scored => .scored
    let u := if t.qvl = 0 then t else t.putVec d.toNat t.qg 32 t.qvl fun i => t.lane i (t.accElem d o i)
    t.scrGuard o (64 * t.qvl) <| .ok (.done ((u.setChain { c with buf := b }).setVstart 0))

/-- A field of each head (R338). -/
def State.headField (s : State) (f : Head → BitVec 32) (h : Nat) : Nat :=
  (f (s.hart.chain.heads.toList.getD h Head.reset)).toNat

/-- vsegmax (R338). -/
def execVsegmax (d : Reg) (s : State) : Host.Outcome State Fault Refusal :=
  s.enter .viq (encode (.vsegmax d)) [] (s.chainChecks [d.toNat]) fun t =>
    let H := heads t.qvt t.qvl
    let u := if t.qvl = 0 then t else t.putVec d.toNat t.qg 32 H fun h => t.lane h (t.headField Head.m h)
    .ok (.done ((u.setChain t.hart.chain).setVstart 0))

/-- vsegsum: the sums, the status mask, then the reset (R338). -/
def execVsegsum (d : Reg) (ks : KReg) (s : State) : Host.Outcome State Fault Refusal :=
  s.enter .viq (encode (.vsegsum d ks)) [] (s.chainChecks [d.toNat]) fun t =>
    let H := heads t.qvt t.qvl
    let u := if t.qvl = 0 then t else t.putVec d.toNat t.qg 32 H fun h => t.lane h (t.headField Head.sigma h)
    let m := maskOf H fun h => t.headField Head.m h == negInf
    .ok (.done (((u.setMask ks m).setChain Chain.reset).setVstart 0))

/-! ### Page selection (R339, R340) -/

/-- The larger of two exact products; NaN if either is (R339). -/
def maxNum (x y : Num) : Num :=
  if x.isNan || y.isNan then .nan false else if x.cmp y = .lt then y else x

/-- The bound of block j (R339). -/
def State.blockBound (s : State) (a : Reg) (o j : Nat) : Nat :=
  let lo := o + 8 * s.qvl * j
  sum32 ((List.range s.qvl).map fun e =>
    let q := fp32.decode (s.elem a.toNat 32 e)
    maxNum (q.mul (fp32.decode (s.scrWord (lo + 4 * e)))).1
      (q.mul (fp32.decode (s.scrWord (lo + 4 * (s.qvl + e))))).1)

/-- The block count of a control word. -/
def boundCount (v : Word) : Nat := bits v.toNat 32 16

/-- The checks of vbound (R333, R339). -/
def State.boundChecks (s : State) (d a : Reg) (v : Word) : Except Halt Unit := do
  s.vattChecks [d.toNat, a.toNat] [0] false
  let B := boundCount v
  need (bits v.toNat 48 16 = 0 ∧ 1 ≤ B ∧ B ≤ 1024 ∧ B ≤ s.hart.vlmax (vtGroup s.hart.csr.vt) 32) 0x20C v
  s.offsetCheck (bits v.toNat 0 32) (8 * s.hart.csr.vl.toNat * B)

/-- vbound (R332, R339). -/
def execVbound (d a xb : Reg) (k : KReg) (s : State) : Host.Outcome State Fault Refusal :=
  s.enter .viq (encode (.vbound d a xb k)) [s.x xb] (s.boundChecks d a (s.x xb)) fun t =>
    let v := t.qop 0 (t.x xb)
    t.scrGuard (bits v.toNat 0 32) (8 * t.qvl * boundCount v) <| .ok (t.whole d (boundCount v) fun j =>
      if t.active k j then t.blockBound a (bits v.toNat 0 32) j else negInf)

/-- An element widened exactly to FP32's number: f32 or bf16 (R340, R342). -/
def State.wideNum (s : State) (r : Reg) (i : Nat) : Num := (ffmt (vtType s.qvt)).decode (s.elem r.toNat s.qw i)

/-- Whether x ranks above y: descending by value, NaN below −∞ (R340). -/
def ranksAbove (x y : Num) : Bool :=
  if x.isNan then false else if y.isNan then true else x.cmp y == .gt

/-- Element numbers by rank, ties to the lower index (R340). -/
def State.ranked (s : State) (a : Reg) (l : List Nat) : List Nat :=
  l.foldl (fun (z : List Nat) i =>
    let above := z.takeWhile fun j => !ranksAbove (s.wideNum a i) (s.wideNum a j)
    above ++ i :: z.drop above.length) []

/-- What an index takes when there is none. -/
def noIndex : Nat := 0xFFFFFFFF

/-- A whole instruction that writes P words of 32 bits; nothing at VL = 0 (R42). -/
def State.whole32 (s : State) (d : Reg) (P : Nat) (f : Nat → Nat) : Ran :=
  if s.qvl = 0 then .done (s.setVstart 0) else .done ((s.putVec d.toNat s.qg 32 P fun i => s.lane i (f i)).setVstart 0)

/-- vtopk (R332, R340). -/
def execVtopk (d a xb : Reg) (k : KReg) (s : State) : Host.Outcome State Fault Refusal :=
  let checks : Except Halt Unit := do
    s.vattChecks [d.toNat, a.toNat] [0, 1] false
    need (1 ≤ (s.x xb).toNat ∧ (s.x xb).toNat ≤ 64) 0x20C (s.x xb)
  s.enter .viq (encode (.vtopk d a xb k)) [s.x xb] checks fun t =>
    let l := t.ranked a (t.activeList k t.qvl)
    .ok (t.whole32 d (t.qop 0 (t.x xb)).toNat fun i => l.getD i noIndex)

/-! ### Draws and sampling (R341 to R344) -/

/-- vrand (R332, R341). -/
def execVrand (d xa xb : Reg) (k : KReg) (s : State) : Host.Outcome State Fault Refusal :=
  s.enter .viq (encode (.vrand d xa xb k)) [s.x xa, s.x xb] (s.vattChecks [d.toNat] [0] false) fun t =>
    let u := (t.qop 0 (t.x xa)).toNat
    let D := (t.qop 1 (t.x xb)).toNat % 2 ^ 32
    .ok (t.whole d t.qvl fun i =>
      if t.active k i then drawOf t.hart.seed (bits u 0 32) (bits u 32 32) D i else t.elem d.toNat 32 i)

/-- The elements of segment g of length L. -/
def segElems (L vl g : Nat) : List Nat := (List.range (min L (vl - g * L))).map (g * L + ·)

/-- The weight of element i that counts (R342): FP32 code, 0 for none. -/
def State.weight (s : State) (a : Reg) (k : KReg) (i : Nat) : Nat :=
  let x := s.wideNum a i
  if s.active k i && !x.isNan && !x.isInf && !x.sign && !x.isZero then (fp32.convert (.mode .rne) x).code else 0

/-- The running sums of a segment: (index within it, weight, sum). -/
def runningSums (w : Nat → Nat) : Nat → Nat → List Nat → List (Nat × Nat × Nat)
  | _, _, [] => []
  | n, c, i :: t => let c' := add32 c (w i); (n, w i, c') :: runningSums w (n + 1) c' t

/-- Whether an FP32 code is above another as a value; NaN is above nothing. -/
def above32 (a b : Nat) : Bool :=
  let x := fp32.decode a
  let y := fp32.decode b
  !x.isNan && !y.isNan && x.cmp y == .gt

/-- A uniform as the walk takes it (R342). -/
def uniform (u : Num) : Nat :=
  if u.isNan then 0
  else if u.cmp (.zero false) = .lt then 0
  else if u.cmp (.fin false 1 0 1) ≠ .lt then 0x3F7FFFFF
  else (fp32.convert (.mode .rne) u).code

/-- The index a segment draws (R342). -/
def sampleSeg (l : List (Nat × Nat × Nat)) (u : Num) : Nat :=
  let C := (l.getLast?.map fun p => p.2.2).getD 0
  if (fp32.decode C).isZero then noIndex
  else
    let t := mul32 (uniform u) C
    match l.find? fun p => p.2.1 != 0 && above32 p.2.2 t with
    | some p => p.1
    | none => ((l.filter fun p => p.2.1 != 0).getLast?.map fun p => p.1).getD noIndex

/-- vsamp (R332, R342). -/
def execVsamp (d a b : Reg) (k : KReg) (s : State) : Host.Outcome State Fault Refusal :=
  s.enter .viq (encode (.vsamp d a b k)) []
    (s.vattChecks [d.toNat, a.toNat, b.toNat] [0, 1] false) fun t =>
    let L := segLength t.qvt t.qvl
    .ok (t.whole32 d ((t.qvl + L - 1) / L) fun g =>
      sampleSeg (runningSums (t.weight a k) 0 0 (segElems L t.qvl g)) (t.wideNum b g))

/-- vargmax (R332, R343). -/
def execVargmax (d a : Reg) (k : KReg) (s : State) : Host.Outcome State Fault Refusal :=
  s.enter .viq (encode (.vargmax d a k)) [] (s.vattChecks [d.toNat, a.toNat] [0, 1] false) fun t =>
    let L := segLength t.qvt t.qvl
    .ok (t.whole32 d ((t.qvl + L - 1) / L) fun g =>
      match (t.ranked a ((segElems L t.qvl g).filter fun i => t.active k i)).head? with
      | some i => i - g * L
      | none => noIndex)

/-- Whether a draft is accepted: u × q ≤ p, exact; a NaN fails (R344). -/
def State.accepted (s : State) (d a b : Reg) (i : Nat) : Bool :=
  let x := ((fp32.decode (s.elem d.toNat 32 i)).mul (fp32.decode (s.elem b.toNat 32 i))).1
  let p := fp32.decode (s.elem a.toNat 32 i)
  !x.isNan && !p.isNan && x.cmp p != .gt

/-- vspeck (R332, R344). -/
def execVspeck (d a b : Reg) (k : KReg) (s : State) : Host.Outcome State Fault Refusal :=
  s.enter .viq (encode (.vspeck d a b k)) [] (s.vattChecks [d.toNat, a.toNat, b.toNat] [0] false) fun t =>
    let n := ((List.range t.qvl).takeWhile fun i => t.active k i && t.accepted d a b i).length
    .ok (t.whole32 d 1 fun _ => n)

end Sys2Proof.Machine
end

