-- ==== Sys2Proof/Machine/VAtomic.lean ====
section
/-! DEFINITION. Vector atomics (R308, R309) and the scatter-add (R306). -/

namespace Sys2Proof.Machine

/-! ### Vector atomics -/

/-- The operations of R308. -/
inductive VamoOp where
  | add | and | or | xor | max | min | swap
deriving DecidableEq, Repr

/-- The new value of a word from its old value and the operand, at a width (R308). -/
def VamoOp.apply (op : VamoOp) (signed : Bool) (w old v : Nat) : Nat :=
  let less (a b : Nat) : Bool := if signed then decide (sval w a < sval w b) else decide (a < b)
  match op with
  | .add => (old + v) % 2 ^ w
  | .and => old &&& v
  | .or => old ||| v
  | .xor => old ^^^ v
  | .max => if less old v then v else old
  | .min => if less v old then v else old
  | .swap => v

/-- The types of vector atomics: i32, i64, n32 and n64 (R226). -/
def vamoType (e : Nat) : Bool := [10, 11, 14, 15].contains e

/-- One element's indivisible step at its home, or in the local window (R246, R309). -/
def vamoUnit (n : Nat) (f : Nat → Nat → Nat) (s : State) (u : Nat × Target) : Except Halt (Nat × State) :=
  match u.2 with
  | .window o => s.atomicScr o n false fun old => some (f u.1 old)
  | .phys t => s.atomicPhys t n false fun old => some (f u.1 old)

/-- The clean refill of the touched lines that a hint asks for (R83, R309). -/
def State.refill (s : State) (a : Alloc) (n : Nat) (ts : List (Nat × Target)) : State :=
  ts.foldl (fun (t : State) u => match u.2 with
    | .window _ => t
    | .phys x => match a.under x false with
      | .around => t
      | .nc => t
      | b => if x.lnk then t else t.l1Fill t.hart.core x b.prio n) s

/-- The old values written over the data register up to element E, then the refill and the acquire (R308,
R309, R111). -/
def State.vamoDone (s : State) (d : Reg) (aq : Bool) (a : Alloc) (n : Nat) (ts : List (Nat × Target))
    (t : State) (vals : List (Nat × Nat)) (E : Nat) : State :=
  let t1 := s.writeLoaded d t vals E
  let t2 := t1.refill a n (ts.filter fun u => (tget vals u.1).isSome)
  if aq then t2.acquire true else t2

/-- A vector atomic from VSTART (R308): `aq` and `rl` act on L1 at scopes D and wider (R111). -/
def State.vamoRun (s : State) (op : VamoOp) (d base idx : Reg) (k : KReg) (h : Hint) (aq rl o : Bool) :
    Except Halt Ran :=
  if s.qvl ≤ s.vstart then
    .ok (.done ((s.putVec d.toNat s.qg s.qw s.qvl (s.elem d.toNat s.qw)).setVstart 0))
  else
    let w := s.qw
    let n := unitBytes w
    let addr := s.indexAddr (s.qop 0 (s.x base)) idx
    let a := storeAlloc h (s.qvl * 32) s.qvalloc
    let f (i old : Nat) := op.apply (typeSigned (vtType s.qvt)) w old (s.elem d.toNat w i)
    let us := s.units k s.vstart s.qvl
    let s0 := if rl && !us.isEmpty then s.release true else s
    if o then
      let ts := us.filterMap fun u => match s.probe1 true true true n (addr u) with
        | .ok x => some (u, x)
        | .error _ => none
      s0.ordered true true true n addr k (vamoUnit n f) fun t vals E => s.vamoDone d aq a n ts t vals E
    else
      s.probed false true true true n addr us fun ts =>
        s0.performed 1 (vamoUnit n f) ts (s.stopAt 1) fun t vals E => s.vamoDone d aq a n ts t vals E

/-- A vector atomic at its queue (R295, R297, R308): with .o the front end waits for its last element. -/
def vamo (op : VamoOp) (w : IWord) (sc : Scope) (d base idx : Reg) (k : KReg) (h : Hint) (aq rl o : Bool)
    (s : State) : Host.Outcome State Fault Refusal :=
  let checks := s.vmemChecks d (some idx) (vamoType s.etype)
  let run (t : State) := t.vamoRun op d base idx k h (aq && sc.wide) (rl && sc.wide) o
  if o then s.enterWait .vmq w [s.x base] checks run
  else s.enterProbe .vmq w [s.x base] (s.indexSoon idx k) true checks run

/-- vamoadd at scope c: addition mod 2^w (R308, R309). -/
def execVamoaddC (d base idx : Reg) (k : KReg) (h : Hint) (aq rl o : Bool) (s : State) :
    Host.Outcome State Fault Refusal :=
  vamo .add (encode (.vamoaddC d base idx k h aq rl o)) .core d base idx k h aq rl o s

/-- vamoadd at scope d: addition mod 2^w (R308, R309). -/
def execVamoaddD (d base idx : Reg) (k : KReg) (h : Hint) (aq rl o : Bool) (s : State) :
    Host.Outcome State Fault Refusal :=
  vamo .add (encode (.vamoaddD d base idx k h aq rl o)) .die d base idx k h aq rl o s

/-- vamoadd at scope v: addition mod 2^w (R308, R309). -/
def execVamoaddV (d base idx : Reg) (k : KReg) (h : Hint) (aq rl o : Bool) (s : State) :
    Host.Outcome State Fault Refusal :=
  vamo .add (encode (.vamoaddV d base idx k h aq rl o)) .device d base idx k h aq rl o s

/-- vamoadd at scope x: addition mod 2^w (R308, R309). -/
def execVamoaddX (d base idx : Reg) (k : KReg) (h : Hint) (aq rl o : Bool) (s : State) :
    Host.Outcome State Fault Refusal :=
  vamo .add (encode (.vamoaddX d base idx k h aq rl o)) .domain d base idx k h aq rl o s

/-- vamoand at scope c: bitwise and (R308, R309). -/
def execVamoandC (d base idx : Reg) (k : KReg) (h : Hint) (aq rl o : Bool) (s : State) :
    Host.Outcome State Fault Refusal :=
  vamo .and (encode (.vamoandC d base idx k h aq rl o)) .core d base idx k h aq rl o s

/-- vamoand at scope d: bitwise and (R308, R309). -/
def execVamoandD (d base idx : Reg) (k : KReg) (h : Hint) (aq rl o : Bool) (s : State) :
    Host.Outcome State Fault Refusal :=
  vamo .and (encode (.vamoandD d base idx k h aq rl o)) .die d base idx k h aq rl o s

/-- vamoand at scope v: bitwise and (R308, R309). -/
def execVamoandV (d base idx : Reg) (k : KReg) (h : Hint) (aq rl o : Bool) (s : State) :
    Host.Outcome State Fault Refusal :=
  vamo .and (encode (.vamoandV d base idx k h aq rl o)) .device d base idx k h aq rl o s

/-- vamoand at scope x: bitwise and (R308, R309). -/
def execVamoandX (d base idx : Reg) (k : KReg) (h : Hint) (aq rl o : Bool) (s : State) :
    Host.Outcome State Fault Refusal :=
  vamo .and (encode (.vamoandX d base idx k h aq rl o)) .domain d base idx k h aq rl o s

/-- vamoor at scope c: bitwise or (R308, R309). -/
def execVamoorC (d base idx : Reg) (k : KReg) (h : Hint) (aq rl o : Bool) (s : State) :
    Host.Outcome State Fault Refusal :=
  vamo .or (encode (.vamoorC d base idx k h aq rl o)) .core d base idx k h aq rl o s

/-- vamoor at scope d: bitwise or (R308, R309). -/
def execVamoorD (d base idx : Reg) (k : KReg) (h : Hint) (aq rl o : Bool) (s : State) :
    Host.Outcome State Fault Refusal :=
  vamo .or (encode (.vamoorD d base idx k h aq rl o)) .die d base idx k h aq rl o s

/-- vamoor at scope v: bitwise or (R308, R309). -/
def execVamoorV (d base idx : Reg) (k : KReg) (h : Hint) (aq rl o : Bool) (s : State) :
    Host.Outcome State Fault Refusal :=
  vamo .or (encode (.vamoorV d base idx k h aq rl o)) .device d base idx k h aq rl o s

/-- vamoor at scope x: bitwise or (R308, R309). -/
def execVamoorX (d base idx : Reg) (k : KReg) (h : Hint) (aq rl o : Bool) (s : State) :
    Host.Outcome State Fault Refusal :=
  vamo .or (encode (.vamoorX d base idx k h aq rl o)) .domain d base idx k h aq rl o s

/-- vamoxor at scope c: bitwise exclusive or (R308, R309). -/
def execVamoxorC (d base idx : Reg) (k : KReg) (h : Hint) (aq rl o : Bool) (s : State) :
    Host.Outcome State Fault Refusal :=
  vamo .xor (encode (.vamoxorC d base idx k h aq rl o)) .core d base idx k h aq rl o s

/-- vamoxor at scope d: bitwise exclusive or (R308, R309). -/
def execVamoxorD (d base idx : Reg) (k : KReg) (h : Hint) (aq rl o : Bool) (s : State) :
    Host.Outcome State Fault Refusal :=
  vamo .xor (encode (.vamoxorD d base idx k h aq rl o)) .die d base idx k h aq rl o s

/-- vamoxor at scope v: bitwise exclusive or (R308, R309). -/
def execVamoxorV (d base idx : Reg) (k : KReg) (h : Hint) (aq rl o : Bool) (s : State) :
    Host.Outcome State Fault Refusal :=
  vamo .xor (encode (.vamoxorV d base idx k h aq rl o)) .device d base idx k h aq rl o s

/-- vamoxor at scope x: bitwise exclusive or (R308, R309). -/
def execVamoxorX (d base idx : Reg) (k : KReg) (h : Hint) (aq rl o : Bool) (s : State) :
    Host.Outcome State Fault Refusal :=
  vamo .xor (encode (.vamoxorX d base idx k h aq rl o)) .domain d base idx k h aq rl o s

/-- vamomax at scope c: the maximum: signed for i types (R308, R309). -/
def execVamomaxC (d base idx : Reg) (k : KReg) (h : Hint) (aq rl o : Bool) (s : State) :
    Host.Outcome State Fault Refusal :=
  vamo .max (encode (.vamomaxC d base idx k h aq rl o)) .core d base idx k h aq rl o s

/-- vamomax at scope d: the maximum: signed for i types (R308, R309). -/
def execVamomaxD (d base idx : Reg) (k : KReg) (h : Hint) (aq rl o : Bool) (s : State) :
    Host.Outcome State Fault Refusal :=
  vamo .max (encode (.vamomaxD d base idx k h aq rl o)) .die d base idx k h aq rl o s

/-- vamomax at scope v: the maximum: signed for i types (R308, R309). -/
def execVamomaxV (d base idx : Reg) (k : KReg) (h : Hint) (aq rl o : Bool) (s : State) :
    Host.Outcome State Fault Refusal :=
  vamo .max (encode (.vamomaxV d base idx k h aq rl o)) .device d base idx k h aq rl o s

/-- vamomax at scope x: the maximum: signed for i types (R308, R309). -/
def execVamomaxX (d base idx : Reg) (k : KReg) (h : Hint) (aq rl o : Bool) (s : State) :
    Host.Outcome State Fault Refusal :=
  vamo .max (encode (.vamomaxX d base idx k h aq rl o)) .domain d base idx k h aq rl o s

/-- vamomin at scope c: the minimum: signed for i types (R308, R309). -/
def execVamominC (d base idx : Reg) (k : KReg) (h : Hint) (aq rl o : Bool) (s : State) :
    Host.Outcome State Fault Refusal :=
  vamo .min (encode (.vamominC d base idx k h aq rl o)) .core d base idx k h aq rl o s

/-- vamomin at scope d: the minimum: signed for i types (R308, R309). -/
def execVamominD (d base idx : Reg) (k : KReg) (h : Hint) (aq rl o : Bool) (s : State) :
    Host.Outcome State Fault Refusal :=
  vamo .min (encode (.vamominD d base idx k h aq rl o)) .die d base idx k h aq rl o s

/-- vamomin at scope v: the minimum: signed for i types (R308, R309). -/
def execVamominV (d base idx : Reg) (k : KReg) (h : Hint) (aq rl o : Bool) (s : State) :
    Host.Outcome State Fault Refusal :=
  vamo .min (encode (.vamominV d base idx k h aq rl o)) .device d base idx k h aq rl o s

/-- vamomin at scope x: the minimum: signed for i types (R308, R309). -/
def execVamominX (d base idx : Reg) (k : KReg) (h : Hint) (aq rl o : Bool) (s : State) :
    Host.Outcome State Fault Refusal :=
  vamo .min (encode (.vamominX d base idx k h aq rl o)) .domain d base idx k h aq rl o s

/-- vamoswap at scope c: the operand is written (R308, R309). -/
def execVamoswapC (d base idx : Reg) (k : KReg) (h : Hint) (aq rl o : Bool) (s : State) :
    Host.Outcome State Fault Refusal :=
  vamo .swap (encode (.vamoswapC d base idx k h aq rl o)) .core d base idx k h aq rl o s

/-- vamoswap at scope d: the operand is written (R308, R309). -/
def execVamoswapD (d base idx : Reg) (k : KReg) (h : Hint) (aq rl o : Bool) (s : State) :
    Host.Outcome State Fault Refusal :=
  vamo .swap (encode (.vamoswapD d base idx k h aq rl o)) .die d base idx k h aq rl o s

/-- vamoswap at scope v: the operand is written (R308, R309). -/
def execVamoswapV (d base idx : Reg) (k : KReg) (h : Hint) (aq rl o : Bool) (s : State) :
    Host.Outcome State Fault Refusal :=
  vamo .swap (encode (.vamoswapV d base idx k h aq rl o)) .device d base idx k h aq rl o s

/-- vamoswap at scope x: the operand is written (R308, R309). -/
def execVamoswapX (d base idx : Reg) (k : KReg) (h : Hint) (aq rl o : Bool) (s : State) :
    Host.Outcome State Fault Refusal :=
  vamo .swap (encode (.vamoswapX d base idx k h aq rl o)) .domain d base idx k h aq rl o s

/-! ### The scatter-add (R306) -/

/-- The types of the scatter-add: i32, i64, n32, n64 and f32. -/
def addType (e : Nat) : Bool := e == 0 || vamoType e

/-- A sum in a type: integers modulo 2^w; f32 rounded to nearest even, every NaN as 0x7FC00000, no
flag (R306). -/
def scatterSum (e w a b : Nat) : Nat := if e = 0 then add32 a b else (a + b) % 2 ^ w

/-- The units in the order the device chooses (R306): a free permutation. -/
def chosenOrder (c : Nat) (ts : List (Nat × Target)) : List (Nat × Target) :=
  sortBy (fun (a b : Nat × Target) => decide (Config.freeOrder c a.1 < Config.freeOrder c b.1)) ts

/-- The scatter-add from VSTART (R306). -/
def State.scatterAdd (s : State) (d base idx : Reg) (k : KReg) (h : Hint) : Except Halt Ran :=
  if s.qvl ≤ s.vstart then .ok (.done (s.setVstart 0))
  else
    let w := s.qw
    let n := unitBytes w
    let a := storeAlloc h (s.qvl * 32) s.qvalloc
    let f (i old : Nat) := scatterSum (vtType s.qvt) w old (s.elem d.toNat w i)
    s.probed false true true true n (s.indexAddr (s.qop 0 (s.x base)) idx) (s.units k s.vstart s.qvl) fun ts =>
      let run (B : Nat) : State :=
        let mine := ts.filter fun u => decide (u.1 < B)
        let p := Pass.over (vamoUnit n f) (chosenOrder s.free mine) ⟨s, [], none⟩
        (p.s.refill a n mine).bumpFree
      let E := s.stopAt 1
      match (Pass.over (vamoUnit n f) (ts.filter fun u => decide (u.1 < E)) ⟨s, [], none⟩).failed with
      | none => .ok ((run E).finish E)
      | some (_, .wait w) => .error (.wait w)
      | some (u, .trap c v) => .ok (.stopped ((run (s.groupStart 1 u)).setVstart (s.groupStart 1 u)) c v)

/-- vstx.add: with DET set it raises 0x282 and has no effect (R306). -/
def execVstxAdd (d base idx : Reg) (k : KReg) (h : Hint) (s : State) : Host.Outcome State Fault Refusal :=
  let w := encode (.vstxAdd d base idx k h)
  let checks : Except Halt Unit := do
    s.vmemChecks d (some idx) (addType s.etype)
    need (s.hart.csr.det = false) 0x282 (wordVal w)
  s.enterProbe .vmq w [s.x base] (s.indexSoon idx k) true checks fun t => t.scatterAdd d base idx k h

end Sys2Proof.Machine
end

