-- ==== Sys2Proof/Machine/VCmp.lean ====
section
/-! DEFINITION. Compares, mask logic and mask summaries: major VCMP (R280, R281). -/

namespace Sys2Proof.Machine

/-- A compare of two codes under an element type, with its flags (R280). -/
def cmpElem (c : Cmp) (e x y : Nat) : Bool × BitVec 8 :=
  if typeFloat e then
    let f := ffmt e
    Num.compare c (f.decode (x % 2 ^ (f.low + 1))) (f.decode (y % 2 ^ (f.low + 1)))
  else
    let w := typeWidth e
    let v (z : Nat) : Int := if typeSigned e then sval w z else (z : Int)
    (c.holds (compare (v x) (v y)), 0)

/-- vcmp (R280): every type but the bit planes. -/
def vcmp (c : Cmp) (w : IWord) (kd : KReg) (a : Reg) (b : VSrc) (k : KReg) (s : State) :
    Host.Outcome State Fault Refusal :=
  s.enter .viq w (s.srcOps b)
    (s.vstd [a.toNat] (srcSpan b (vtGroup s.hart.csr.vt)) (decide (s.etype ≤ 15) && srcMatches b s.etype)) fun t =>
    let sc := t.qop 0 (t.srcScalar b)
    let r (i : Nat) := cmpElem c (vtType t.qvt) (t.elem a.toNat t.qw i) (t.srcElem b sc i)
    let fl := (List.range (t.stopAt 1)).foldl (fun (z : BitVec 8) i =>
      if t.vstart ≤ i && t.active k i then z ||| (r i).2 else z) 0
    .ok ((t.raiseFlags fl).elementwiseK kd k fun i => (r i).1)

/-- vcmp.eq (R280). -/
def execVcmpEq (kd : KReg) (a : Reg) (b : VSrc) (k : KReg) (s : State) :
    Host.Outcome State Fault Refusal :=
  vcmp .eq (encode (.vcmpEq kd a b k)) kd a b k s

/-- vcmp.ne (R280). -/
def execVcmpNe (kd : KReg) (a : Reg) (b : VSrc) (k : KReg) (s : State) :
    Host.Outcome State Fault Refusal :=
  vcmp .ne (encode (.vcmpNe kd a b k)) kd a b k s

/-- vcmp.lt (R280). -/
def execVcmpLt (kd : KReg) (a : Reg) (b : VSrc) (k : KReg) (s : State) :
    Host.Outcome State Fault Refusal :=
  vcmp .lt (encode (.vcmpLt kd a b k)) kd a b k s

/-- vcmp.le (R280). -/
def execVcmpLe (kd : KReg) (a : Reg) (b : VSrc) (k : KReg) (s : State) :
    Host.Outcome State Fault Refusal :=
  vcmp .le (encode (.vcmpLe kd a b k)) kd a b k s

/-- vcmp.gt (R280). -/
def execVcmpGt (kd : KReg) (a : Reg) (b : VSrc) (k : KReg) (s : State) :
    Host.Outcome State Fault Refusal :=
  vcmp .gt (encode (.vcmpGt kd a b k)) kd a b k s

/-- vcmp.ge (R280). -/
def execVcmpGe (kd : KReg) (a : Reg) (b : VSrc) (k : KReg) (s : State) :
    Host.Outcome State Fault Refusal :=
  vcmp .ge (encode (.vcmpGe kd a b k)) kd a b k s

/-! ### Mask logic and summaries (R281) -/

/-- Mask logic over bits 0 to VL − 1; the bits above are cleared. -/
def klogic (f : Bool → Bool → Bool) (w : IWord) (kd ka kb : KReg) (s : State) :
    Host.Outcome State Fault Refusal :=
  s.enter .viq w [] (s.vlCheck s.vlmaxNow) fun t =>
    .ok (.done ((t.setMask kd (maskOf t.qvl fun i =>
      t.laneBit i (f ((t.mask ka).getLsbD i) ((t.mask kb).getLsbD i)))).setVstart 0))

/-- kand (R281). -/
def execKand (kd ka kb : KReg) (s : State) : Host.Outcome State Fault Refusal :=
  klogic (fun x y => x && y) (encode (.kand kd ka kb)) kd ka kb s

/-- kor (R281). -/
def execKor (kd ka kb : KReg) (s : State) : Host.Outcome State Fault Refusal :=
  klogic (fun x y => x || y) (encode (.kor kd ka kb)) kd ka kb s

/-- kxor (R281). -/
def execKxor (kd ka kb : KReg) (s : State) : Host.Outcome State Fault Refusal :=
  klogic (fun x y => x != y) (encode (.kxor kd ka kb)) kd ka kb s

/-- knot (R281). -/
def execKnot (kd ka : KReg) (s : State) : Host.Outcome State Fault Refusal :=
  klogic (fun x _ => !x) (encode (.knot kd ka)) kd ka 0 s

/-- The count of set bits of a mask below n. -/
def maskCount (m : Mask) (n : Nat) : Nat := ((List.range n).filter fun i => m.getLsbD i).length

/-- A summary of a mask below VL into x[d]; the front end waits for it (R40, R281). -/
def ksum (f : Nat → Nat → Nat) (w : IWord) (d : Reg) (ka : KReg) (s : State) :
    Host.Outcome State Fault Refusal :=
  s.enterWait .viq w [] (s.vlCheck s.vlmaxNow) fun t =>
    .ok (t.wholeX d (BitVec.ofNat 64 (f (maskCount (t.mask ka) t.qvl) t.qvl)))

/-- kany (R281). -/
def execKany (d : Reg) (ka : KReg) (s : State) : Host.Outcome State Fault Refusal :=
  ksum (fun c _ => if c = 0 then 0 else 1) (encode (.kany d ka)) d ka s

/-- kall (R281). -/
def execKall (d : Reg) (ka : KReg) (s : State) : Host.Outcome State Fault Refusal :=
  ksum (fun c n => if c = n then 1 else 0) (encode (.kall d ka)) d ka s

/-- kcount (R281). -/
def execKcount (d : Reg) (ka : KReg) (s : State) : Host.Outcome State Fault Refusal :=
  ksum (fun c _ => c) (encode (.kcount d ka)) d ka s

end Sys2Proof.Machine
end

