-- ==== Sys2Proof/Machine/VConfig.lean ====
section
/-! DEFINITION. Vector configuration: setvt, setvl, claim, vpidx (R57, R264, R266, R267, R355). -/

namespace Sys2Proof.Machine

/-- setvt (R223, R264). -/
def execSetvt (imm : BitVec 16) (s : State) : Host.Outcome State Fault Refusal :=
  commit s (do
    need (vtOk imm) 0x042 (imm.setWidth 64)
    return (s.setCsr { s.hart.csr with vt := imm }).advance)

/-- The youngest entry of a queue sets VSTART to 0 when it has completed (R266). -/
def zeroLast : List QEntry → List QEntry
  | [] => []
  | [e] => [{ e with zero := true }]
  | e :: t => e :: zeroLast t

/-- VL written, and VSTART := 0 in queue order (R266): at once, or behind the entries still queued. -/
def State.setLength (s : State) (n : Nat) : State :=
  let c := { s.hart.csr with vl := BitVec.ofNat 17 n }
  if s.hart.queue.isEmpty then s.setCsr { c with vstart := 0 }
  else
    let t := s.setCsr c
    { t with hart := { t.hart with queue := zeroLast t.hart.queue } }

/-- setvl (R266). -/
def execSetvl (d a : Reg) (s : State) : Host.Outcome State Fault Refusal :=
  commit s (do
    let req := (s.x a).toNat
    let t ← s.grantPoint
    if req ≠ 0 ∧ t.lacksLanes = true then return t.sleep .lanes
    else
      let n := min req t.vlmaxNow
      return ((t.setLength n).setX d (BitVec.ofNat 64 n)).advance)

/-- The checks of a claim descriptor (R57): alignment, translation for both directions, SEQ. -/
def State.claimTarget (s : State) (va : Word) : Except Halt (Target × State) := do
  need (va.toNat % 16 = 0) 0x0C9 va
  let (t, s1) ← s.target .rw va 16
  match t with
  | .window o => return (.window o, s1)
  | .phys t =>
    need (t.seq = false) 0x1CB va
    parkCheck t va false
    return (.phys t, s1)

/-- The count a claim takes of a descriptor (R57). -/
def claimCount (req vlmax old : Nat) : Nat :=
  min req (min vlmax (old / 2 ^ 64 - old % 2 ^ 64))

/-- The descriptor after a claim: next moves on when something was taken (R57). -/
def claimNew (req vlmax old : Nat) : Option Nat :=
  let c := claimCount req vlmax old
  if c = 0 then none else some (old / 2 ^ 64 * 2 ^ 64 + (old % 2 ^ 64 + c) % 2 ^ 64)

/-- claim (R57, R355). -/
def execClaim (d a b : Reg) (s : State) : Host.Outcome State Fault Refusal :=
  commit s (do
    let req := (s.x b).toNat
    let (t, s1) ← s.claimTarget (s.x a)
    let s2 ← s1.grantPoint
    if req ≠ 0 ∧ s2.lacksLanes = true then return s2.sleep .lanes
    else
      let m := s2.vlmaxNow
      let (old, s3) ← match t with
        | .window o => s2.atomicScr o 16 false (claimNew req m)
        | .phys p => s2.atomicPhys p 16 false (claimNew req m)
      return ((s3.setLength (claimCount req m old)).setX d (BitVec.ofNat 64 (old % 2 ^ 64))).advance)

/-- vpidx: it waits for earlier writers, then reads the progress index in elements of the current width
(R267). -/
def execVpidx (d a : Reg) (s : State) : Host.Outcome State Fault Refusal :=
  commit s (do
    s.boundV [(a.toNat, 1)]
    if s.writesSoon a.toNat 1 then .error (.wait .held) else .ok ()
    let w := typeWidth s.etype
    return (s.setX d (BitVec.ofNat 64 (((s.vreg a.toNat).pidx + w - 1) / w))).advance)

end Sys2Proof.Machine
end

