-- ==== Sys2Proof/Machine/VFp.lean ====
section
/-! DEFINITION. Floating-point vector instructions: major VFP (R275, R278, R279). -/

namespace Sys2Proof.Machine

/-- The types VFP accepts: f32, bf16, f16 (R226). -/
def vfpType (e : Nat) : Bool := decide (e ≤ 2)

/-- The checks of a VFP word with a second source (R226, R271). -/
def State.vfpChecks (s : State) (d a : Reg) (b : VSrc) : Except Halt Unit :=
  s.vstd [d.toNat, a.toNat] (srcSpan b (vtGroup s.hart.csr.vt)) (vfpType s.etype && srcMatches b s.etype)

/-- A binary or fma form: f of the format, the mode, the codes A, B and the old D (R278). -/
def vfp (f : FFmt → Rm → Nat → Nat → Nat → Rounded) (w : IWord) (d a : Reg) (b : VSrc) (k : KReg)
    (s : State) : Host.Outcome State Fault Refusal :=
  s.enter .viq w (s.srcOps b) (s.vfpChecks d a b) fun t =>
    let sc := t.qop 0 (t.srcScalar b)
    .ok (t.elementwiseF d t.qw k fun i =>
      f (ffmt (vtType t.qvt)) t.rm (t.elem a.toNat t.qw i) (t.srcElem b sc i) (t.elem d.toNat t.qw i))

/-- A unary form: f of the format, the width, the mode and the code A (R278). -/
def vfp1 (f : FFmt → Nat → Rm → Nat → Rounded) (w : IWord) (d a : Reg) (k : KReg) (s : State) :
    Host.Outcome State Fault Refusal :=
  s.enter .viq w [] (s.vstd [d.toNat, a.toNat] [] (vfpType s.etype)) fun t =>
    .ok (t.elementwiseF d t.qw k fun i =>
      f (ffmt (vtType t.qvt)) t.qw t.rm (t.elem a.toNat t.qw i))

/-- vfadd: A + B (R278). -/
def execVfadd (d a : Reg) (b : VSrc) (k : KReg) (s : State) : Host.Outcome State Fault Refusal :=
  vfp (fun f rm x y _ => f.result rm (Num.add rm (f.decode x) (f.decode y)))
    (encode (.vfadd d a b k)) d a b k s

/-- vfsub: A − B (R278). -/
def execVfsub (d a : Reg) (b : VSrc) (k : KReg) (s : State) : Host.Outcome State Fault Refusal :=
  vfp (fun f rm x y _ => f.result rm (Num.add rm (f.decode x) (f.decode y).neg))
    (encode (.vfsub d a b k)) d a b k s

/-- vfmul: A × B (R278). -/
def execVfmul (d a : Reg) (b : VSrc) (k : KReg) (s : State) : Host.Outcome State Fault Refusal :=
  vfp (fun f rm x y _ => f.result rm (Num.mul (f.decode x) (f.decode y)))
    (encode (.vfmul d a b k)) d a b k s

/-- vfdiv: A ÷ B (R278). -/
def execVfdiv (d a : Reg) (b : VSrc) (k : KReg) (s : State) : Host.Outcome State Fault Refusal :=
  vfp (fun f rm x y _ => f.result rm (Num.div (f.decode x) (f.decode y)))
    (encode (.vfdiv d a b k)) d a b k s

/-- vfma: A × B + D (R278). -/
def execVfma (d a : Reg) (b : VSrc) (k : KReg) (s : State) : Host.Outcome State Fault Refusal :=
  vfp (fun f rm x y z => f.result rm (Num.fma rm (f.decode x) (f.decode y) (f.decode z)))
    (encode (.vfma d a b k)) d a b k s

/-- vfms: A × B − D (R278). -/
def execVfms (d a : Reg) (b : VSrc) (k : KReg) (s : State) : Host.Outcome State Fault Refusal :=
  vfp (fun f rm x y z => f.result rm (Num.fma rm (f.decode x) (f.decode y) (f.decode z).neg))
    (encode (.vfms d a b k)) d a b k s

/-- vfnma: −(A × B) + D (R278). -/
def execVfnma (d a : Reg) (b : VSrc) (k : KReg) (s : State) : Host.Outcome State Fault Refusal :=
  vfp (fun f rm x y z => f.result rm (Num.fma rm (f.decode x).neg (f.decode y) (f.decode z)))
    (encode (.vfnma d a b k)) d a b k s

/-- vfmin: fmin of R255 (R278). -/
def execVfmin (d a : Reg) (b : VSrc) (k : KReg) (s : State) : Host.Outcome State Fault Refusal :=
  vfp (fun f _ x y _ => f.minmax false x y)
    (encode (.vfmin d a b k)) d a b k s

/-- vfmax: fmax of R255 (R278). -/
def execVfmax (d a : Reg) (b : VSrc) (k : KReg) (s : State) : Host.Outcome State Fault Refusal :=
  vfp (fun f _ x y _ => f.minmax true x y)
    (encode (.vfmax d a b k)) d a b k s

/-- vfsgnj: the magnitude of A with the sign of B (R278). -/
def execVfsgnj (d a : Reg) (b : VSrc) (k : KReg) (s : State) : Host.Outcome State Fault Refusal :=
  vfp (fun f _ x y _ => ⟨f.signed (y.testBit f.low) (x % 2 ^ f.low), 0⟩)
    (encode (.vfsgnj d a b k)) d a b k s

/-- vfsqrt: √A (R278). -/
def execVfsqrt (d a : Reg) (k : KReg) (s : State) : Host.Outcome State Fault Refusal :=
  vfp1 (fun f _ rm x => f.sqrt rm (f.decode x))
    (encode (.vfsqrt d a k)) d a k s

/-- vfrsqrt: 1 / √A, rounded once (R278, R279). -/
def execVfrsqrt (d a : Reg) (k : KReg) (s : State) : Host.Outcome State Fault Refusal :=
  vfp1 (fun f _ rm x => f.rsqrt rm (f.decode x))
    (encode (.vfrsqrt d a k)) d a k s

/-- vfexp: e^A, rounded once (R278, R279). -/
def execVfexp (d a : Reg) (k : KReg) (s : State) : Host.Outcome State Fault Refusal :=
  vfp1 (fun f _ rm x => f.expNum rm (f.decode x))
    (encode (.vfexp d a k)) d a k s

/-- vfcvtXF: A rounded to a signed integer of the element width (R278). -/
def execVfcvtXF (d a : Reg) (k : KReg) (s : State) : Host.Outcome State Fault Refusal :=
  vfp1 (fun f w rm x => let r := intConvert w (.mode rm) (f.decode x); ⟨wrap w r.1, r.2⟩)
    (encode (.vfcvtXF d a k)) d a k s

/-- vfcvtFX: a signed integer of the element width, rounded to the format (R278). -/
def execVfcvtFX (d a : Reg) (k : KReg) (s : State) : Host.Outcome State Fault Refusal :=
  vfp1 (fun f w rm x => f.convert (.mode rm) (Num.ofInt (sval w x)))
    (encode (.vfcvtFX d a k)) d a k s

/-- vfclass: the class bits of A (R279). -/
def execVfclass (d a : Reg) (k : KReg) (s : State) : Host.Outcome State Fault Refusal :=
  vfp1 (fun f _ _ x => ⟨f.classify x, 0⟩)
    (encode (.vfclass d a k)) d a k s

end Sys2Proof.Machine
end

