-- ==== Sys2Proof/Machine/VWait.lean ====
section
/-! DEFINITION. Waiting on many flags (R310 to R312): VWAIT and its later rounds. -/

namespace Sys2Proof.Machine

/-- The grouping of the flag addresses (R310). -/
def flagGroup (g w : Nat) : Nat := g * 64 / max w 1

/-- The checks of a vwait (R225, R226, R265, R310). -/
def State.vwaitChecks (s : State) (va ve : Reg) : Except Halt Unit := do
  let g := vtGroup s.hart.csr.vt
  let ga := flagGroup g (typeWidth s.etype)
  let spans := [(va.toNat, ga), (ve.toNat, g)]
  s.vcheck ⟨spans, s.etype == 14 || s.etype == 15, spansAligned spans && decide (ga ≤ 8), true, true⟩
  s.vlCheck s.vlmaxNow

/-- One flag read at L2 with the core's dirty bytes, or on the SEQ path (R113, R311). -/
def readFlag (n : Nat) (s : State) (u : Nat × Target) : Except Halt (Nat × State) :=
  match u.2 with
  | .window o => do
    let bs ← s.scrRead o n
    return (bytesVal bs, s)
  | .phys t =>
    if t.seq && !t.lnk then do
      let bs ← s.seqBytes t.pa n
      return (bytesVal bs, s)
    else do
      let (bs, s') ← s.readPhys .around t n
      return (bytesVal bs, s')

/-- Whether a vwait scope acts on L1: D, V and X (R221, R111). -/
def flagWide (sc : BitVec 2) : Bool := sc != 0

/-- The end of a vwait: the mask and the status (R311). -/
def State.vwaitEnd (s : State) (kd : KReg) (xs : Reg) (met : List Nat) (status : Word) : State :=
  ((s.setMask kd (maskOf 65536 fun i => met.contains i)).setX xs status).setVstart 0

/-- One round of R311: its flags, the end it comes to, or sleep. Consumed poison is a reliability cause
of the queued instruction (R428). -/
def State.vwaitRound (s : State) (word : IWord) (any : Bool) (kd : KReg) (xs ve : Reg) (sc : BitVec 2)
    (start left : Word) (flags : List (Nat × Target)) : Except Halt Ran :=
  let p := Pass.over (readFlag (unitBytes s.qw)) flags ⟨s, [], none⟩
  match p.failed with
  | some (_, .trap c v) => .ok (.stopped s c v)
  | some (_, .wait w) => .error (.wait w)
  | none =>
    let met := (p.vals.filter fun u => u.2 == s.elem ve.toNat s.qw u.1).map (·.1)
    let ended := if any then !met.isEmpty else decide (met.length = flags.length)
    let t := if met.isEmpty then p.s else p.s.acquire (flagWide sc)
    if ended then .ok (.done (t.vwaitEnd kd xs met 0))
    else if p.s.expired start left then .ok (.done (t.vwaitEnd kd xs met 1))
    else .ok (.waiting t (.vwait word any kd xs ve sc start left flags))

/-- A vwait from its first round (R311): with no active element it ends at once. -/
def State.vwaitStart (s : State) (word : IWord) (any : Bool) (kd : KReg) (xs va ve : Reg) (k : KReg) (sc : BitVec 2) :
    Except Halt Ran :=
  let act := (List.range s.qvl).filter fun i => s.active k i
  if act.isEmpty then .ok (.done (s.vwaitEnd kd xs [] (if any then 1 else 0)))
  else
    s.probed true true false true (unitBytes s.qw) (fun i => BitVec.ofNat 64 (s.elem va.toNat 64 i)) act fun ts =>
      s.vwaitRound word any kd xs ve sc s.time (s.qop 0 (s.x xs)) ts

/-- A vwait at its queue. -/
def vwait (any : Bool) (w : IWord) (kd : KReg) (xs va ve : Reg) (k : KReg) (sc : BitVec 2) (s : State) :
    Host.Outcome State Fault Refusal :=
  s.enterWait .vmq w [s.x xs] (s.vwaitChecks va ve) fun t => t.vwaitStart w any kd xs va ve k sc

/-- vwait.all (R311). -/
def execVwaitAll (kd : KReg) (xs va ve : Reg) (k : KReg) (sc : BitVec 2) (s : State) :
    Host.Outcome State Fault Refusal :=
  vwait false (encode (.vwaitAll kd xs va ve k sc)) kd xs va ve k sc s

/-- vwait.any (R311). -/
def execVwaitAny (kd : KReg) (xs va ve : Reg) (k : KReg) (sc : BitVec 2) (s : State) :
    Host.Outcome State Fault Refusal :=
  vwait true (encode (.vwaitAny kd xs va ve k sc)) kd xs va ve k sc s

/-! ### Later rounds (R312) -/

/-- A reliability cause of a round: the vwait is the INTERRUPTED entry of its queue, and the trap follows
(R428). -/
def State.vwaitStopped (s : State) (word : IWord) (left : Word) (c : Cause) (v : Word) : State :=
  let t := s.awake
  let e := { t.entryOf .vmq word [left] true with interrupted := true, rhold := true }
  ((t.pushEntry e).advance).queuedTrap c v

/-- A round of a sleeping vwait: where it ends the wait, lanes that were reclaimed come back first
(R312); without them the hart sleeps on. -/
def State.vwaitAgain (s : State) : State :=
  match s.hart.wait with
  | .vwait word any kd xs ve sc start left flags =>
    match s.vwaitRound word any kd xs ve sc start left flags with
    | .ok (.done _) =>
      match s.regain with
      | .error _ => s
      | .ok u => match u.vwaitRound word any kd xs ve sc start left flags with
        | .ok (.done t) => t.advance.awake
        | _ => s
    | .ok (.waiting t w) => t.sleep w
    | .ok (.stopped t c v) => t.vwaitStopped word left c v
    | _ => s
  | _ => s

/-- VWAIT_ROUND: a sleeping vwait reads its flags again (R311). -/
def execVwaitRound (uid : Nat) (s : State) : Host.Outcome State Fault Refusal :=
  onHart uid s State.vwaitAgain

/-- VWAIT_TIMEOUT: past its deadline a sleeping vwait ends with its last round (R311). -/
def execVwaitTimeout (uid : Nat) (s : State) : Host.Outcome State Fault Refusal :=
  onHart uid s fun t => match t.hart.wait with
    | .vwait _ _ _ _ _ _ start left _ => if t.expired start left then t.vwaitAgain else t
    | _ => t

end Sys2Proof.Machine
end

