-- ==== Sys2Proof/Machine/Dispatch.lean ====
section
/-! DEFINITION. The dispatch of a step to its meaning, one arm for each constructor of `Instr`. -/

namespace Sys2Proof.Machine

/-- One instruction, or one step that has no word, performed on a state (whole and indivisible:
95_what_each_step_holds.md). -/
def exec (i : Instr) (s : State) : Host.Outcome State Fault Refusal :=
  match i with
  -- Scalar integer, major INT (R237, R238): `d, a, b`.
  | .add d a b => Sys2Proof.Machine.execAdd d a b s
  | .sub d a b => Sys2Proof.Machine.execSub d a b s
  | .and d a b => Sys2Proof.Machine.execAnd d a b s
  | .or d a b => Sys2Proof.Machine.execOr d a b s
  | .xor d a b => Sys2Proof.Machine.execXor d a b s
  | .sll d a b => Sys2Proof.Machine.execSll d a b s
  | .srl d a b => Sys2Proof.Machine.execSrl d a b s
  | .sra d a b => Sys2Proof.Machine.execSra d a b s
  | .slt d a b => Sys2Proof.Machine.execSlt d a b s
  | .sltu d a b => Sys2Proof.Machine.execSltu d a b s
  | .mul d a b => Sys2Proof.Machine.execMul d a b s
  | .mulh d a b => Sys2Proof.Machine.execMulh d a b s
  | .mulhu d a b => Sys2Proof.Machine.execMulhu d a b s
  | .div d a b => Sys2Proof.Machine.execDiv d a b s
  | .divu d a b => Sys2Proof.Machine.execDivu d a b s
  | .rem d a b => Sys2Proof.Machine.execRem d a b s
  | .remu d a b => Sys2Proof.Machine.execRemu d a b s
  | .min d a b => Sys2Proof.Machine.execMin d a b s
  | .max d a b => Sys2Proof.Machine.execMax d a b s
  | .minu d a b => Sys2Proof.Machine.execMinu d a b s
  | .maxu d a b => Sys2Proof.Machine.execMaxu d a b s
  | .clz d a => Sys2Proof.Machine.execClz d a s
  | .ctz d a => Sys2Proof.Machine.execCtz d a s
  | .popc d a => Sys2Proof.Machine.execPopc d a s
  | .jalr d a => Sys2Proof.Machine.execJalr d a s
  -- Immediate majors (R239).
  | .addi d a c => Sys2Proof.Machine.execAddi d a c s
  | .andi d a c => Sys2Proof.Machine.execAndi d a c s
  | .ori d a c => Sys2Proof.Machine.execOri d a c s
  | .xori d a c => Sys2Proof.Machine.execXori d a c s
  | .slti d a c => Sys2Proof.Machine.execSlti d a c s
  | .sltiu d a c => Sys2Proof.Machine.execSltiu d a c s
  | .lui d c => Sys2Proof.Machine.execLui d c s
  | .slli d a c => Sys2Proof.Machine.execSlli d a c s
  | .srli d a c => Sys2Proof.Machine.execSrli d a c s
  | .srai d a c => Sys2Proof.Machine.execSrai d a c s
  -- Scalar loads and stores (R242): `d, offset(a)`.
  | .ldB d a c => Sys2Proof.Machine.execLdB d a c s
  | .ldH d a c => Sys2Proof.Machine.execLdH d a c s
  | .ldW d a c => Sys2Proof.Machine.execLdW d a c s
  | .ldD d a c => Sys2Proof.Machine.execLdD d a c s
  | .ldWNc d a c => Sys2Proof.Machine.execLdWNc d a c s
  | .ldDNc d a c => Sys2Proof.Machine.execLdDNc d a c s
  | .stB d a c => Sys2Proof.Machine.execStB d a c s
  | .stH d a c => Sys2Proof.Machine.execStH d a c s
  | .stW d a c => Sys2Proof.Machine.execStW d a c s
  | .stD d a c => Sys2Proof.Machine.execStD d a c s
  | .fldS d a c => Sys2Proof.Machine.execFldS d a c s
  | .fldD d a c => Sys2Proof.Machine.execFldD d a c s
  | .fstS d a c => Sys2Proof.Machine.execFstS d a c s
  | .fstD d a c => Sys2Proof.Machine.execFstD d a c s
  -- Control transfer (R240, R241).
  | .beq a b off => Sys2Proof.Machine.execBeq a b off s
  | .bne a b off => Sys2Proof.Machine.execBne a b off s
  | .blt a b off => Sys2Proof.Machine.execBlt a b off s
  | .bge a b off => Sys2Proof.Machine.execBge a b off s
  | .bltu a b off => Sys2Proof.Machine.execBltu a b off s
  | .bgeu a b off => Sys2Proof.Machine.execBgeu a b off s
  | .j off => Sys2Proof.Machine.execJ off s
  | .jal off => Sys2Proof.Machine.execJal off s
  -- Scalar atomics (R245): size (.d when `dbl`), order bits and scope.
  | .amoswap d a b dbl aq rl sc => Sys2Proof.Machine.execAmoswap d a b dbl aq rl sc s
  | .amocas d a b dbl aq rl sc => Sys2Proof.Machine.execAmocas d a b dbl aq rl sc s
  | .amoadd d a b dbl aq rl sc => Sys2Proof.Machine.execAmoadd d a b dbl aq rl sc s
  | .amoand d a b dbl aq rl sc => Sys2Proof.Machine.execAmoand d a b dbl aq rl sc s
  | .amoor d a b dbl aq rl sc => Sys2Proof.Machine.execAmoor d a b dbl aq rl sc s
  | .amoxor d a b dbl aq rl sc => Sys2Proof.Machine.execAmoxor d a b dbl aq rl sc s
  -- Fences, waits and barriers (R247 to R251).
  | .fence o sc => Sys2Proof.Machine.execFence o sc s
  | .fenceP p q sc => Sys2Proof.Machine.execFenceP p q sc s
  | .waitaEq d a b w32 sc => Sys2Proof.Machine.execWaitaEq d a b w32 sc s
  | .waitaNe d a b w32 sc => Sys2Proof.Machine.execWaitaNe d a b w32 sc s
  | .waitaLt d a b w32 sc => Sys2Proof.Machine.execWaitaLt d a b w32 sc s
  | .waitaGe d a b w32 sc => Sys2Proof.Machine.execWaitaGe d a b w32 sc s
  | .waitaLtu d a b w32 sc => Sys2Proof.Machine.execWaitaLtu d a b w32 sc s
  | .waitaGeu d a b w32 sc => Sys2Proof.Machine.execWaitaGeu d a b w32 sc s
  | .barArrive n => Sys2Proof.Machine.execBarArrive n s
  | .barWait n => Sys2Proof.Machine.execBarWait n s
  -- Scalar floating point (R254); .d when `dbl`.
  | .fadd d a b dbl => Sys2Proof.Machine.execFadd d a b dbl s
  | .fsub d a b dbl => Sys2Proof.Machine.execFsub d a b dbl s
  | .fmul d a b dbl => Sys2Proof.Machine.execFmul d a b dbl s
  | .fdiv d a b dbl => Sys2Proof.Machine.execFdiv d a b dbl s
  | .fsqrt d a dbl => Sys2Proof.Machine.execFsqrt d a dbl s
  | .fma d a b c dbl => Sys2Proof.Machine.execFma d a b c dbl s
  | .fmin d a b dbl => Sys2Proof.Machine.execFmin d a b dbl s
  | .fmax d a b dbl => Sys2Proof.Machine.execFmax d a b dbl s
  | .feq d a b dbl => Sys2Proof.Machine.execFeq d a b dbl s
  | .flt d a b dbl => Sys2Proof.Machine.execFlt d a b dbl s
  | .fle d a b dbl => Sys2Proof.Machine.execFle d a b dbl s
  | .fcvtFX d a dbl => Sys2Proof.Machine.execFcvtFX d a dbl s
  | .fcvtXF d a dbl => Sys2Proof.Machine.execFcvtXF d a dbl s
  | .fmvFX d a dbl => Sys2Proof.Machine.execFmvFX d a dbl s
  | .fmvXF d a dbl => Sys2Proof.Machine.execFmvXF d a dbl s
  | .fsgnj d a b dbl => Sys2Proof.Machine.execFsgnj d a b dbl s
  -- System instructions (R256, R261, R262).
  | .cread d csr => Sys2Proof.Machine.execCread d csr s
  | .cwrite csr a => Sys2Proof.Machine.execCwrite csr a s
  | .cbset csr a => Sys2Proof.Machine.execCbset csr a s
  | .cbclr csr a => Sys2Proof.Machine.execCbclr csr a s
  | .syscall n => Sys2Proof.Machine.execSyscall n s
  | .brk n => Sys2Proof.Machine.execBrk n s
  | .tret => Sys2Proof.Machine.execTret s
  | .wfi => Sys2Proof.Machine.execWfi s
  | .tfenceS a => Sys2Proof.Machine.execTfenceS a s
  | .tfenceV a => Sys2Proof.Machine.execTfenceV a s
  -- Vector configuration (R264, R266, R267, R355).
  | .setvt imm => Sys2Proof.Machine.execSetvt imm s
  | .setvl d a => Sys2Proof.Machine.execSetvl d a s
  | .claim d a b => Sys2Proof.Machine.execClaim d a b s
  | .vpidx d a => Sys2Proof.Machine.execVpidx d a s
  -- VINT (R276).
  | .vadd d a b k => Sys2Proof.Machine.execVadd d a b k s
  | .vsub d a b k => Sys2Proof.Machine.execVsub d a b k s
  | .vmul d a b k => Sys2Proof.Machine.execVmul d a b k s
  | .vmulh d a b k => Sys2Proof.Machine.execVmulh d a b k s
  | .vdiv d a b k => Sys2Proof.Machine.execVdiv d a b k s
  | .vrem d a b k => Sys2Proof.Machine.execVrem d a b k s
  | .vand d a b k => Sys2Proof.Machine.execVand d a b k s
  | .vor d a b k => Sys2Proof.Machine.execVor d a b k s
  | .vxor d a b k => Sys2Proof.Machine.execVxor d a b k s
  | .vsll d a b k => Sys2Proof.Machine.execVsll d a b k s
  | .vsrl d a b k => Sys2Proof.Machine.execVsrl d a b k s
  | .vsra d a b k => Sys2Proof.Machine.execVsra d a b k s
  | .vmin d a b k => Sys2Proof.Machine.execVmin d a b k s
  | .vmax d a b k => Sys2Proof.Machine.execVmax d a b k s
  | .vsadd d a b k => Sys2Proof.Machine.execVsadd d a b k s
  | .vssub d a b k => Sys2Proof.Machine.execVssub d a b k s
  | .vmerge d a b k => Sys2Proof.Machine.execVmerge d a b k s
  | .vmv d a k => Sys2Proof.Machine.execVmv d a k s
  -- VFP (R278): binary and fma forms, then unary forms.
  | .vfadd d a b k => Sys2Proof.Machine.execVfadd d a b k s
  | .vfsub d a b k => Sys2Proof.Machine.execVfsub d a b k s
  | .vfmul d a b k => Sys2Proof.Machine.execVfmul d a b k s
  | .vfdiv d a b k => Sys2Proof.Machine.execVfdiv d a b k s
  | .vfma d a b k => Sys2Proof.Machine.execVfma d a b k s
  | .vfms d a b k => Sys2Proof.Machine.execVfms d a b k s
  | .vfnma d a b k => Sys2Proof.Machine.execVfnma d a b k s
  | .vfmin d a b k => Sys2Proof.Machine.execVfmin d a b k s
  | .vfmax d a b k => Sys2Proof.Machine.execVfmax d a b k s
  | .vfsqrt d a k => Sys2Proof.Machine.execVfsqrt d a k s
  | .vfrsqrt d a k => Sys2Proof.Machine.execVfrsqrt d a k s
  | .vfexp d a k => Sys2Proof.Machine.execVfexp d a k s
  | .vfsgnj d a b k => Sys2Proof.Machine.execVfsgnj d a b k s
  | .vfcvtXF d a k => Sys2Proof.Machine.execVfcvtXF d a k s
  | .vfcvtFX d a k => Sys2Proof.Machine.execVfcvtFX d a k s
  | .vfclass d a k => Sys2Proof.Machine.execVfclass d a k s
  -- VCMP (R280, R281).
  | .vcmpEq kd a b k => Sys2Proof.Machine.execVcmpEq kd a b k s
  | .vcmpNe kd a b k => Sys2Proof.Machine.execVcmpNe kd a b k s
  | .vcmpLt kd a b k => Sys2Proof.Machine.execVcmpLt kd a b k s
  | .vcmpLe kd a b k => Sys2Proof.Machine.execVcmpLe kd a b k s
  | .vcmpGt kd a b k => Sys2Proof.Machine.execVcmpGt kd a b k s
  | .vcmpGe kd a b k => Sys2Proof.Machine.execVcmpGe kd a b k s
  | .kand kd ka kb => Sys2Proof.Machine.execKand kd ka kb s
  | .kor kd ka kb => Sys2Proof.Machine.execKor kd ka kb s
  | .kxor kd ka kb => Sys2Proof.Machine.execKxor kd ka kb s
  | .knot kd ka => Sys2Proof.Machine.execKnot kd ka s
  | .kany d ka => Sys2Proof.Machine.execKany d ka s
  | .kall d ka => Sys2Proof.Machine.execKall d ka s
  | .kcount d ka => Sys2Proof.Machine.execKcount d ka s
  -- VPERM (R282 to R285).
  | .vshup d a b k => Sys2Proof.Machine.execVshup d a b k s
  | .vshdn d a b k => Sys2Proof.Machine.execVshdn d a b k s
  | .vpick d a b k => Sys2Proof.Machine.execVpick d a b k s
  | .vcondense d a k => Sys2Proof.Machine.execVcondense d a k s
  | .vrev d a k => Sys2Proof.Machine.execVrev d a k s
  | .vbcast d a b k => Sys2Proof.Machine.execVbcast d a b k s
  | .vinsx d a b k => Sys2Proof.Machine.execVinsx d a b k s
  | .vextx d a b => Sys2Proof.Machine.execVextx d a b s
  | .vredsumO d a b k => Sys2Proof.Machine.execVredsumO d a b k s
  | .vredsum d a b k => Sys2Proof.Machine.execVredsum d a b k s
  | .vredmax d a b k => Sys2Proof.Machine.execVredmax d a b k s
  | .vredmin d a b k => Sys2Proof.Machine.execVredmin d a b k s
  | .vsegredO d a b k => Sys2Proof.Machine.execVsegredO d a b k s
  | .vscanO d a b k => Sys2Proof.Machine.execVscanO d a b k s
  | .vscan d a b k => Sys2Proof.Machine.execVscan d a b k s
  | .vscanmax d a b k => Sys2Proof.Machine.execVscanmax d a b k s
  -- VNAR (R286).
  | .vdot16 d a b fd k => Sys2Proof.Machine.execVdot16 d a b fd k s
  | .vquant d a fd k => Sys2Proof.Machine.execVquant d a fd k s
  | .vdeq d a fd k => Sys2Proof.Machine.execVdeq d a fd k s
  | .vbpack d a fd k => Sys2Proof.Machine.execVbpack d a fd k s
  | .vbunpack d a fd k => Sys2Proof.Machine.execVbunpack d a fd k s
  | .vcvt d a fd k => Sys2Proof.Machine.execVcvt d a fd k s
  -- VATT (R332).
  | .vscore a xb k => Sys2Proof.Machine.execVscore a xb k s
  | .vexpm => Sys2Proof.Machine.execVexpm s
  | .vaccv d xb => Sys2Proof.Machine.execVaccv d xb s
  | .vsegmax d => Sys2Proof.Machine.execVsegmax d s
  | .vsegsum d ks => Sys2Proof.Machine.execVsegsum d ks s
  | .vbound d a xb k => Sys2Proof.Machine.execVbound d a xb k s
  | .vtopk d a xb k => Sys2Proof.Machine.execVtopk d a xb k s
  | .vrand d xa xb k => Sys2Proof.Machine.execVrand d xa xb k s
  | .vsamp d a b k => Sys2Proof.Machine.execVsamp d a b k s
  | .vargmax d a k => Sys2Proof.Machine.execVargmax d a k s
  | .vspeck d a b k => Sys2Proof.Machine.execVspeck d a b k s
  -- VLD and VST (R292); the hint of R83.
  | .vld d base k h => Sys2Proof.Machine.execVld d base k h s
  | .vlds d base stride k h => Sys2Proof.Machine.execVlds d base stride k h s
  | .vldx d base idx k h => Sys2Proof.Machine.execVldx d base idx k h s
  | .vldp d base h => Sys2Proof.Machine.execVldp d base h s
  | .vldNc d base k => Sys2Proof.Machine.execVldNc d base k s
  | .vldsNc d base stride k => Sys2Proof.Machine.execVldsNc d base stride k s
  | .vldxNc d base idx k => Sys2Proof.Machine.execVldxNc d base idx k s
  | .vst d base k h => Sys2Proof.Machine.execVst d base k h s
  | .vsts d base stride k h => Sys2Proof.Machine.execVsts d base stride k h s
  | .vstx d base idx k h => Sys2Proof.Machine.execVstx d base idx k h s
  | .vstxO d base idx k h => Sys2Proof.Machine.execVstxO d base idx k h s
  | .vstxAdd d base idx k h => Sys2Proof.Machine.execVstxAdd d base idx k h s
  -- Sequence data (R316, R317).
  | .sqst d h first k => Sys2Proof.Machine.execSqst d h first k s
  | .sqld d kd h first => Sys2Proof.Machine.execSqld d kd h first s
  -- Vector atomics (R308): order bits, and `o` for the ordered-element variant; the scope is in the name.
  | .vamoaddC d base idx k h aq rl o => Sys2Proof.Machine.execVamoaddC d base idx k h aq rl o s
  | .vamoaddD d base idx k h aq rl o => Sys2Proof.Machine.execVamoaddD d base idx k h aq rl o s
  | .vamoaddV d base idx k h aq rl o => Sys2Proof.Machine.execVamoaddV d base idx k h aq rl o s
  | .vamoaddX d base idx k h aq rl o => Sys2Proof.Machine.execVamoaddX d base idx k h aq rl o s
  | .vamoandC d base idx k h aq rl o => Sys2Proof.Machine.execVamoandC d base idx k h aq rl o s
  | .vamoandD d base idx k h aq rl o => Sys2Proof.Machine.execVamoandD d base idx k h aq rl o s
  | .vamoandV d base idx k h aq rl o => Sys2Proof.Machine.execVamoandV d base idx k h aq rl o s
  | .vamoandX d base idx k h aq rl o => Sys2Proof.Machine.execVamoandX d base idx k h aq rl o s
  | .vamoorC d base idx k h aq rl o => Sys2Proof.Machine.execVamoorC d base idx k h aq rl o s
  | .vamoorD d base idx k h aq rl o => Sys2Proof.Machine.execVamoorD d base idx k h aq rl o s
  | .vamoorV d base idx k h aq rl o => Sys2Proof.Machine.execVamoorV d base idx k h aq rl o s
  | .vamoorX d base idx k h aq rl o => Sys2Proof.Machine.execVamoorX d base idx k h aq rl o s
  | .vamoxorC d base idx k h aq rl o => Sys2Proof.Machine.execVamoxorC d base idx k h aq rl o s
  | .vamoxorD d base idx k h aq rl o => Sys2Proof.Machine.execVamoxorD d base idx k h aq rl o s
  | .vamoxorV d base idx k h aq rl o => Sys2Proof.Machine.execVamoxorV d base idx k h aq rl o s
  | .vamoxorX d base idx k h aq rl o => Sys2Proof.Machine.execVamoxorX d base idx k h aq rl o s
  | .vamomaxC d base idx k h aq rl o => Sys2Proof.Machine.execVamomaxC d base idx k h aq rl o s
  | .vamomaxD d base idx k h aq rl o => Sys2Proof.Machine.execVamomaxD d base idx k h aq rl o s
  | .vamomaxV d base idx k h aq rl o => Sys2Proof.Machine.execVamomaxV d base idx k h aq rl o s
  | .vamomaxX d base idx k h aq rl o => Sys2Proof.Machine.execVamomaxX d base idx k h aq rl o s
  | .vamominC d base idx k h aq rl o => Sys2Proof.Machine.execVamominC d base idx k h aq rl o s
  | .vamominD d base idx k h aq rl o => Sys2Proof.Machine.execVamominD d base idx k h aq rl o s
  | .vamominV d base idx k h aq rl o => Sys2Proof.Machine.execVamominV d base idx k h aq rl o s
  | .vamominX d base idx k h aq rl o => Sys2Proof.Machine.execVamominX d base idx k h aq rl o s
  | .vamoswapC d base idx k h aq rl o => Sys2Proof.Machine.execVamoswapC d base idx k h aq rl o s
  | .vamoswapD d base idx k h aq rl o => Sys2Proof.Machine.execVamoswapD d base idx k h aq rl o s
  | .vamoswapV d base idx k h aq rl o => Sys2Proof.Machine.execVamoswapV d base idx k h aq rl o s
  | .vamoswapX d base idx k h aq rl o => Sys2Proof.Machine.execVamoswapX d base idx k h aq rl o s
  -- VWAIT (R310).
  | .vwaitAll kd xs va ve k sc => Sys2Proof.Machine.execVwaitAll kd xs va ve k sc s
  | .vwaitAny kd xs va ve k sc => Sys2Proof.Machine.execVwaitAny kd xs va ve k sc s
  -- MAT (R319).
  | .mtile tb base fd => Sys2Proof.Machine.execMtile tb base fd s
  | .mrow acc row va tb fd => Sys2Proof.Machine.execMrow acc row va tb fd s
  | .mrowSp acc row va tb fd => Sys2Proof.Machine.execMrowSp acc row va tb fd s
  | .mrowP acc row va tb fd => Sys2Proof.Machine.execMrowP acc row va tb fd s
  | .mzero acc => Sys2Proof.Machine.execMzero acc s
  | .mread d acc row => Sys2Proof.Machine.execMread d acc row s
  | .mepi acc row base fd => Sys2Proof.Machine.execMepi acc row base fd s
  | .mrelease tb => Sys2Proof.Machine.execMrelease tb s
  -- Copy engine (R346 to R350).
  | .cpy d a b m e => Sys2Proof.Machine.execCpy d a b m e s
  | .cpyG d a b m e => Sys2Proof.Machine.execCpyG d a b m e s
  | .cpyX a b m => Sys2Proof.Machine.execCpyX a b m s
  | .cpySum d a b m => Sys2Proof.Machine.execCpySum d a b m s
  | .coll a b m => Sys2Proof.Machine.execColl a b m s
  -- Sequence control (R313).
  | .sqnew d a => Sys2Proof.Machine.execSqnew d a s
  | .sqres d a b => Sys2Proof.Machine.execSqres d a b s
  | .sqcmt a b m => Sys2Proof.Machine.execSqcmt a b m s
  | .sqabn a b m => Sys2Proof.Machine.execSqabn a b m s
  | .sqlen d a => Sys2Proof.Machine.execSqlen d a s
  | .sqlenH d a => Sys2Proof.Machine.execSqlenH d a s
  | .sqfork d a b => Sys2Proof.Machine.execSqfork d a b s
  | .sqdrop d => Sys2Proof.Machine.execSqdrop d s
  -- SCHED (R352).
  | .launch d a => Sys2Proof.Machine.execLaunch d a s
  | .join d a => Sys2Proof.Machine.execJoin d a s
  | .yield => Sys2Proof.Machine.execYield s
  | .exit => Sys2Proof.Machine.execExit s
  | .mark => Sys2Proof.Machine.execMark s
  -- Advice words (R204).
  | .ahalt => Sys2Proof.Machine.execAhalt s
  | .await a => Sys2Proof.Machine.execAwait a s
  | .aread d slot => Sys2Proof.Machine.execAread d slot s
  | .ali d c => Sys2Proof.Machine.execAli d c s
  | .aaddi d a c => Sys2Proof.Machine.execAaddi d a c s
  | .aadd d a b => Sys2Proof.Machine.execAadd d a b s
  | .asub d a b => Sys2Proof.Machine.execAsub d a b s
  | .aand d a b => Sys2Proof.Machine.execAand d a b s
  | .aor d a b => Sys2Proof.Machine.execAor d a b s
  | .asll d a b => Sys2Proof.Machine.execAsll d a b s
  | .asrl d a b => Sys2Proof.Machine.execAsrl d a b s
  | .amul d a b => Sys2Proof.Machine.execAmul d a b s
  | .aslli d a c => Sys2Proof.Machine.execAslli d a c s
  | .asrli d a c => Sys2Proof.Machine.execAsrli d a c s
  | .abeq a b off => Sys2Proof.Machine.execAbeq a b off s
  | .abne a b off => Sys2Proof.Machine.execAbne a b off s
  | .ablt a b off => Sys2Proof.Machine.execAblt a b off s
  | .abltu a b off => Sys2Proof.Machine.execAbltu a b off s
  | .aj off => Sys2Proof.Machine.execAj off s
  | .apf l2 a b n => Sys2Proof.Machine.execApf l2 a b n s
  | .apfv l2 a b d esize => Sys2Proof.Machine.execApfv l2 a b d esize s
  | .apinPri a b => Sys2Proof.Machine.execApinPri a b s
  | .apinPin a b => Sys2Proof.Machine.execApinPin a b s
  | .apinOff a b => Sys2Proof.Machine.execApinOff a b s
  | .atile tb a b d => Sys2Proof.Machine.execAtile tb a b d s
  | .aprio c => Sys2Proof.Machine.execAprio c s
  | .aorder c => Sys2Proof.Machine.execAorder c s
  -- Steps with no word: what an advice context, a queue, the lane partition or a wait does later (the operand `uid` names a hart identity).
  | .adviceAwaitWake uid => Sys2Proof.Machine.execAdviceAwaitWake uid s
  | .advicePinExpire uid => Sys2Proof.Machine.execAdvicePinExpire uid s
  | .queueRoomResume uid => Sys2Proof.Machine.execQueueRoomResume uid s
  | .laneBlockTaken uid => Sys2Proof.Machine.execLaneBlockTaken uid s
  | .laneHoldTimeout uid => Sys2Proof.Machine.execLaneHoldTimeout uid s
  | .laneReclaim uid => Sys2Proof.Machine.execLaneReclaim uid s
  | .waitaWake uid => Sys2Proof.Machine.execWaitaWake uid s
  | .waitaTimeout uid => Sys2Proof.Machine.execWaitaTimeout uid s
  | .vwaitRound uid => Sys2Proof.Machine.execVwaitRound uid s
  | .vwaitTimeout uid => Sys2Proof.Machine.execVwaitTimeout uid s
  | .wfiWake uid => Sys2Proof.Machine.execWfiWake uid s
  | .pairTimeout uid => Sys2Proof.Machine.execPairTimeout uid s
  | .interruptTake uid => Sys2Proof.Machine.execInterruptTake uid s
  | .reliabilityQueuedTrap uid cause tval => Sys2Proof.Machine.execReliabilityQueuedTrap uid cause tval s
  | .copyCommandComplete uid => Sys2Proof.Machine.execCopyCommandComplete uid s
  | .copyEngineFault uid cause tval => Sys2Proof.Machine.execCopyEngineFault uid cause tval s
  | .compactionMove ctx seq block newPa => Sys2Proof.Machine.execCompactionMove ctx seq block newPa s
  -- The dispatcher (21).
  | .overflowRingReturn ctx => Sys2Proof.Machine.execOverflowRingReturn ctx s
  | .launchEligible handle => Sys2Proof.Machine.execLaunchEligible handle s
  | .waitaddrPoll => Sys2Proof.Machine.execWaitaddrPoll s
  | .hartIssue core => Sys2Proof.Machine.execHartIssue core s
  | .dispatchTick core => Sys2Proof.Machine.execDispatchTick core s
  | .priorityAging handle => Sys2Proof.Machine.execPriorityAging handle s
  | .hartSave uid reason => Sys2Proof.Machine.execHartSave uid reason s
  | .hartRestore uid => Sys2Proof.Machine.execHartRestore uid s
  | .hqLaunch q => Sys2Proof.Machine.execHqLaunch q s
  | .hqHoldHart q => Sys2Proof.Machine.execHqHoldHart q s
  | .hqReleaseHart q => Sys2Proof.Machine.execHqReleaseHart q s
  | .hqRetireHandle q => Sys2Proof.Machine.execHqRetireHandle q s
  | .hqMigrateHart q => Sys2Proof.Machine.execHqMigrateHart q s
  | .hqSetOverflowRing q => Sys2Proof.Machine.execHqSetOverflowRing q s
  | .contextRegisterWriteComplete uid => Sys2Proof.Machine.execContextRegisterWriteComplete uid s
  | .parkedAccessRetranslate uid => Sys2Proof.Machine.execParkedAccessRetranslate uid s
  -- Host, link and storage (23, 24).
  | .hashTreeUpdate region => Sys2Proof.Machine.execHashTreeUpdate region s
  | .hostWindowRead fn sp addr n => Sys2Proof.Machine.execHostWindowRead fn sp addr n s
  | .hostWindowWrite fn sp addr data => Sys2Proof.Machine.execHostWindowWrite fn sp addr data s
  | .hostReadTimeout pa n => Sys2Proof.Machine.execHostReadTimeout pa n s
  | .linkFlitReceive port flit => Sys2Proof.Machine.execLinkFlitReceive port flit s
  | .linkPortDown port => Sys2Proof.Machine.execLinkPortDown port s
  | .remoteRequestTimeout kind pa n uid => Sys2Proof.Machine.execRemoteRequestTimeout kind pa n uid s
  | .collRankTimeout uid => Sys2Proof.Machine.execCollRankTimeout uid s
  -- Mailbox commands of R451; `m` is the master of R449.
  | .createContext m c => Sys2Proof.Machine.execCreateContext m c s
  | .destroyContext m ctx => Sys2Proof.Machine.execDestroyContext m ctx s
  | .bindHostQueue m q c => Sys2Proof.Machine.execBindHostQueue m q c s
  | .setSchedulingQuantum m us => Sys2Proof.Machine.execSetSchedulingQuantum m us s
  | .endLaunch m handle => Sys2Proof.Machine.execEndLaunch m handle s
  | .hashRegionRegister m desc => Sys2Proof.Machine.execHashRegionRegister m desc s
  | .hashRegionRemove m region => Sys2Proof.Machine.execHashRegionRemove m region s
  | .hashRegionSeal m region => Sys2Proof.Machine.execHashRegionSeal m region s
  | .readErrorLog m die => Sys2Proof.Machine.execReadErrorLog m die s
  | .clearErrorLog m die => Sys2Proof.Machine.execClearErrorLog m die s
  | .readTraceBuffer m hamlet => Sys2Proof.Machine.execReadTraceBuffer m hamlet s
  | .setPartitionTable m t => Sys2Proof.Machine.execSetPartitionTable m t s
  | .setDomainTable m own present => Sys2Proof.Machine.execSetDomainTable m own present s
  | .setHostApertures m part t => Sys2Proof.Machine.execSetHostApertures m part t s
  | .setCollectiveTimeout m ns => Sys2Proof.Machine.execSetCollectiveTimeout m ns s
  | .setPowerLimit m watts => Sys2Proof.Machine.execSetPowerLimit m watts s
  | .attestationQuote m nonce => Sys2Proof.Machine.execAttestationQuote m nonce s
  | .mailboxClaim m => Sys2Proof.Machine.execMailboxClaim m s
  | .handover m target => Sys2Proof.Machine.execHandover m target s
  | .heartbeat m => Sys2Proof.Machine.execHeartbeat m s
  | .registerKernel m c => Sys2Proof.Machine.execRegisterKernel m c s
  | .unregisterKernel m ctx kzhdr => Sys2Proof.Machine.execUnregisterKernel m ctx kzhdr s
  | .leaseLapse => Sys2Proof.Machine.execLeaseLapse s
  | .handoverExpire => Sys2Proof.Machine.execHandoverExpire s
  -- Clocks, power, bring-up and storage errors (R431, R442, R453 to R457).
  | .clockChange hamlet dom mhz reason => Sys2Proof.Machine.execClockChange hamlet dom mhz reason s
  | .throttleLevelChange hamlet level => Sys2Proof.Machine.execThrottleLevelChange hamlet level s
  | .powerLimitReached watts limit => Sys2Proof.Machine.execPowerLimitReached watts limit s
  | .thermalLimitReached hamlet tenths => Sys2Proof.Machine.execThermalLimitReached hamlet tenths s
  | .powerBackWithinLimit watts limit => Sys2Proof.Machine.execPowerBackWithinLimit watts limit s
  | .powerOnBringUp slotA slotB => Sys2Proof.Machine.execPowerOnBringUp slotA slotB s
  | .hostSnoop pa take => Sys2Proof.Machine.execHostSnoop pa take s
  | .hostRequestError pa n isWrite => Sys2Proof.Machine.execHostRequestError pa n isWrite s
  | .linkPortRetrained port => Sys2Proof.Machine.execLinkPortRetrained port s
  | .uncorrectableStorageError level pa => Sys2Proof.Machine.execUncorrectableStorageError level pa s
  | .adviceFillComplete uid => Sys2Proof.Machine.execAdviceFillComplete uid s
  | .hardwarePrefetch uid va n => Sys2Proof.Machine.execHardwarePrefetch uid va n s
  | .mailboxMessageToHart m uid msg => Sys2Proof.Machine.execMailboxMessageToHart m uid msg s

end Sys2Proof.Machine
end

