-- ==== Sys2Proof/Machine/FrontEnd.lean ====
section
/-! DEFINITION. What a front end may do ahead of accesses that have not performed (R37, R40, R41, R110, R113, R116),
and which hart of a core moves (R396). -/

namespace Sys2Proof.Machine

/-! ### Running ahead -/

/-- The entries with accesses that have not performed; those that a reliability trap holds are not waited for
(R428). -/
def Hart.outstanding (h : Hart) : List QEntry := h.queue.filter fun e => e.accesses && !e.rhold

/-- Whether the hart has no access left to perform. -/
def Hart.quiet (h : Hart) : Bool := h.pending.isEmpty && h.outstanding.isEmpty

/-- Whether every access of the SCL and VEC paths, and of domain windows, has performed: what may be left is on the
MTX path, or a sequence data instruction. -/
def Hart.settled (h : Hart) : Bool :=
  h.pending.isEmpty && h.outstanding.all fun e => e.kind != .vmq || major e.word == 0x36

/-- A plain scalar access of a word: whether it stores, and its bytes (R242). -/
def plainAccess (w : IWord) : Option (Bool × Nat) :=
  match major w with
  | 0x10 => some (false, 1)
  | 0x11 => some (false, 2)
  | 0x12 => some (false, 4)
  | 0x13 => some (false, 8)
  | 0x14 => some (false, 4)
  | 0x15 => some (false, 8)
  | 0x16 => some (true, 1)
  | 0x17 => some (true, 2)
  | 0x18 => some (true, 4)
  | 0x19 => some (true, 8)
  | 0x1A => some (false, 4)
  | 0x1B => some (false, 8)
  | 0x1C => some (true, 4)
  | 0x1D => some (true, 8)
  | _ => none

/-- Whether an access of n bytes may perform ahead of what is outstanding: none of it touches its bytes (R113) or is
an acquire (R110), no sequence data instruction stands before an access of a SEQ page, and no read before a write
(R116). -/
def State.accessPasses (s : State) (k : Kind) (va : Word) (n : Nat) : Bool :=
  match s.target k va n with
  | .error _ => true
  | .ok (x, _) =>
    let seq := match x with
      | .window _ => false
      | .phys t => t.seq && !t.lnk
    (s.hart.pending.all fun d => !(Target.phys d.xlat).overlaps d.bytes.length x n)
      && s.hart.outstanding.all fun e => !e.touches x n && !e.acquires
          && !(seq && major e.word == 0x36) && (k == .read || !e.reads)

/-- Whether a fence between two paths may perform (R111): what the hart has left on the first path has performed. -/
def Hart.pathDone (h : Hart) (p : Path) : Bool :=
  match p with
  | .scl => h.settled
  | .vec => h.settled
  | .mtx => h.outstanding.all fun e => e.kind != .mq
  | .cpy => true
  | .lnk => h.outstanding.all fun e => e.kind != .vmq
  | .seq => h.outstanding.all fun e => e.kind != .vmq

/-- Whether a vector memory word may enter its queue now: behind the entries of the queues, or past stores that have
performed. An ordered variant and a vwait perform at the front end. -/
def State.entersPast (s : State) (atFront : Bool) : Bool :=
  s.hart.pending.isEmpty || (!atFront && (s.hart.lag || !s.hart.queue.isEmpty))

/-- Whether the front end may execute a word now: with nothing outstanding, every word; otherwise what R40, R41, R110,
R113 and R116 let pass. -/
def State.passes (s : State) (w : IWord) : Bool :=
  let fn := rrFn w
  s.hart.quiet || match plainAccess w with
  | some (st, n) => s.accessPasses (if st then .write else .read) (s.effAddr (riA w) (riImm w)) n
  | none => match major w with
    | 0x0A => s.entersPast (w.getLsbD 26)
    | 0x0B => s.entersPast (w.getLsbD 26)
    | 0x0C => s.entersPast (w.getLsbD 26)
    | 0x0D => s.entersPast (w.getLsbD 26)
    | 0x0E => s.entersPast true
    | 0x34 => s.entersPast false
    | 0x35 => s.entersPast (fn == 3)
    | 0x36 => s.entersPast false
    | 0x28 => s.accessPasses .rw (s.x (rrA w)) (if w.getLsbD 31 then 8 else 4) && (!w.getLsbD 9 || s.hart.settled)
    | 0x29 => match decodeSync w with
      | .ok (.fence _ sc) => sc == .hart || s.hart.settled
      | .ok (.fenceP p _ _) => s.hart.pathDone p
      | .ok (.barArrive _) => false
      | .ok (.barWait _) => false
      | .ok _ => s.accessPasses .read (s.x (rrA w)) (waitaBytes (w.getLsbD 9))
      | .error _ => true
    | 0x2D => fn != 1 || s.accessPasses .rw (s.x (rrA w)) 16
    | 0x3B => fn == 2 || fn == 4
    | _ => true

/-! ### Which hart moves (R396) -/

/-- Whether a front end has an instruction ready. -/
def Hart.ready (h : Hart) : Bool :=
  h.status == .running && !h.awaits && match h.wait with
    | .none => true
    | .held => h.queue.isEmpty || h.interrupted
    | .room q => h.hasRoom q
    | .copyRoom => decide (h.copyq.length < 16)
    | .copyDrain => h.copyq.isEmpty
    | _ => false

/-- The harts of a core's slots, in rotation from the one after the slot that issued last. -/
def State.inTurn (s : State) (core : Nat) : List Hart :=
  let k := (s.core core).turn
  let key (h : Hart) : Nat := (h.slot + 3 - k % 4) % 4
  sortBy (fun (a b : Hart) => decide (key a < key b)) (s.harts.filter fun h => h.core == core && h.inSlot)

/-- The hart that the issue slot goes to: by effective priority, then APRIO, then in rotation (R396). -/
def State.issuer (s : State) (core : Nat) : Option Hart :=
  (sortBy (fun (a b : Hart) => decide (s.priority b < s.priority a)
      || (s.priority a == s.priority b && decide (b.adv.aprio.toNat < a.adv.aprio.toNat)))
    ((s.inTurn core).filter Hart.ready)).head?

/-- The cores with harts in their slots, in rotation. -/
def State.coresInTurn (s : State) : List Nat :=
  let cs := sortBy (fun (a b : Nat) => decide (a < b)) (((s.harts.filter Hart.inSlot).map (·.core)).eraseDups)
  cs.filter (s.turn < ·) ++ cs.filter (· ≤ s.turn)

/-- A hart's turn noted. -/
def State.tookTurn (s : State) (h : Hart) : State :=
  ({ s with turn := h.core } : State).setCore h.core { s.core h.core with turn := h.slot }

end Sys2Proof.Machine
end

