-- ==== Sys2Proof/Machine/Step.lean ====
section
/-! DEFINITION. One step of the device: the move of one agent, as the agenda says (assumption log 1),
and a state whose next step fetches a given word. -/

namespace Sys2Proof.Machine

/-- A word at the front end: decoded and performed, or refused with its encoding cause (R230). -/
noncomputable def frontWord (w : IWord) (s : State) : Host.Outcome State Fault Refusal :=
  match decode w with
  | .ok i => exec i s
  | .error _ => commit s (.error (.trap (encCause (major w)) (wordVal w)))

/-- The front end of the hart in focus (R36): a pending enabled interrupt (R420), or the word at the PC, once what must
perform before it has performed. -/
noncomputable def frontStep (s : State) : Host.Outcome State Fault Refusal :=
  if s.hart.status = .running ∧ s.hart.wait.retries ∧ ¬ s.hart.awaits then
    if s.hart.interrupted then exec (.interruptTake s.hart.uid) (s.setWait .none)
    else match (s.setWait .none).fetch with
      | .ok (w, t) =>
        let u := t.entered
        if u.passes w then frontWord w u
        else .next (if u.hart.pending.isEmpty then u.setWait .held else u.performStore 0)
      | .error h => .next ((s.setWait .none).fetchFailed h)
  else .next s

/-- Whether stores that have left the hart must perform before an entry executes: one of the same bytes (R113), and
every one before a release (R110). -/
def QEntry.behindStores (e : QEntry) (ds : List Delayed) : Bool :=
  e.kind == .vmq && if e.releases then !ds.isEmpty else ds.any fun d => e.meets d

/-- The oldest entry of the queues of the hart in focus executes (R37); stores that must perform before its accesses
perform first. -/
noncomputable def queueStep (cut : Option Nat) (s : State) : Host.Outcome State Fault Refusal :=
  match s.hart.nextEntry with
  | some (e, rest) =>
    if !s.hart.inSlot then .next s
    else if e.behindStores s.hart.pending then .next (s.performStore 0)
    else frontWord e.word { s with hart := { s.hart with replay := some e, queue := rest, cut := cut } }
  | none => .next s

/-- One word of the advice context of the hart in focus (R198, R205). -/
noncomputable def adviceStep (s : State) : Host.Outcome State Fault Refusal :=
  if s.hart.adv.st = .running ∧ s.hart.inSlot then
    match s.fetchAdvice with
    | none => .next (s.stopAdvice 4)
    | some (w, t) =>
      match decodeAdvice w with
      | .ok i => exec i t
      | .error e => .next (t.stopAdvice e.stop)
  else .next s

/-- A move of the hart of an identity. -/
def withHart (uid : Nat) (s : State) (f : State → Host.Outcome State Fault Refusal) :
    Host.Outcome State Fault Refusal :=
  match s.focus uid with
  | some t => f t
  | none => .fault (.noSuchHart uid)

/-- What a move asked of one instruction is over with it. -/
def settled (uid : Nat) (o : Host.Outcome State Fault Refusal) : Host.Outcome State Fault Refusal :=
  match o with
  | .next t => .next (t.modHart uid fun h => { h with cut := none, lag := false })
  | .fault f => .fault f
  | .refused r => .refused r

/-- One move. -/
noncomputable def runMover (m : Mover) (s : State) : Host.Outcome State Fault Refusal :=
  match m with
  | .front uid => withHart uid s frontStep
  | .frontCut uid b => withHart uid s fun t =>
    settled uid (frontStep { t with hart := { t.hart with cut := some b } })
  | .frontLag uid => withHart uid s fun t => settled uid (frontStep { t with hart := { t.hart with lag := true } })
  | .queue uid cut => withHart uid s fun t => settled uid (queueStep cut t)
  | .vmuRead uid n => withHart uid s fun t => .next (t.vmuRead n)
  | .advice uid => withHart uid s adviceStep
  | .event i => exec i s
  | .evict core line => .next (s.evictLine core line)
  | .evictGathered core n => .next (s.evictGathered core n)
  | .l2Fill pa g => .next (s.l2Fill pa g)
  | .l2Evict line => .next (s.evictL2 line)
  | .refetch core => .next (s.refetch core)
  | .delayUnits uid us => withHart uid s fun t => .next { t with hart := { t.hart with delay := us } }
  | .gatherRead uid n => withHart uid s fun t => .next (t.gatherBegin n)
  | .performStore uid n => withHart uid s fun t => .next (t.performStore n)
  | .elapse ns => .next (s.pass ns)
  | .stall uid v m c => withHart uid s fun t => .next (t.stallBy v m c)
  | .peer c => .next { s with peers := s.peers ++ [c] }
  | .linkSend port flit => .next (s.sendFlit port flit)
  | .external pa data => .next (s.external pa data)
  | .fetchAhead uid va => withHart uid s fun t => .next (t.fetchAhead va)
  | .tlbDrop uid va => withHart uid s fun t => .next (t.dropTlb va)
  | .hbmError pa bad => .next (s.hbmError pa bad)
  | .trouble uid x => withHart uid s fun t => .next { t with hart := { t.hart with trouble := some x } }
  | .accError uid row flip => withHart uid s fun t => .next (t.accError row flip)

/-- A move after another, where that answers a next state. -/
def andThen (o : Host.Outcome State Fault Refusal) (f : State → Host.Outcome State Fault Refusal) :
    Host.Outcome State Fault Refusal :=
  match o with
  | .next t => f t
  | .fault e => .fault e
  | .refused r => .refused r

/-- What the units of a hart do beside its issue: a store performs, a wait looks again, the head of the copy queue
completes, and its advice context goes on. -/
noncomputable def unitsStep (uid : Nat) (s : State) : Host.Outcome State Fault Refusal :=
  withHart uid s fun t =>
    let a := t.performStore 0
    andThen (match a.wakeEvent with
      | some e => exec e a
      | none => .next a) fun b =>
    andThen (if b.hart.copyq.isEmpty then .next b else exec (.copyCommandComplete uid) b) fun c =>
    withHart uid c adviceStep

/-- The issue of a core: an entry of a queue, or the front end that the issue slot goes to (R396). -/
noncomputable def issueStep (core : Nat) (s : State) : Host.Outcome State Fault Refusal :=
  let at_ (h : Hart) : State := ((s.focus h.uid).getD s).tookTurn h
  match (s.inTurn core).find? fun h => h.nextEntry.isSome with
  | some h => queueStep none (at_ h)
  | none => match s.issuer core with
    | some h => frontStep (at_ h)
    | none => .next { s with turn := core }

/-- A move of one core with the agenda empty, as TIME passes: the units of each of its harts, then its issue. -/
noncomputable def coreStep (core : Nat) (s : State) : Host.Outcome State Fault Refusal :=
  andThen (((s.inTurn core).map (·.uid)).foldl (fun o u => andThen o (unitsStep u)) (.next (s.pass 1)))
    (issueStep core)

/-- The move with the agenda empty: bring-up before anything else (R457); then the cores with harts, in rotation. -/
noncomputable def defaultStep (s : State) : Host.Outcome State Fault Refusal :=
  match s.boot with
  | .off => exec (.powerOnBringUp true true) s
  | .halted => .next s
  | .done => match s.coresInTurn with
    | c :: _ => coreStep c s
    | [] => .next (s.pass 1)

/-- One step of the device. -/
noncomputable def step (s : State) : Host.Outcome State Fault Refusal :=
  match s.agenda with
  | [] => defaultStep s
  | m :: rest => runMover m { s with agenda := rest }

/-! ### A state that fetches a word next -/

/-- The physical frame the placed word lies in. -/
def placeFrame : Nat := 0x100000

/-- A virtual address a fetch can translate, or one that it can. -/
def placeVa (va : Word) : Word :=
  if canonical va && !inWindow va && va.toNat % 4 == 0 then va else 0x1000

/-- A state whose hart in focus runs, with a translation of one page to the placed frame: readable,
executable, at the kernel level, G256. -/
def State.withPage (s : State) (va : Word) : State :=
  let leaf : Word := BitVec.ofNat 64 (placeFrame + 0xF7)
  let h := s.hart
  { s with
    boot := .done
    agenda := [.front h.uid]
    poison := s.poison.filter fun n => n != (placeFrame + va.toNat % 4096) / 32
    broken := s.broken.filter fun n => n != (placeFrame + va.toNat % 4096) / 32
    grain := s.grain.filter fun g => !(decide (placeFrame ≤ g.1 ∧ g.1 < placeFrame + 4096))
    mgmt := { s.mgmt with parts := [⟨BitVec.allOnes 32, BitVec.allOnes 16, [(0, 0x8000000000)]⟩] }
    ctxs := tset s.ctxs h.ctx { s.ctx h.ctx with part := 0, sttbEn := true }
    hart := { h with
      status := .running
      wait := .none
      queue := []
      qwait := .none
      replay := none
      cut := none
      lag := false
      pending := []
      irqSoft := none
      irqMail := none
      ibuf := []
      tlb := ⟨h.trap.ctxid, va.toNat / 4096 * 4096, 4096, leaf⟩ :: h.tlb } }

/-- A state whose next step fetches and runs a word: at the PC of the hart in focus, or, for an advice
word (major 0x3F), at the APC of its advice context. -/
def State.withFetchWord (s : State) (nbits w : Nat) : State :=
  let word : IWord := BitVec.ofNat 32 (w % 2 ^ nbits)
  if major word = 0x3F then
    let va := placeVa s.hart.adv.apc
    let t := (s.withPage va).placeWord (placeFrame + va.toNat % 4096) word
    { t with
      agenda := [.advice t.hart.uid]
      hart := { t.hart with
        adv := { t.hart.adv with apc := va, st := .running, code := va, codeSize := 4 } } }
  else
    let va := placeVa s.hart.pc
    let t := (s.withPage va).placeWord (placeFrame + va.toNat % 4096) word
    { t with hart := { t.hart with pc := va } }

end Sys2Proof.Machine
end

