-- ==== Sys2Proof/Safety.lean ====
section
/-! DEFINITION. What a safe run is, and the one form its states keep. -/

namespace Sys2Proof

/-- An outcome that is no fault and no refusal. -/
def Safe (o : Host.Outcome Machine.State Machine.Fault Machine.Refusal) : Prop :=
  ∃ t, o = .next t

/-- The one form of the memory side: memory and the cores' translation tables list rising addresses and no
byte that equals an unlisted one; the granule record, the cores and their L1 lines stand by rising number. -/
def Canonical (s : Machine.State) : Prop :=
  Machine.Memory.wf s.mem = true ∧ Machine.Tbl.rising s.grain = true ∧ Machine.Tbl.rising s.cores = true ∧
  ∀ p ∈ s.cores, Machine.Tbl.rising p.2.l1 = true ∧ Machine.Memory.wf p.2.vtt = true

end Sys2Proof
end

