-- ==== Sys2Proof/WellFormed.lean ====
section
/-! DEFINITION. Which instructions are well formed: operand forms and register values that have an
encoding (R106, R204, R214, R216, R222), and the numbers that steps without a word may name. -/

namespace Sys2Proof

/-- Forms vv, vx and vi: VINT (R222). -/
def VSrc.isInt : VSrc → Bool
  | .vv _ => true | .vx _ => true | .vi _ => true | .vf _ => false

/-- Forms vv and vf: VFP (R222). -/
def VSrc.isFp : VSrc → Bool
  | .vv _ => true | .vx _ => false | .vi _ => false | .vf _ => true

/-- Forms vv and vx: vbcast and vinsx (R222, R282). -/
def VSrc.isCopy : VSrc → Bool
  | .vv _ => true | .vx _ => true | .vi _ => false | .vf _ => false

/-- Forms vv, vx, and vi with an immediate of 0 to 15: vshup and vshdn (R222, R282). -/
def VSrc.isShift : VSrc → Bool
  | .vv _ => true | .vx _ => true | .vi c => !c.msb | .vf _ => false

/-- How an instruction is written: a semantic word, an advice word, or no word at all. -/
inductive WordClass where
  | semantic | advice | event
deriving DecidableEq, Repr

/-- The word class of an instruction: the advice words are those of R204. -/
def Instr.wordClass : Instr → WordClass
  | .add _ _ _ => .semantic
  | .sub _ _ _ => .semantic
  | .and _ _ _ => .semantic
  | .or _ _ _ => .semantic
  | .xor _ _ _ => .semantic
  | .sll _ _ _ => .semantic
  | .srl _ _ _ => .semantic
  | .sra _ _ _ => .semantic
  | .slt _ _ _ => .semantic
  | .sltu _ _ _ => .semantic
  | .mul _ _ _ => .semantic
  | .mulh _ _ _ => .semantic
  | .mulhu _ _ _ => .semantic
  | .div _ _ _ => .semantic
  | .divu _ _ _ => .semantic
  | .rem _ _ _ => .semantic
  | .remu _ _ _ => .semantic
  | .min _ _ _ => .semantic
  | .max _ _ _ => .semantic
  | .minu _ _ _ => .semantic
  | .maxu _ _ _ => .semantic
  | .clz _ _ => .semantic
  | .ctz _ _ => .semantic
  | .popc _ _ => .semantic
  | .jalr _ _ => .semantic
  | .addi _ _ _ => .semantic
  | .andi _ _ _ => .semantic
  | .ori _ _ _ => .semantic
  | .xori _ _ _ => .semantic
  | .slti _ _ _ => .semantic
  | .sltiu _ _ _ => .semantic
  | .lui _ _ => .semantic
  | .slli _ _ _ => .semantic
  | .srli _ _ _ => .semantic
  | .srai _ _ _ => .semantic
  | .ldB _ _ _ => .semantic
  | .ldH _ _ _ => .semantic
  | .ldW _ _ _ => .semantic
  | .ldD _ _ _ => .semantic
  | .ldWNc _ _ _ => .semantic
  | .ldDNc _ _ _ => .semantic
  | .stB _ _ _ => .semantic
  | .stH _ _ _ => .semantic
  | .stW _ _ _ => .semantic
  | .stD _ _ _ => .semantic
  | .fldS _ _ _ => .semantic
  | .fldD _ _ _ => .semantic
  | .fstS _ _ _ => .semantic
  | .fstD _ _ _ => .semantic
  | .beq _ _ _ => .semantic
  | .bne _ _ _ => .semantic
  | .blt _ _ _ => .semantic
  | .bge _ _ _ => .semantic
  | .bltu _ _ _ => .semantic
  | .bgeu _ _ _ => .semantic
  | .j _ => .semantic
  | .jal _ => .semantic
  | .amoswap _ _ _ _ _ _ _ => .semantic
  | .amocas _ _ _ _ _ _ _ => .semantic
  | .amoadd _ _ _ _ _ _ _ => .semantic
  | .amoand _ _ _ _ _ _ _ => .semantic
  | .amoor _ _ _ _ _ _ _ => .semantic
  | .amoxor _ _ _ _ _ _ _ => .semantic
  | .fence _ _ => .semantic
  | .fenceP _ _ _ => .semantic
  | .waitaEq _ _ _ _ _ => .semantic
  | .waitaNe _ _ _ _ _ => .semantic
  | .waitaLt _ _ _ _ _ => .semantic
  | .waitaGe _ _ _ _ _ => .semantic
  | .waitaLtu _ _ _ _ _ => .semantic
  | .waitaGeu _ _ _ _ _ => .semantic
  | .barArrive _ => .semantic
  | .barWait _ => .semantic
  | .fadd _ _ _ _ => .semantic
  | .fsub _ _ _ _ => .semantic
  | .fmul _ _ _ _ => .semantic
  | .fdiv _ _ _ _ => .semantic
  | .fsqrt _ _ _ => .semantic
  | .fma _ _ _ _ _ => .semantic
  | .fmin _ _ _ _ => .semantic
  | .fmax _ _ _ _ => .semantic
  | .feq _ _ _ _ => .semantic
  | .flt _ _ _ _ => .semantic
  | .fle _ _ _ _ => .semantic
  | .fcvtFX _ _ _ => .semantic
  | .fcvtXF _ _ _ => .semantic
  | .fmvFX _ _ _ => .semantic
  | .fmvXF _ _ _ => .semantic
  | .fsgnj _ _ _ _ => .semantic
  | .cread _ _ => .semantic
  | .cwrite _ _ => .semantic
  | .cbset _ _ => .semantic
  | .cbclr _ _ => .semantic
  | .syscall _ => .semantic
  | .brk _ => .semantic
  | .tret => .semantic
  | .wfi => .semantic
  | .tfenceS _ => .semantic
  | .tfenceV _ => .semantic
  | .setvt _ => .semantic
  | .setvl _ _ => .semantic
  | .claim _ _ _ => .semantic
  | .vpidx _ _ => .semantic
  | .vadd _ _ _ _ => .semantic
  | .vsub _ _ _ _ => .semantic
  | .vmul _ _ _ _ => .semantic
  | .vmulh _ _ _ _ => .semantic
  | .vdiv _ _ _ _ => .semantic
  | .vrem _ _ _ _ => .semantic
  | .vand _ _ _ _ => .semantic
  | .vor _ _ _ _ => .semantic
  | .vxor _ _ _ _ => .semantic
  | .vsll _ _ _ _ => .semantic
  | .vsrl _ _ _ _ => .semantic
  | .vsra _ _ _ _ => .semantic
  | .vmin _ _ _ _ => .semantic
  | .vmax _ _ _ _ => .semantic
  | .vsadd _ _ _ _ => .semantic
  | .vssub _ _ _ _ => .semantic
  | .vmerge _ _ _ _ => .semantic
  | .vmv _ _ _ => .semantic
  | .vfadd _ _ _ _ => .semantic
  | .vfsub _ _ _ _ => .semantic
  | .vfmul _ _ _ _ => .semantic
  | .vfdiv _ _ _ _ => .semantic
  | .vfma _ _ _ _ => .semantic
  | .vfms _ _ _ _ => .semantic
  | .vfnma _ _ _ _ => .semantic
  | .vfmin _ _ _ _ => .semantic
  | .vfmax _ _ _ _ => .semantic
  | .vfsqrt _ _ _ => .semantic
  | .vfrsqrt _ _ _ => .semantic
  | .vfexp _ _ _ => .semantic
  | .vfsgnj _ _ _ _ => .semantic
  | .vfcvtXF _ _ _ => .semantic
  | .vfcvtFX _ _ _ => .semantic
  | .vfclass _ _ _ => .semantic
  | .vcmpEq _ _ _ _ => .semantic
  | .vcmpNe _ _ _ _ => .semantic
  | .vcmpLt _ _ _ _ => .semantic
  | .vcmpLe _ _ _ _ => .semantic
  | .vcmpGt _ _ _ _ => .semantic
  | .vcmpGe _ _ _ _ => .semantic
  | .kand _ _ _ => .semantic
  | .kor _ _ _ => .semantic
  | .kxor _ _ _ => .semantic
  | .knot _ _ => .semantic
  | .kany _ _ => .semantic
  | .kall _ _ => .semantic
  | .kcount _ _ => .semantic
  | .vshup _ _ _ _ => .semantic
  | .vshdn _ _ _ _ => .semantic
  | .vpick _ _ _ _ => .semantic
  | .vcondense _ _ _ => .semantic
  | .vrev _ _ _ => .semantic
  | .vbcast _ _ _ _ => .semantic
  | .vinsx _ _ _ _ => .semantic
  | .vextx _ _ _ => .semantic
  | .vredsumO _ _ _ _ => .semantic
  | .vredsum _ _ _ _ => .semantic
  | .vredmax _ _ _ _ => .semantic
  | .vredmin _ _ _ _ => .semantic
  | .vsegredO _ _ _ _ => .semantic
  | .vscanO _ _ _ _ => .semantic
  | .vscan _ _ _ _ => .semantic
  | .vscanmax _ _ _ _ => .semantic
  | .vdot16 _ _ _ _ _ => .semantic
  | .vquant _ _ _ _ => .semantic
  | .vdeq _ _ _ _ => .semantic
  | .vbpack _ _ _ _ => .semantic
  | .vbunpack _ _ _ _ => .semantic
  | .vcvt _ _ _ _ => .semantic
  | .vscore _ _ _ => .semantic
  | .vexpm => .semantic
  | .vaccv _ _ => .semantic
  | .vsegmax _ => .semantic
  | .vsegsum _ _ => .semantic
  | .vbound _ _ _ _ => .semantic
  | .vtopk _ _ _ _ => .semantic
  | .vrand _ _ _ _ => .semantic
  | .vsamp _ _ _ _ => .semantic
  | .vargmax _ _ _ => .semantic
  | .vspeck _ _ _ _ => .semantic
  | .vld _ _ _ _ => .semantic
  | .vlds _ _ _ _ _ => .semantic
  | .vldx _ _ _ _ _ => .semantic
  | .vldp _ _ _ => .semantic
  | .vldNc _ _ _ => .semantic
  | .vldsNc _ _ _ _ => .semantic
  | .vldxNc _ _ _ _ => .semantic
  | .vst _ _ _ _ => .semantic
  | .vsts _ _ _ _ _ => .semantic
  | .vstx _ _ _ _ _ => .semantic
  | .vstxO _ _ _ _ _ => .semantic
  | .vstxAdd _ _ _ _ _ => .semantic
  | .sqst _ _ _ _ => .semantic
  | .sqld _ _ _ _ => .semantic
  | .vamoaddC _ _ _ _ _ _ _ _ => .semantic
  | .vamoaddD _ _ _ _ _ _ _ _ => .semantic
  | .vamoaddV _ _ _ _ _ _ _ _ => .semantic
  | .vamoaddX _ _ _ _ _ _ _ _ => .semantic
  | .vamoandC _ _ _ _ _ _ _ _ => .semantic
  | .vamoandD _ _ _ _ _ _ _ _ => .semantic
  | .vamoandV _ _ _ _ _ _ _ _ => .semantic
  | .vamoandX _ _ _ _ _ _ _ _ => .semantic
  | .vamoorC _ _ _ _ _ _ _ _ => .semantic
  | .vamoorD _ _ _ _ _ _ _ _ => .semantic
  | .vamoorV _ _ _ _ _ _ _ _ => .semantic
  | .vamoorX _ _ _ _ _ _ _ _ => .semantic
  | .vamoxorC _ _ _ _ _ _ _ _ => .semantic
  | .vamoxorD _ _ _ _ _ _ _ _ => .semantic
  | .vamoxorV _ _ _ _ _ _ _ _ => .semantic
  | .vamoxorX _ _ _ _ _ _ _ _ => .semantic
  | .vamomaxC _ _ _ _ _ _ _ _ => .semantic
  | .vamomaxD _ _ _ _ _ _ _ _ => .semantic
  | .vamomaxV _ _ _ _ _ _ _ _ => .semantic
  | .vamomaxX _ _ _ _ _ _ _ _ => .semantic
  | .vamominC _ _ _ _ _ _ _ _ => .semantic
  | .vamominD _ _ _ _ _ _ _ _ => .semantic
  | .vamominV _ _ _ _ _ _ _ _ => .semantic
  | .vamominX _ _ _ _ _ _ _ _ => .semantic
  | .vamoswapC _ _ _ _ _ _ _ _ => .semantic
  | .vamoswapD _ _ _ _ _ _ _ _ => .semantic
  | .vamoswapV _ _ _ _ _ _ _ _ => .semantic
  | .vamoswapX _ _ _ _ _ _ _ _ => .semantic
  | .vwaitAll _ _ _ _ _ _ => .semantic
  | .vwaitAny _ _ _ _ _ _ => .semantic
  | .mtile _ _ _ => .semantic
  | .mrow _ _ _ _ _ => .semantic
  | .mrowSp _ _ _ _ _ => .semantic
  | .mrowP _ _ _ _ _ => .semantic
  | .mzero _ => .semantic
  | .mread _ _ _ => .semantic
  | .mepi _ _ _ _ => .semantic
  | .mrelease _ => .semantic
  | .cpy _ _ _ _ _ => .semantic
  | .cpyG _ _ _ _ _ => .semantic
  | .cpyX _ _ _ => .semantic
  | .cpySum _ _ _ _ => .semantic
  | .coll _ _ _ => .semantic
  | .sqnew _ _ => .semantic
  | .sqres _ _ _ => .semantic
  | .sqcmt _ _ _ => .semantic
  | .sqabn _ _ _ => .semantic
  | .sqlen _ _ => .semantic
  | .sqlenH _ _ => .semantic
  | .sqfork _ _ _ => .semantic
  | .sqdrop _ => .semantic
  | .launch _ _ => .semantic
  | .join _ _ => .semantic
  | .yield => .semantic
  | .exit => .semantic
  | .mark => .semantic
  | .ahalt => .advice
  | .await _ => .advice
  | .aread _ _ => .advice
  | .ali _ _ => .advice
  | .aaddi _ _ _ => .advice
  | .aadd _ _ _ => .advice
  | .asub _ _ _ => .advice
  | .aand _ _ _ => .advice
  | .aor _ _ _ => .advice
  | .asll _ _ _ => .advice
  | .asrl _ _ _ => .advice
  | .amul _ _ _ => .advice
  | .aslli _ _ _ => .advice
  | .asrli _ _ _ => .advice
  | .abeq _ _ _ => .advice
  | .abne _ _ _ => .advice
  | .ablt _ _ _ => .advice
  | .abltu _ _ _ => .advice
  | .aj _ => .advice
  | .apf _ _ _ _ => .advice
  | .apfv _ _ _ _ _ => .advice
  | .apinPri _ _ => .advice
  | .apinPin _ _ => .advice
  | .apinOff _ _ => .advice
  | .atile _ _ _ _ => .advice
  | .aprio _ => .advice
  | .aorder _ => .advice
  | .adviceAwaitWake _ => .event
  | .advicePinExpire _ => .event
  | .queueRoomResume _ => .event
  | .laneBlockTaken _ => .event
  | .laneHoldTimeout _ => .event
  | .laneReclaim _ => .event
  | .waitaWake _ => .event
  | .waitaTimeout _ => .event
  | .vwaitRound _ => .event
  | .vwaitTimeout _ => .event
  | .wfiWake _ => .event
  | .pairTimeout _ => .event
  | .interruptTake _ => .event
  | .reliabilityQueuedTrap _ _ _ => .event
  | .copyCommandComplete _ => .event
  | .copyEngineFault _ _ _ => .event
  | .compactionMove _ _ _ _ => .event
  | .overflowRingReturn _ => .event
  | .launchEligible _ => .event
  | .waitaddrPoll => .event
  | .hartIssue _ => .event
  | .dispatchTick _ => .event
  | .priorityAging _ => .event
  | .hartSave _ _ => .event
  | .hartRestore _ => .event
  | .hqLaunch _ => .event
  | .hqHoldHart _ => .event
  | .hqReleaseHart _ => .event
  | .hqRetireHandle _ => .event
  | .hqMigrateHart _ => .event
  | .hqSetOverflowRing _ => .event
  | .contextRegisterWriteComplete _ => .event
  | .parkedAccessRetranslate _ => .event
  | .hashTreeUpdate _ => .event
  | .hostWindowRead _ _ _ _ => .event
  | .hostWindowWrite _ _ _ _ => .event
  | .hostReadTimeout _ _ => .event
  | .linkFlitReceive _ _ => .event
  | .linkPortDown _ => .event
  | .remoteRequestTimeout _ _ _ _ => .event
  | .collRankTimeout _ => .event
  | .createContext _ _ => .event
  | .destroyContext _ _ => .event
  | .bindHostQueue _ _ _ => .event
  | .setSchedulingQuantum _ _ => .event
  | .endLaunch _ _ => .event
  | .hashRegionRegister _ _ => .event
  | .hashRegionRemove _ _ => .event
  | .hashRegionSeal _ _ => .event
  | .readErrorLog _ _ => .event
  | .clearErrorLog _ _ => .event
  | .readTraceBuffer _ _ => .event
  | .setPartitionTable _ _ => .event
  | .setDomainTable _ _ _ => .event
  | .setHostApertures _ _ _ => .event
  | .setCollectiveTimeout _ _ => .event
  | .setPowerLimit _ _ => .event
  | .attestationQuote _ _ => .event
  | .mailboxClaim _ => .event
  | .handover _ _ => .event
  | .heartbeat _ => .event
  | .registerKernel _ _ => .event
  | .unregisterKernel _ _ _ => .event
  | .leaseLapse => .event
  | .handoverExpire => .event
  | .clockChange _ _ _ _ => .event
  | .throttleLevelChange _ _ => .event
  | .powerLimitReached _ _ => .event
  | .thermalLimitReached _ _ => .event
  | .powerBackWithinLimit _ _ => .event
  | .powerOnBringUp _ _ => .event
  | .hostSnoop _ _ => .event
  | .hostRequestError _ _ _ => .event
  | .linkPortRetrained _ => .event
  | .uncorrectableStorageError _ _ => .event
  | .adviceFillComplete _ => .event
  | .hardwarePrefetch _ _ _ => .event
  | .mailboxMessageToHart _ _ _ => .event

/-- Well-formed instructions: mask destinations are not k0 (R216), forms are accepted (R222), the paths
of fence.p differ (R247), selectors are allocated (R204); hart slots, cores, hamlets, dies, link ports
and host queues exist (R8, R384, R443). -/
def Instr.wf : Instr → Bool
  | .add _ _ _ => true
  | .sub _ _ _ => true
  | .and _ _ _ => true
  | .or _ _ _ => true
  | .xor _ _ _ => true
  | .sll _ _ _ => true
  | .srl _ _ _ => true
  | .sra _ _ _ => true
  | .slt _ _ _ => true
  | .sltu _ _ _ => true
  | .mul _ _ _ => true
  | .mulh _ _ _ => true
  | .mulhu _ _ _ => true
  | .div _ _ _ => true
  | .divu _ _ _ => true
  | .rem _ _ _ => true
  | .remu _ _ _ => true
  | .min _ _ _ => true
  | .max _ _ _ => true
  | .minu _ _ _ => true
  | .maxu _ _ _ => true
  | .clz _ _ => true
  | .ctz _ _ => true
  | .popc _ _ => true
  | .jalr _ _ => true
  | .addi _ _ _ => true
  | .andi _ _ _ => true
  | .ori _ _ _ => true
  | .xori _ _ _ => true
  | .slti _ _ _ => true
  | .sltiu _ _ _ => true
  | .lui _ _ => true
  | .slli _ _ _ => true
  | .srli _ _ _ => true
  | .srai _ _ _ => true
  | .ldB _ _ _ => true
  | .ldH _ _ _ => true
  | .ldW _ _ _ => true
  | .ldD _ _ _ => true
  | .ldWNc _ _ _ => true
  | .ldDNc _ _ _ => true
  | .stB _ _ _ => true
  | .stH _ _ _ => true
  | .stW _ _ _ => true
  | .stD _ _ _ => true
  | .fldS _ _ _ => true
  | .fldD _ _ _ => true
  | .fstS _ _ _ => true
  | .fstD _ _ _ => true
  | .beq _ _ _ => true
  | .bne _ _ _ => true
  | .blt _ _ _ => true
  | .bge _ _ _ => true
  | .bltu _ _ _ => true
  | .bgeu _ _ _ => true
  | .j _ => true
  | .jal _ => true
  | .amoswap _ _ _ _ _ _ _ => true
  | .amocas _ _ _ _ _ _ _ => true
  | .amoadd _ _ _ _ _ _ _ => true
  | .amoand _ _ _ _ _ _ _ => true
  | .amoor _ _ _ _ _ _ _ => true
  | .amoxor _ _ _ _ _ _ _ => true
  | .fence _ _ => true
  | .fenceP p q _ => p != q
  | .waitaEq _ _ _ _ _ => true
  | .waitaNe _ _ _ _ _ => true
  | .waitaLt _ _ _ _ _ => true
  | .waitaGe _ _ _ _ _ => true
  | .waitaLtu _ _ _ _ _ => true
  | .waitaGeu _ _ _ _ _ => true
  | .barArrive _ => true
  | .barWait _ => true
  | .fadd _ _ _ _ => true
  | .fsub _ _ _ _ => true
  | .fmul _ _ _ _ => true
  | .fdiv _ _ _ _ => true
  | .fsqrt _ _ _ => true
  | .fma _ _ _ _ _ => true
  | .fmin _ _ _ _ => true
  | .fmax _ _ _ _ => true
  | .feq _ _ _ _ => true
  | .flt _ _ _ _ => true
  | .fle _ _ _ _ => true
  | .fcvtFX _ _ _ => true
  | .fcvtXF _ _ _ => true
  | .fmvFX _ _ _ => true
  | .fmvXF _ _ _ => true
  | .fsgnj _ _ _ _ => true
  | .cread _ _ => true
  | .cwrite _ _ => true
  | .cbset _ _ => true
  | .cbclr _ _ => true
  | .syscall _ => true
  | .brk _ => true
  | .tret => true
  | .wfi => true
  | .tfenceS _ => true
  | .tfenceV _ => true
  | .setvt _ => true
  | .setvl _ _ => true
  | .claim _ _ _ => true
  | .vpidx _ _ => true
  | .vadd _ _ b _ => b.isInt
  | .vsub _ _ b _ => b.isInt
  | .vmul _ _ b _ => b.isInt
  | .vmulh _ _ b _ => b.isInt
  | .vdiv _ _ b _ => b.isInt
  | .vrem _ _ b _ => b.isInt
  | .vand _ _ b _ => b.isInt
  | .vor _ _ b _ => b.isInt
  | .vxor _ _ b _ => b.isInt
  | .vsll _ _ b _ => b.isInt
  | .vsrl _ _ b _ => b.isInt
  | .vsra _ _ b _ => b.isInt
  | .vmin _ _ b _ => b.isInt
  | .vmax _ _ b _ => b.isInt
  | .vsadd _ _ b _ => b.isInt
  | .vssub _ _ b _ => b.isInt
  | .vmerge _ _ b _ => b.isInt
  | .vmv _ _ _ => true
  | .vfadd _ _ b _ => b.isFp
  | .vfsub _ _ b _ => b.isFp
  | .vfmul _ _ b _ => b.isFp
  | .vfdiv _ _ b _ => b.isFp
  | .vfma _ _ b _ => b.isFp
  | .vfms _ _ b _ => b.isFp
  | .vfnma _ _ b _ => b.isFp
  | .vfmin _ _ b _ => b.isFp
  | .vfmax _ _ b _ => b.isFp
  | .vfsqrt _ _ _ => true
  | .vfrsqrt _ _ _ => true
  | .vfexp _ _ _ => true
  | .vfsgnj _ _ b _ => b.isFp
  | .vfcvtXF _ _ _ => true
  | .vfcvtFX _ _ _ => true
  | .vfclass _ _ _ => true
  | .vcmpEq kd _ _ _ => kd != 0
  | .vcmpNe kd _ _ _ => kd != 0
  | .vcmpLt kd _ _ _ => kd != 0
  | .vcmpLe kd _ _ _ => kd != 0
  | .vcmpGt kd _ _ _ => kd != 0
  | .vcmpGe kd _ _ _ => kd != 0
  | .kand kd _ _ => kd != 0
  | .kor kd _ _ => kd != 0
  | .kxor kd _ _ => kd != 0
  | .knot kd _ => kd != 0
  | .kany _ _ => true
  | .kall _ _ => true
  | .kcount _ _ => true
  | .vshup _ _ b _ => b.isShift
  | .vshdn _ _ b _ => b.isShift
  | .vpick _ _ _ _ => true
  | .vcondense _ _ _ => true
  | .vrev _ _ _ => true
  | .vbcast _ _ b _ => b.isCopy
  | .vinsx _ _ b _ => b.isCopy
  | .vextx _ _ _ => true
  | .vredsumO _ _ _ _ => true
  | .vredsum _ _ _ _ => true
  | .vredmax _ _ _ _ => true
  | .vredmin _ _ _ _ => true
  | .vsegredO _ _ _ _ => true
  | .vscanO _ _ _ _ => true
  | .vscan _ _ _ _ => true
  | .vscanmax _ _ _ _ => true
  | .vdot16 _ _ _ _ _ => true
  | .vquant _ _ _ _ => true
  | .vdeq _ _ _ _ => true
  | .vbpack _ _ _ _ => true
  | .vbunpack _ _ _ _ => true
  | .vcvt _ _ _ _ => true
  | .vscore _ _ _ => true
  | .vexpm => true
  | .vaccv _ _ => true
  | .vsegmax _ => true
  | .vsegsum _ ks => ks != 0
  | .vbound _ _ _ _ => true
  | .vtopk _ _ _ _ => true
  | .vrand _ _ _ _ => true
  | .vsamp _ _ _ _ => true
  | .vargmax _ _ _ => true
  | .vspeck _ _ _ _ => true
  | .vld _ _ _ _ => true
  | .vlds _ _ _ _ _ => true
  | .vldx _ _ _ _ _ => true
  | .vldp _ _ _ => true
  | .vldNc _ _ _ => true
  | .vldsNc _ _ _ _ => true
  | .vldxNc _ _ _ _ => true
  | .vst _ _ _ _ => true
  | .vsts _ _ _ _ _ => true
  | .vstx _ _ _ _ _ => true
  | .vstxO _ _ _ _ _ => true
  | .vstxAdd _ _ _ _ _ => true
  | .sqst _ _ _ _ => true
  | .sqld _ kd _ _ => kd != 0
  | .vamoaddC _ _ _ _ _ _ _ _ => true
  | .vamoaddD _ _ _ _ _ _ _ _ => true
  | .vamoaddV _ _ _ _ _ _ _ _ => true
  | .vamoaddX _ _ _ _ _ _ _ _ => true
  | .vamoandC _ _ _ _ _ _ _ _ => true
  | .vamoandD _ _ _ _ _ _ _ _ => true
  | .vamoandV _ _ _ _ _ _ _ _ => true
  | .vamoandX _ _ _ _ _ _ _ _ => true
  | .vamoorC _ _ _ _ _ _ _ _ => true
  | .vamoorD _ _ _ _ _ _ _ _ => true
  | .vamoorV _ _ _ _ _ _ _ _ => true
  | .vamoorX _ _ _ _ _ _ _ _ => true
  | .vamoxorC _ _ _ _ _ _ _ _ => true
  | .vamoxorD _ _ _ _ _ _ _ _ => true
  | .vamoxorV _ _ _ _ _ _ _ _ => true
  | .vamoxorX _ _ _ _ _ _ _ _ => true
  | .vamomaxC _ _ _ _ _ _ _ _ => true
  | .vamomaxD _ _ _ _ _ _ _ _ => true
  | .vamomaxV _ _ _ _ _ _ _ _ => true
  | .vamomaxX _ _ _ _ _ _ _ _ => true
  | .vamominC _ _ _ _ _ _ _ _ => true
  | .vamominD _ _ _ _ _ _ _ _ => true
  | .vamominV _ _ _ _ _ _ _ _ => true
  | .vamominX _ _ _ _ _ _ _ _ => true
  | .vamoswapC _ _ _ _ _ _ _ _ => true
  | .vamoswapD _ _ _ _ _ _ _ _ => true
  | .vamoswapV _ _ _ _ _ _ _ _ => true
  | .vamoswapX _ _ _ _ _ _ _ _ => true
  | .vwaitAll kd _ _ _ _ _ => kd != 0
  | .vwaitAny kd _ _ _ _ _ => kd != 0
  | .mtile _ _ _ => true
  | .mrow _ _ _ _ _ => true
  | .mrowSp _ _ _ _ _ => true
  | .mrowP _ _ _ _ _ => true
  | .mzero _ => true
  | .mread _ _ _ => true
  | .mepi _ _ _ _ => true
  | .mrelease _ => true
  | .cpy _ _ _ _ _ => true
  | .cpyG _ _ _ _ _ => true
  | .cpyX _ _ _ => true
  | .cpySum _ _ _ _ => true
  | .coll _ _ _ => true
  | .sqnew _ _ => true
  | .sqres _ _ _ => true
  | .sqcmt _ _ _ => true
  | .sqabn _ _ _ => true
  | .sqlen _ _ => true
  | .sqlenH _ _ => true
  | .sqfork _ _ _ => true
  | .sqdrop _ => true
  | .launch _ _ => true
  | .join _ _ => true
  | .yield => true
  | .exit => true
  | .mark => true
  | .ahalt => true
  | .await _ => true
  | .aread _ slot => decide (slot.toNat < 12)
  | .ali _ _ => true
  | .aaddi _ _ _ => true
  | .aadd _ _ _ => true
  | .asub _ _ _ => true
  | .aand _ _ _ => true
  | .aor _ _ _ => true
  | .asll _ _ _ => true
  | .asrl _ _ _ => true
  | .amul _ _ _ => true
  | .aslli _ _ _ => true
  | .asrli _ _ _ => true
  | .abeq _ _ _ => true
  | .abne _ _ _ => true
  | .ablt _ _ _ => true
  | .abltu _ _ _ => true
  | .aj _ => true
  | .apf _ _ _ _ => true
  | .apfv _ _ _ _ _ => true
  | .apinPri _ _ => true
  | .apinPin _ _ => true
  | .apinOff _ _ => true
  | .atile _ _ _ _ => true
  | .aprio _ => true
  | .aorder c => decide (c.toNat < 6)
  | .adviceAwaitWake _ => true
  | .advicePinExpire _ => true
  | .queueRoomResume _ => true
  | .laneBlockTaken _ => true
  | .laneHoldTimeout _ => true
  | .laneReclaim _ => true
  | .waitaWake _ => true
  | .waitaTimeout _ => true
  | .vwaitRound _ => true
  | .vwaitTimeout _ => true
  | .wfiWake _ => true
  | .pairTimeout _ => true
  | .interruptTake _ => true
  | .reliabilityQueuedTrap _ _ _ => true
  | .copyCommandComplete _ => true
  | .copyEngineFault _ _ _ => true
  | .compactionMove _ _ _ _ => true
  | .overflowRingReturn _ => true
  | .launchEligible _ => true
  | .waitaddrPoll => true
  | .hartIssue core => decide (core < 256)
  | .dispatchTick core => decide (core < 256)
  | .priorityAging _ => true
  | .hartSave _ _ => true
  | .hartRestore _ => true
  | .hqLaunch q => decide (q < 64)
  | .hqHoldHart q => decide (q < 64)
  | .hqReleaseHart q => decide (q < 64)
  | .hqRetireHandle q => decide (q < 64)
  | .hqMigrateHart q => decide (q < 64)
  | .hqSetOverflowRing q => decide (q < 64)
  | .contextRegisterWriteComplete _ => true
  | .parkedAccessRetranslate _ => true
  | .hashTreeUpdate _ => true
  | .hostWindowRead _ _ _ _ => true
  | .hostWindowWrite _ _ _ _ => true
  | .hostReadTimeout _ _ => true
  | .linkFlitReceive port _ => decide (port < 18)
  | .linkPortDown port => decide (port < 18)
  | .remoteRequestTimeout _ _ _ _ => true
  | .collRankTimeout _ => true
  | .createContext _ _ => true
  | .destroyContext _ _ => true
  | .bindHostQueue _ q _ => decide (q < 64)
  | .setSchedulingQuantum _ _ => true
  | .endLaunch _ _ => true
  | .hashRegionRegister _ _ => true
  | .hashRegionRemove _ _ => true
  | .hashRegionSeal _ _ => true
  | .readErrorLog _ die => decide (die < 4)
  | .clearErrorLog _ die => decide (die < 4)
  | .readTraceBuffer _ hamlet => decide (hamlet < 32)
  | .setPartitionTable _ _ => true
  | .setDomainTable _ _ _ => true
  | .setHostApertures _ _ _ => true
  | .setCollectiveTimeout _ _ => true
  | .setPowerLimit _ _ => true
  | .attestationQuote _ _ => true
  | .mailboxClaim _ => true
  | .handover _ _ => true
  | .heartbeat _ => true
  | .registerKernel _ _ => true
  | .unregisterKernel _ _ _ => true
  | .leaseLapse => true
  | .handoverExpire => true
  | .clockChange hamlet _ _ _ => decide (hamlet < 32)
  | .throttleLevelChange hamlet _ => decide (hamlet < 32)
  | .powerLimitReached _ _ => true
  | .thermalLimitReached hamlet _ => decide (hamlet < 32)
  | .powerBackWithinLimit _ _ => true
  | .powerOnBringUp _ _ => true
  | .hostSnoop _ _ => true
  | .hostRequestError _ _ _ => true
  | .linkPortRetrained port => decide (port < 18)
  | .uncorrectableStorageError _ _ => true
  | .adviceFillComplete _ => true
  | .hardwarePrefetch _ _ _ => true
  | .mailboxMessageToHart _ _ _ => true

end Sys2Proof
end

