-- ==== Sys2Proof/Certificates/Slice0/Obligations.lean ====
section
/-! DEFINITION. The statements about the model: numbered rules of the manual, frames, where each
instruction completes, encodings and invariants. -/

open Sys2Proof Sys2Proof.Machine

namespace Sys2Proof.Claims

/-! ### Shared vocabulary -/

/-- Every byte of memory reads as before. -/
def SameBytes (s t : State) : Prop := ∀ a : Nat, cellGet t.mem a = cellGet s.mem a

/-- Everything but the x registers and the PC is as before: every other register, every flag, every
special register, every accumulator, every core's cache, all of memory. -/
def OnlyXPc (s t : State) : Prop :=
  { t with hart := { t.hart with x := s.hart.x, pc := s.hart.pc } } = s ∧ SameBytes s t

/-- v in x[d], the other x registers as before (x0 reads zero and discards a write). -/
def XWritten (s t : State) (d : Reg) (v : Word) : Prop :=
  ∀ r : Reg, t.x r = if r = 0 then 0 else if r = d then v else s.x r

/-- The instruction writes v to x[d], goes on at PC + 4, and changes nothing else. -/
def GivesX (i : Instr) (s : State) (d : Reg) (v : Word) : Prop :=
  ∃ t, exec i s = .next t ∧ XWritten s t d v ∧ t.hart.pc = s.hart.pc + 4 ∧ OnlyXPc s t

/-- The instruction only sets the PC. -/
def OnlyJumps (i : Instr) (s : State) (pc : Word) : Prop :=
  ∃ t, exec i s = .next t ∧ t.hart.pc = pc ∧
    { t with hart := { t.hart with pc := s.hart.pc } } = s ∧ SameBytes s t

/-- Everything but the f registers, FCSR and the PC is as before. -/
def OnlyFFlagsPc (s t : State) : Prop :=
  { t with hart := { t.hart with
      f := s.hart.f, pc := s.hart.pc
      csr := { t.hart.csr with fcsr := s.hart.csr.fcsr } } } = s ∧ SameBytes s t

/-- v in f[d], the other f registers as before. -/
def FWritten (s t : State) (d : Reg) (v : Word) : Prop :=
  ∀ r : Reg, t.f r = if r = d then v else s.f r

/-- The instruction writes v to f[d], ORs fl into FCSR, goes on at PC + 4, and changes nothing else. -/
def GivesF (i : Instr) (s : State) (d : Reg) (v : Word) (fl : BitVec 8) : Prop :=
  ∃ t, exec i s = .next t ∧ FWritten s t d v ∧ t.hart.csr.fcsr = s.hart.csr.fcsr ||| fl ∧
    t.hart.pc = s.hart.pc + 4 ∧ OnlyFFlagsPc s t

/-- The registers of trap entry (R416): TPC, TCAUSE, TVAL, TSTAT, the level, the interrupt enable and
the PC. -/
def TrapRegsTaken (s t : State) (cause : BitVec 10) (tval tpc : Word) : Prop :=
  t.hart.trap.tcause = cause ∧ t.hart.trap.tval = tval ∧
  t.hart.trap.tpc.setWidth 64 <<< 2 = tpc &&& ~~~3 ∧
  t.hart.trap.ppriv = s.hart.trap.priv ∧ t.hart.trap.pie = s.hart.trap.ie ∧
  t.hart.trap.priv = true ∧ t.hart.trap.ie = false ∧
  t.hart.trap.tvec = s.hart.trap.tvec ∧ t.hart.trap.vectored = s.hart.trap.vectored ∧
  t.hart.trap.tscratch = s.hart.trap.tscratch ∧ t.hart.trap.ctxid = s.hart.trap.ctxid ∧
  t.hart.pc = (s.hart.trap.tvec.setWidth 64 <<< 2) +
    (if s.hart.trap.vectored then BitVec.ofNat 64 (256 * (cause.toNat / 64)) else 0)

/-- No operand register of the hart has changed. -/
def SameRegs (s t : State) : Prop :=
  (∀ r : Reg, t.x r = s.x r) ∧ t.hart.f = s.hart.f ∧ t.hart.k = s.hart.k ∧ t.hart.v = s.hart.v ∧
  t.hart.sq = s.hart.sq ∧ t.hart.csr = s.hart.csr ∧ t.hart.acc = s.hart.acc ∧ t.hart.scr = s.hart.scr

/-- The instruction takes a trap, as R416 says, and changes no operand register; where the cause does not report
data in error (0x300 is logged and 0x304 fetches again, R431, R432), no cache and no byte either. -/
def Traps (i : Instr) (s : State) (cause : BitVec 10) (tval tpc : Word) : Prop :=
  ∃ t, exec i s = .next t ∧ TrapRegsTaken s t cause tval tpc ∧ SameRegs s t ∧
    (cause ≠ 0x300 → cause ≠ 0x304 → t.cores = s.cores ∧ SameBytes s t)

/-- The instruction stops with itself at the PC, waiting. -/
def WaitsFor (i : Instr) (s : State) (w : Wait) : Prop :=
  ∃ t, exec i s = .next t ∧ t.hart.wait = w ∧
    { t with hart := { t.hart with wait := s.hart.wait, status := s.hart.status, sleepAt := s.hart.sleepAt } } = s ∧
    SameBytes s t

/-- A hart with its lines of L0 put aside. -/
def noL0 (h : Hart) : Hart := { h with l0 := [] }

/-- A hash region with its dirty leaves put aside. -/
def noLeaves (p : Nat × HashRegion) : Nat × HashRegion := (p.1, { p.2 with dirty := [] })

/-- A state with its memory side put aside: memory with L2's tags, its poison, errors and granules, what writes to
other devices replaced, what host memory holds under L2's copies, the dirty leaves of hash regions, the cores' caches,
and every hart's lines of L0. -/
def memApart (s : State) : State :=
  { s with
    hart := noL0 s.hart, others := s.others.map noL0
    mem := [], l2 := [], posted := [], hostMem := [], poison := [], l2Poison := [], broken := [], grain := []
    cores := []
    regions := s.regions.map noLeaves }

/-- Of the cores, nothing but the lines of the hart's own L1. -/
def OnlyOwnL1 (s t : State) : Prop :=
  (∀ c, c ≠ s.hart.core → t.core c = s.core c) ∧
  { t.core s.hart.core with
    l1 := (s.core s.hart.core).l1, gathered := (s.core s.hart.core).gathered } = s.core s.hart.core

/-- The core's L1 takes one more line without an eviction (R11, R78). -/
def RoomInL1 (s : State) (core : Nat) : Prop :=
  (s.core core).l1.length + (s.core core).gathered.length < (8 - (s.core core).split) * 2048

end Sys2Proof.Claims

open Sys2Proof.Claims

/-! ### Encoding -/

/-- Decoding the word of a well-formed instruction gives it back, with every operand at every value its fields
admit (R203, R204, R212 to R222). -/
def Obligations.WordsDecodeBack : Prop :=
  ∀ i : Instr, i.wf = true →
    (i.wordClass = .semantic → decode (encode i) = .ok i) ∧
    (i.wordClass = .advice → decodeAdvice (encode i) = .ok i)

/-- A semantic word that decodes is the word of what it decodes to: no bit is dropped, and each word has one
meaning (R218, R230). -/
def Obligations.DecodedWordsEncodeBack : Prop :=
  ∀ (w : IWord) (i : Instr), decode w = .ok i →
    i.wf = true ∧ i.wordClass = .semantic ∧ encode i = w

/-- Words that the manual writes out decode to the instructions it names (R247, R254, R261, R262, R347, R352);
a word whose major is unallocated, a function value that is, or a nonzero reserved field is refused (R218,
R230). -/
def Obligations.WordsRead : Prop :=
  decode 0x00500182 = .ok (.addi 6 0 80) ∧
  decode 0x002000A9 = .ok (.fence .rel .die) ∧
  decode 0x04030069 = .ok (.fenceP .cpy .scl .core) ∧
  decode 0x88AA30E8 = .ok (.amoadd 6 10 5 true false false .device) ∧
  decode 0x944120EA = .ok (.fma 4 1 2 3 true) ∧
  decode 0x0030012B = .ok (.syscall 3) ∧
  decode 0xE10A6278 = .ok (.cpy 12 10 8 9 28) ∧
  decode 0x1000003B = .ok .mark ∧
  decode 0 = .error .majorUnallocated ∧
  decode 0x64000001 = .error .functionUnallocated ∧
  decode 0x00000041 = .error .reservedField ∧
  decodeAdvice 0x00000000 = .error .unallocated

/-! ### One step -/

/-- Where the agenda names the front end of a running hart, and the bytes at its PC decode to an instruction that
may pass what is outstanding, a step is exec of it (R36): the fetch adds at most a cached translation and the sectors
it brings into L2 (R93), it ends the entry of a handler (R418), and a wait that retries is over. A word refused by the decoder takes the trap 0x000 + major with TVAL the word, and changes no
register (R218, R230, R416). With an empty agenda TIME passes, the units of a core's harts move, and where no queue
entry is ready, the step is exec of the word of the hart that the issue slot goes to (R396; the order of these moves
is the model's, assumption log 1). -/
def Obligations.StepRunsDecodedWord : Prop :=
  (∀ (s t : State) (rest : List Mover) (w : IWord) (i : Instr),
    s.agenda = .front s.hart.uid :: rest → s.hart.status = .running → s.hart.wait.retries = true →
    s.hart.awaits = false → s.hart.interrupted = false →
    (({ s with agenda := rest } : State).setWait .none).fetch = .ok (w, t) → t.entered.passes w = true →
    decode w = .ok i →
    step s = exec i t.entered ∧
      { t.entered with
        agenda := s.agenda, l2 := s.l2, poison := s.poison, l2Poison := s.l2Poison, broken := s.broken
        hart := { t.entered.hart with tlb := s.hart.tlb, wait := s.hart.wait, entry := s.hart.entry } } = s) ∧
  (∀ (s t : State) (rest : List Mover) (w : IWord) (e : DecodeError),
    s.agenda = .front s.hart.uid :: rest → s.hart.status = .running → s.hart.wait.retries = true →
    s.hart.awaits = false → s.hart.interrupted = false →
    (({ s with agenda := rest } : State).setWait .none).fetch = .ok (w, t) → t.entered.passes w = true →
    decode w = .error e →
    ∃ u, step s = .next u ∧
      TrapRegsTaken t u (BitVec.ofNat 10 (w.toNat % 64)) (w.setWidth 64) t.hart.pc ∧ SameRegs t u) ∧
  (∀ (s u v t : State) (c : Nat) (rest : List Nat) (h : Hart) (w : IWord) (i : Instr),
    s.agenda = [] → s.boot = .done → s.coresInTurn = c :: rest →
    ((s.inTurn c).map (·.uid)).foldl (fun o x => andThen o (unitsStep x)) (.next (s.pass 1)) = .next u →
    (∀ g ∈ u.inTurn c, g.nextEntry = none) → u.issuer c = some h → u.focus h.uid = some v →
    v.hart.interrupted = false → v.hart.status = .running → v.hart.wait.retries = true → v.hart.awaits = false →
    ((v.tookTurn h).setWait .none).fetch = .ok (w, t) → t.entered.passes w = true → decode w = .ok i →
    step s = exec i t.entered)

/-- A running advice context whose word decodes runs that advice instruction (R198): the fetch adds at most a
cached translation and the sectors it brings into L2 (R93). A word that is refused stops its context with its reason, and nothing else of the hart
changes: advice cannot trap (R205). -/
def Obligations.AdviceSteps : Prop :=
  (∀ (s t : State) (rest : List Mover) (w : IWord) (i : Instr),
    s.agenda = .advice s.hart.uid :: rest → s.hart.adv.st = .running → s.hart.inSlot = true →
    ({ s with agenda := rest } : State).fetchAdvice = some (w, t) → decodeAdvice w = .ok i →
    step s = exec i t ∧
      { t with
        agenda := s.agenda, l2 := s.l2, poison := s.poison, l2Poison := s.l2Poison, broken := s.broken
        hart := { t.hart with tlb := s.hart.tlb } } = s) ∧
  (∀ (s t : State) (rest : List Mover) (w : IWord) (e : AdviceError),
    s.agenda = .advice s.hart.uid :: rest → s.hart.adv.st = .running → s.hart.inSlot = true →
    ({ s with agenda := rest } : State).fetchAdvice = some (w, t) → decodeAdvice w = .error e →
    ∃ u, step s = .next u ∧ u.hart.adv.st = .stopped ∧ u.hart.adv.stop = BitVec.ofNat 4 e.stop ∧
      { u with hart := { u.hart with adv := t.hart.adv } } = t)

/-! ### Scalar integer instructions -/

/-- The results of the INT major with two sources (R237, R238), 64 bits, no flag, no trap, x0 discarding a
write; and of the immediate majors (R239), imm16 sign-extended or zero-extended as each says. -/
def Obligations.IntegerResults : Prop :=
  (∀ (s : State) (d a b : Reg),
    GivesX (.add d a b) s d (s.x a + s.x b) ∧
    GivesX (.sub d a b) s d (s.x a - s.x b) ∧
    GivesX (.and d a b) s d (s.x a &&& s.x b) ∧
    GivesX (.or d a b) s d (s.x a ||| s.x b) ∧
    GivesX (.xor d a b) s d (s.x a ^^^ s.x b) ∧
    GivesX (.sll d a b) s d (BitVec.ofNat 64 ((s.x a).toNat * 2 ^ ((s.x b).toNat % 64))) ∧
    GivesX (.srl d a b) s d (BitVec.ofNat 64 ((s.x a).toNat / 2 ^ ((s.x b).toNat % 64))) ∧
    GivesX (.sra d a b) s d (BitVec.ofInt 64 ((s.x a).toInt / 2 ^ ((s.x b).toNat % 64))) ∧
    GivesX (.slt d a b) s d (if (s.x a).toInt < (s.x b).toInt then 1 else 0) ∧
    GivesX (.sltu d a b) s d (if (s.x a).toNat < (s.x b).toNat then 1 else 0) ∧
    GivesX (.mul d a b) s d (BitVec.ofNat 64 ((s.x a).toNat * (s.x b).toNat)) ∧
    GivesX (.mulh d a b) s d (BitVec.ofInt 64 ((s.x a).toInt * (s.x b).toInt / 2 ^ 64)) ∧
    GivesX (.mulhu d a b) s d (BitVec.ofNat 64 ((s.x a).toNat * (s.x b).toNat / 2 ^ 64)) ∧
    GivesX (.min d a b) s d (if (s.x b).toInt < (s.x a).toInt then s.x b else s.x a) ∧
    GivesX (.max d a b) s d (if (s.x a).toInt < (s.x b).toInt then s.x b else s.x a) ∧
    GivesX (.minu d a b) s d (if (s.x b).toNat < (s.x a).toNat then s.x b else s.x a) ∧
    GivesX (.maxu d a b) s d (if (s.x a).toNat < (s.x b).toNat then s.x b else s.x a)) ∧
  (∀ (s : State) (d a : Reg) (c : BitVec 16) (h : BitVec 6),
    GivesX (.addi d a c) s d (s.x a + BitVec.ofInt 64 c.toInt) ∧
    GivesX (.andi d a c) s d (s.x a &&& BitVec.ofNat 64 c.toNat) ∧
    GivesX (.ori d a c) s d (s.x a ||| BitVec.ofNat 64 c.toNat) ∧
    GivesX (.xori d a c) s d (s.x a ^^^ BitVec.ofNat 64 c.toNat) ∧
    GivesX (.slti d a c) s d (if (s.x a).toInt < c.toInt then 1 else 0) ∧
    GivesX (.sltiu d a c) s d (if (s.x a).toNat < c.toNat then 1 else 0) ∧
    GivesX (.lui d c) s d (BitVec.ofNat 64 (c.toNat * 65536)) ∧
    GivesX (.slli d a h) s d (BitVec.ofNat 64 ((s.x a).toNat * 2 ^ h.toNat)) ∧
    GivesX (.srli d a h) s d (BitVec.ofNat 64 ((s.x a).toNat / 2 ^ h.toNat)) ∧
    GivesX (.srai d a h) s d (BitVec.ofInt 64 ((s.x a).toInt / 2 ^ h.toNat)))

/-- Division rounds toward zero, its remainder takes the dividend's sign, and its corner cases give values and
no trap (R237, R238). Counts of leading zeros, trailing zeros and set bits, 64 for the zeros of 0 (R237). -/
def Obligations.DivisionAndCounts : Prop :=
  (∀ (s : State) (d a b : Reg),
    GivesX (.div d a b) s d
      (if s.x b = 0 then 0xFFFFFFFFFFFFFFFF else BitVec.ofInt 64 ((s.x a).toInt.tdiv (s.x b).toInt)) ∧
    GivesX (.divu d a b) s d
      (if s.x b = 0 then 0xFFFFFFFFFFFFFFFF else BitVec.ofNat 64 ((s.x a).toNat / (s.x b).toNat)) ∧
    GivesX (.rem d a b) s d
      (if s.x b = 0 then s.x a else BitVec.ofInt 64 ((s.x a).toInt.tmod (s.x b).toInt)) ∧
    GivesX (.remu d a b) s d
      (if s.x b = 0 then s.x a else BitVec.ofNat 64 ((s.x a).toNat % (s.x b).toNat)) ∧
    (s.x a = 0x8000000000000000 → s.x b = 0xFFFFFFFFFFFFFFFF →
      GivesX (.div d a b) s d 0x8000000000000000 ∧ GivesX (.rem d a b) s d 0)) ∧
  (∀ (s : State) (d a : Reg),
    (∃ n : Nat, GivesX (.clz d a) s d (BitVec.ofNat 64 n) ∧ n ≤ 64 ∧
      (s.x a).toNat < 2 ^ (64 - n) ∧ (n < 64 → 2 ^ (63 - n) ≤ (s.x a).toNat)) ∧
    (∃ n : Nat, GivesX (.ctz d a) s d (BitVec.ofNat 64 n) ∧ n ≤ 64 ∧
      (s.x a).toNat % 2 ^ n = 0 ∧ (n < 64 → (s.x a).getLsbD n = true)) ∧
    GivesX (.popc d a) s d (BitVec.ofNat 64 ((List.range 64).countP fun i => (s.x a).getLsbD i)))

/-! ### Control transfer -/

/-- A branch goes to PC + 4 × sext(off16) when its comparison holds, else to PC + 4, and changes nothing else
(R240). j, jal and jalr (R241): the link register receives PC + 4, jalr reads its target first, and a
misaligned target traps with 0x0C2. -/
def Obligations.ControlTransfers : Prop :=
  (∀ (s : State) (a b : Reg) (off : BitVec 16),
    let go (c : Prop) [Decidable c] : Word :=
      if c then s.hart.pc + BitVec.ofInt 64 (4 * off.toInt) else s.hart.pc + 4
    OnlyJumps (.beq a b off) s (go (s.x a = s.x b)) ∧
    OnlyJumps (.bne a b off) s (go (s.x a ≠ s.x b)) ∧
    OnlyJumps (.blt a b off) s (go ((s.x a).toInt < (s.x b).toInt)) ∧
    OnlyJumps (.bge a b off) s (go ((s.x b).toInt ≤ (s.x a).toInt)) ∧
    OnlyJumps (.bltu a b off) s (go ((s.x a).toNat < (s.x b).toNat)) ∧
    OnlyJumps (.bgeu a b off) s (go ((s.x b).toNat ≤ (s.x a).toNat))) ∧
  (∀ (s : State) (d a : Reg) (off : BitVec 26),
    OnlyJumps (.j off) s (s.hart.pc + BitVec.ofInt 64 (4 * off.toInt)) ∧
    (∃ t, exec (.jal off) s = .next t ∧ XWritten s t 1 (s.hart.pc + 4) ∧
      t.hart.pc = s.hart.pc + BitVec.ofInt 64 (4 * off.toInt) ∧ OnlyXPc s t) ∧
    ((s.x a).toNat % 4 = 0 →
      ∃ t, exec (.jalr d a) s = .next t ∧ XWritten s t d (s.hart.pc + 4) ∧ t.hart.pc = s.x a ∧
        OnlyXPc s t) ∧
    ((s.x a).toNat % 4 ≠ 0 → Traps (.jalr d a) s 0x0C2 (s.x a) s.hart.pc))


/-! ### Traps, returns and the supervisor's instructions -/

namespace Sys2Proof.Claims

/-- Each byte of memory is as before, or is the dirty byte that a core's L1 held for it. -/
def WrittenBack (s t : State) (core : Nat) : Prop :=
  ∀ a : Nat, cellGet t.mem a = cellGet s.mem a ∨
    ∃ l, tget (s.core core).l1 (a / 256) = some l ∧ l.dirty.getLsbD (a % 256) = true ∧
      cellGet t.mem a = l.byte (a % 256)

/-- No byte of a core's L1 is dirty. -/
def NothingDirty (t : State) (core : Nat) : Prop :=
  ∀ n l, tget (t.core core).l1 n = some l → l.dirty = 0

/-- A store, a scatter, an atomic or an mepi stands in the hart's queues, in front of no reliability trap. -/
def StoresQueued (s : State) : Prop := ∃ e ∈ s.hart.queue, e.writes = true ∧ e.rhold = false

/-- No hart of the core has a store that has translated and not performed. -/
def NothingDelayed (s : State) : Prop := ∀ h ∈ s.harts, h.core = s.hart.core → h.pending = []

end Sys2Proof.Claims

/-- syscall n and break n trap after they complete: TPC holds the next instruction (R261, R416); a nonzero
csr12[11:6] is refused. tret goes to
TPC and restores the level and the interrupt enable (R262, R369); wfi goes on once an interrupt is pending; at
the kernel level both raise 0x182 with the word (R259). -/
def Obligations.TrapsAndReturn : Prop :=
  (∀ (s : State) (n : BitVec 6),
    Traps (.syscall n) s (BitVec.ofNat 10 (0x340 + n.toNat)) 0 (s.hart.pc + 4) ∧
    Traps (.brk n) s 0x380 (n.setWidth 64) (s.hart.pc + 4)) ∧
  (∀ w : IWord, w.toNat % 64 = 0x2B → w.toNat / 64 % 16 = 4 ∨ w.toNat / 64 % 16 = 5 → w.toNat / 2 ^ 26 ≠ 0 →
    ∃ e, decode w = .error e) ∧
  encode (.syscall 3) = 0x0030012B ∧
  (∀ s : State,
    (s.hart.trap.priv = true →
      (∃ t, exec .tret s = .next t ∧ t.hart.pc = s.hart.trap.tpc.setWidth 64 <<< 2 ∧
        t.hart.trap.priv = s.hart.trap.ppriv ∧ t.hart.trap.ie = s.hart.trap.pie ∧
        (∀ e ∈ t.hart.queue, e.rhold = false) ∧
        { t with hart := { t.hart with
            pc := s.hart.pc, queue := s.hart.queue
            trap := { t.hart.trap with priv := s.hart.trap.priv, ie := s.hart.trap.ie } } } = s ∧
        SameBytes s t) ∧
      ((s.hart.irqSoft ≠ none ∨ s.hart.irqMail ≠ none) → OnlyJumps .wfi s (s.hart.pc + 4))) ∧
    (s.hart.trap.priv = false →
      Traps .tret s 0x182 ((encode .tret).setWidth 64) s.hart.pc ∧
      Traps .wfi s 0x182 ((encode .wfi).setWidth 64) s.hart.pc))

/-- Earlier stores still in the queues, but for those that a reliability trap holds, keep a translation fence waiting
at its PC, and what the hart has translated performs before the fence completes (R262, R406).
tfence.s writes the core's stores back, and then discards the scalar translations that any hart of the
core holds for CTXID: those that cover x[a], or all when a is x0 (R262). tfence.v writes the core's stores
back, and then re-reads from memory the entry of the vector translation table that covers x[a], or the whole
table when a is x0 (R262, R407); an uncorrectable entry is R431's. -/
def Obligations.TranslationFences : Prop :=
  (∀ (s : State) (a : Reg), s.hart.trap.priv = true →
    (StoresQueued s → WaitsFor (.tfenceS a) s .held ∧ WaitsFor (.tfenceV a) s .held) ∧
    (¬ StoresQueued s → (∀ g ∈ s.others, g.uid ≠ s.hart.uid) →
      ∃ t, exec (.tfenceS a) s = .next t ∧ t.hart.pc = s.hart.pc + 4 ∧ SameRegs s t ∧ t.hart.queue = s.hart.queue ∧
        t.hart.pending = [])) ∧
  (∀ (s : State) (a : Reg), s.hart.trap.priv = true → ¬ StoresQueued s → NothingDelayed s → Canonical s →
    ∃ t, exec (.tfenceS a) s = .next t ∧ t.hart.pc = s.hart.pc + 4 ∧ SameRegs s t ∧
      t.hart.trap = s.hart.trap ∧ t.hart.queue = s.hart.queue ∧ t.hart.ibuf = [] ∧
      WrittenBack s t s.hart.core ∧ NothingDirty t s.hart.core ∧ OnlyOwnL1 s t ∧
      (∀ h ∈ t.harts, h.core = s.hart.core → ∀ e ∈ h.tlb,
        ¬ (e.ctx = s.hart.trap.ctxid ∧ (a = 0 ∨ e.va ≤ (s.x a).toNat ∧ (s.x a).toNat < e.va + e.size))) ∧
      (∀ e ∈ s.hart.tlb,
        ¬ (e.ctx = s.hart.trap.ctxid ∧ (a = 0 ∨ e.va ≤ (s.x a).toNat ∧ (s.x a).toNat < e.va + e.size)) →
        e ∈ t.hart.tlb)) ∧
  (∀ (s : State) (a : Reg), s.hart.trap.priv = true → ¬ StoresQueued s → NothingDelayed s → Canonical s →
    s.poison = [] →
    (∀ n l, tget (s.core s.hart.core).l1 n = some l → l.poison = 0) →
    let window := s.myCtx.vwbase.toNat * 2 ^ 40
    let reread (o : Nat) : Prop := a = 0 ∨
      (window ≤ (s.x a).toNat ∧ (s.x a).toNat < window + 2 ^ 40 ∧ o / 8 = ((s.x a).toNat - window) / 2 ^ 26)
    ∃ t, exec (.tfenceV a) s = .next t ∧ t.hart.pc = s.hart.pc + 4 ∧ SameRegs s t ∧
      t.hart.trap = s.hart.trap ∧ t.hart.queue = s.hart.queue ∧
      WrittenBack s t s.hart.core ∧ NothingDirty t s.hart.core ∧
      (a = 0 → (t.core s.hart.core).vttCtx = some s.hart.ctx) ∧
      (∀ o : Nat, o < 131072 →
        (reread o → cellGet (t.core s.hart.core).vtt o = cellGet t.mem (s.myCtx.vttb.toNat * 2 ^ 17 + o)) ∧
        (¬ reread o → cellGet (t.core s.hart.core).vtt o = cellGet (s.core s.hart.core).vtt o)))

/-! ### Control and status registers -/

namespace Sys2Proof.Claims

/-- A flag's bit. -/
def flagAt (b : Bool) (n : Nat) : Word := if b then BitVec.ofNat 64 (2 ^ n) else 0

/-- The user-level registers that cread returns at once, with their layouts (R229, R258). -/
def userReads (s : State) : List (BitVec 12 × Word) :=
  [(0x000, s.hart.csr.vl.setWidth 64), (0x001, s.hart.csr.vt.setWidth 64),
   (0x003, BitVec.ofNat 64 (if s.hart.holds then s.hart.grant.lanes else 0)),
   (0x004, s.hart.csr.valloc.setWidth 64),
   (0x007, s.hart.csr.check.setWidth 64 + flagAt s.hart.csr.det 2),
   (0x008, s.hart.csr.pmark.setWidth 64), (0x009, s.hart.csr.alead.setWidth 64),
   (0x00A, s.hart.csr.loopn.get 0), (0x00B, s.hart.csr.loopn.get 1),
   (0x00C, s.hart.csr.loopn.get 2), (0x00D, s.hart.csr.loopn.get 3),
   (0x00E, BitVec.ofNat 64 (4 * s.hart.core + s.hart.slot)), (0x00F, s.hart.csr.cycle), (0x010, s.time),
   (0x011, s.hart.csr.stallv), (0x012, s.hart.csr.stallm), (0x013, s.hart.csr.stallc),
   (0x014, s.hart.csr.pairto.setWidth 64)]

/-- Those that wait for the queues to drain (R257). -/
def drainedReads (s : State) : List (BitVec 12 × Word) :=
  [(0x002, s.hart.csr.vstart.setWidth 64), (0x005, s.hart.csr.efr.setWidth 64),
   (0x006, s.hart.csr.fcsr.setWidth 64)]

/-- The supervisor registers with their layouts (R370, R372, R374 to R376). -/
def supervisorReads (s : State) : List (BitVec 12 × Word) :=
  let t := s.hart.trap
  let k := s.myCtx
  [(0x800, flagAt t.priv 0 + flagAt t.ie 2), (0x801, t.tvec.setWidth 64 <<< 2 + flagAt t.vectored 0),
   (0x802, t.tcause.setWidth 64), (0x803, t.tval), (0x804, t.tpc.setWidth 64 <<< 2),
   (0x805, flagAt t.ppriv 0 + flagAt t.pie 1 + flagAt t.vpart 2), (0x806, t.tscratch),
   (0x807, k.vlcap.setWidth 64), (0x809, flagAt k.sttbEn 63 + k.sttb.setWidth 64 <<< 12),
   (0x80A, flagAt k.vttbEn 63 + k.vttb.setWidth 64 <<< 17), (0x80B, k.vwbase.setWidth 64 <<< 40),
   (0x80C, t.ctxid.setWidth 64), (0x80D, k.seed), (0x80E, s.hart.dirtyv.setWidth 64),
   (0x80F, flagAt k.notifyEn 63 + k.notify.setWidth 64 <<< 12 + k.notLog.setWidth 64),
   (0x810, k.nhead.setWidth 64), (0x811, k.lost.setWidth 64 <<< 32 + k.ntail.setWidth 64),
   (0x812, flagAt k.arenaEn 63 + k.arena.setWidth 64 <<< 12 + k.arenaLog.setWidth 64),
   (0x813, k.poolCnt.setWidth 64 <<< 52 + k.pool.setWidth 64 <<< 12), (0x815, k.abrefuse),
   (0x816, k.hlbase.setWidth 64 <<< 16)]

/-- User-level registers (R67, R84, R192): number, what a write makes it read as, and the state with that
register written and nothing else. -/
def userWrites (s : State) : List (BitVec 12 × (Word → Word) × (Word → State)) :=
  [(0x004, fun v => v &&& 0xFFFFFFFF, fun v => s.setCsr { s.hart.csr with valloc := v.setWidth 32 }),
   (0x009, fun v => v &&& 0xFFFF, fun v => s.setCsr { s.hart.csr with alead := v.setWidth 16 }),
   (0x014, fun v => if (v &&& 0xFFFFF).toNat < 256 then 256 else v &&& 0xFFFFF, fun v =>
     s.setCsr { s.hart.csr with pairto := if (v &&& 0xFFFFF).toNat < 256 then 256 else v.setWidth 20 })]

/-- The same for the registers that wait for the queues (R156, R157, R258). -/
def drainedWrites (s : State) : List (BitVec 12 × (Word → Word) × (Word → State)) :=
  [(0x002, fun v => v &&& 0x1FFFF, fun v => s.setCsr { s.hart.csr with vstart := v.setWidth 17 }),
   (0x005, fun v => v &&& 0xFFFFFFFF, fun v => s.setCsr { s.hart.csr with efr := v.setWidth 32 }),
   (0x006, fun v => if (v >>> 5 &&& 7).toNat ≤ 4 then v &&& 0xFF else v &&& 0x1F, fun v =>
     s.setCsr { s.hart.csr with
       fcsr := if (v >>> 5 &&& 7).toNat ≤ 4 then v.setWidth 8 else (v &&& 0x1F).setWidth 8 })]

/-- The same for a hart's supervisor registers (R372, R374, R375). -/
def supervisorWrites (s : State) : List (BitVec 12 × (Word → Word) × (Word → State)) :=
  let t := s.hart.trap
  [(0x800, fun v => flagAt t.priv 0 + (v &&& 4), fun v => s.setTrap { t with ie := v.getLsbD 2 }),
   (0x801, fun v => (v &&& ~~~3) + (if v &&& 3 = 1 then 1 else 0), fun v =>
     s.setTrap { t with tvec := (v >>> 2).setWidth 62, vectored := v &&& 3 == 1 }),
   (0x802, fun v => v &&& 0x3FF, fun v => s.setTrap { t with tcause := v.setWidth 10 }),
   (0x803, fun v => v, fun v => s.setTrap { t with tval := v }),
   (0x804, fun v => v &&& ~~~3, fun v => s.setTrap { t with tpc := (v >>> 2).setWidth 62 }),
   (0x805, fun v => v &&& 7, fun v =>
     s.setTrap { t with ppriv := v.getLsbD 0, pie := v.getLsbD 1, vpart := v.getLsbD 2 }),
   (0x806, fun v => v, fun v => s.setTrap { t with tscratch := v }),
   (0x80C, fun v => v &&& 0xFFFF, fun v => s.setTrap { t with ctxid := v.setWidth 16 }),
   (0x80E, fun v => v &&& 0x7FFFFFFFFFF, fun v =>
     { s with hart := { s.hart with dirtyv := v.setWidth 43 } })]

/-- A register write: nothing but that register and the PC changes, and the number then reads as the
stored value. -/
def WritesCsr (i : Instr) (s t : State) (n : BitVec 12) (v : Word) : Prop :=
  exec i s = .next t.advance ∧ t.advance.csrRead n = v

/-- cwrite, cbset and cbclr of one register: old with bits set or cleared, as a write stores it; with
a = x0 cbset and cbclr write nothing. -/
def CsrForms (s : State) (n : BitVec 12) (store : Word → Word) (after : Word → State) : Prop :=
  ∀ a : Reg,
    let set := s.csrRead n ||| s.x a
    let clr := s.csrRead n &&& ~~~ s.x a
    WritesCsr (.cwrite n a) s (after (s.x a)) n (store (s.x a)) ∧
    (a ≠ 0 → WritesCsr (.cbset n a) s (after set) n (store set) ∧
      WritesCsr (.cbclr n a) s (after clr) n (store clr)) ∧
    exec (.cbset n 0) s = .next s.advance ∧ exec (.cbclr n 0) s = .next s.advance

/-- The writable context registers (R229, R371). -/
def contextRegs : List (BitVec 12) := [0x807, 0x809, 0x80A, 0x80B, 0x80D, 0x80F, 0x810, 0x812, 0x813, 0x816]

/-- The three forms that write. -/
def csrWriters (n : BitVec 12) (a : Reg) : List Instr := [.cwrite n a, .cbset n a, .cbclr n a]

end Sys2Proof.Claims

/-- cwrite, cbset and cbclr store what each register's fields allow, and change no other register (R84, R156,
R157, R192, R256, R257, R372). HMODE takes a value that leaves DET as it is, and a write that would change it raises
0x180. A write of a context register waits with the bits that it keeps of the old value and those that it sets until
it stands at every hart (R371); cbset and cbclr with a = x0 write none. -/
def Obligations.CsrWrites : Prop :=
  ∀ s : State,
    (∀ p ∈ userWrites s, CsrForms s p.1 p.2.1 p.2.2) ∧
    (s.hart.queue = [] → ∀ p ∈ drainedWrites s, CsrForms s p.1 p.2.1 p.2.2) ∧
    (s.hart.trap.priv = true → ∀ p ∈ supervisorWrites s, CsrForms s p.1 p.2.1 p.2.2) ∧
    (∀ a : Reg,
      let old := s.csrRead 0x007
      let new (v : Word) : Word := (if v &&& 3 = 3 then 2 else v &&& 3) + flagAt s.hart.csr.det 2
      let after (v : Word) : State :=
        s.setCsr { s.hart.csr with check := if v &&& 3 = 3 then 2 else v.setWidth 2 }
      ((s.x a).getLsbD 2 = s.hart.csr.det →
        WritesCsr (.cwrite 0x007 a) s (after (s.x a)) 0x007 (new (s.x a))) ∧
      (a ≠ 0 → ((s.x a).getLsbD 2 = true → s.hart.csr.det = true) →
        WritesCsr (.cbset 0x007 a) s (after (old ||| s.x a)) 0x007 (new (old ||| s.x a))) ∧
      (a ≠ 0 → ((s.x a).getLsbD 2 = true → s.hart.csr.det = false) →
        WritesCsr (.cbclr 0x007 a) s (after (old &&& ~~~ s.x a)) 0x007 (new (old &&& ~~~ s.x a))) ∧
      ((s.x a).getLsbD 2 ≠ s.hart.csr.det →
        Traps (.cwrite 0x007 a) s 0x180 ((encode (.cwrite 0x007 a)).setWidth 64) s.hart.pc) ∧
      ((s.x a).getLsbD 2 = true →
        (s.hart.csr.det = false → Traps (.cbset 0x007 a) s 0x180 ((encode (.cbset 0x007 a)).setWidth 64) s.hart.pc) ∧
        (s.hart.csr.det = true → Traps (.cbclr 0x007 a) s 0x180 ((encode (.cbclr 0x007 a)).setWidth 64) s.hart.pc))) ∧
    (s.hart.trap.priv = true → ∀ n ∈ contextRegs, ∀ a : Reg,
      WaitsFor (.cwrite n a) s (.ctxWrite n 0 (s.x a)) ∧
      (a ≠ 0 → WaitsFor (.cbset n a) s (.ctxWrite n 0xFFFFFFFFFFFFFFFF (s.x a)) ∧
        WaitsFor (.cbclr n a) s (.ctxWrite n (~~~ s.x a) 0)) ∧
      exec (.cbset n 0) s = .next s.advance ∧ exec (.cbclr n 0) s = .next s.advance)

/-- cread returns each register in the manual's layout (R199, R229, R256 to R258, R370 to R376): VSTART, EFR
and FCSR once the queues are empty, the supervisor's at its level. Privilege and allocation (R229, R230, R256,
R259, R370): a privileged number at the kernel level raises 0x181, an unallocated one 0x02B, and a write of a
read-only register 0x180, each with the word. -/
def Obligations.CsrAccess : Prop :=
  (∀ (s : State) (d : Reg),
    (∀ p ∈ userReads s, GivesX (.cread d p.1) s d p.2) ∧
    (s.hart.queue = [] → ∀ p ∈ drainedReads s, GivesX (.cread d p.1) s d p.2) ∧
    (s.hart.trap.priv = true → ∀ p ∈ supervisorReads s, GivesX (.cread d p.1) s d p.2) ∧
    (∃ v : Word, GivesX (.cread d 0x015) s d v ∧ v.toNat % 8 = s.hart.adv.st.code ∧
      v.getLsbD 3 = s.hart.adv.refused ∧ v.extractLsb' 4 4 = s.hart.adv.stop ∧
      v.extractLsb' 16 16 = s.hart.adv.drops ∧ v.extractLsb' 32 16 = s.hart.adv.dropx ∧
      v.extractLsb' 48 16 = s.hart.adv.dropq) ∧
    (s.hart.trap.priv = true →
      GivesX (.cread d 0x808) s d (BitVec.ofNat 64 s.lpart) ∧
      ∀ i : Nat, s.hart.saveIdx = some i →
        GivesX (.cread d 0x814) s d (BitVec.ofNat 64 (s.myCtx.pool.toNat * 4096 + 0xC4000 * i)))) ∧
  (∀ (s : State) (n : BitVec 12) (a d : Reg),
    (0x800 ≤ n.toNat → s.hart.trap.priv = false →
      ∀ i ∈ Instr.cread d n :: csrWriters n a, Traps i s 0x181 ((encode i).setWidth 64) s.hart.pc) ∧
    (((0x016 ≤ n.toNat ∧ n.toNat < 0x800) ∨ (0x817 ≤ n.toNat ∧ s.hart.trap.priv = true)) →
      ∀ i ∈ Instr.cread d n :: csrWriters n a, Traps i s 0x02B ((encode i).setWidth 64) s.hart.pc) ∧
    (a ≠ 0 → (n ∈ [0x000, 0x001, 0x003, 0x008, 0x00A, 0x00B, 0x00C, 0x00D, 0x00E, 0x00F, 0x010, 0x011,
        0x012, 0x013, 0x015] ∨ (s.hart.trap.priv = true ∧ n ∈ [0x808, 0x811, 0x814, 0x815])) →
      ∀ i ∈ csrWriters n a, Traps i s 0x180 ((encode i).setWidth 64) s.hart.pc))

/-! ### Scalar memory -/

namespace Sys2Proof.Claims

/-- The little-endian value of n bytes (R1). -/
def le (f : Nat → Byte) : Nat → Nat
  | 0 => 0
  | n + 1 => le f n + (f n).toNat * 256 ^ n

/-- An n-byte value sign-extended to 64 bits (R242). -/
def sx (n v : Nat) : Word :=
  BitVec.ofInt 64 (if v < 2 ^ (8 * n - 1) then (v : Int) else (v : Int) - 2 ^ (8 * n))

/-- Byte i of a value (R1). -/
def byteOf (v : Word) (i : Nat) : Byte := BitVec.ofNat 8 (v.toNat / 256 ^ i)

/-- The address of a scalar load or store (R242). -/
def ea (s : State) (a : Reg) (c : BitVec 16) : Word := s.x a + BitVec.ofInt 64 c.toInt

/-- An address names the byte at an offset of the local window, and n bytes from it lie in the declared
scratchpad (R87). -/
def InScratch (s : State) (va : Word) (n off : Nat) : Prop :=
  va.toNat = 0xFFFFFFFFFFC00000 + off ∧ off + n ≤ s.hart.bounds.scratch

/-- The scalar loads with their sizes, whether they write f[d], and whether they read at L2 (R242). -/
def loads (d a : Reg) (c : BitVec 16) : List (Instr × Nat × Bool × Bool) :=
  [(.ldB d a c, 1, false, false), (.ldH d a c, 2, false, false), (.ldW d a c, 4, false, false),
   (.ldD d a c, 8, false, false), (.ldWNc d a c, 4, false, true), (.ldDNc d a c, 8, false, true),
   (.fldS d a c, 4, true, false), (.fldD d a c, 8, true, false)]

/-- The scalar stores with their sizes and the values they store (R242). -/
def stores (s : State) (d a : Reg) (c : BitVec 16) : List (Instr × Nat × Word) :=
  [(.stB d a c, 1, s.x d), (.stH d a c, 2, s.x d), (.stW d a c, 4, s.x d), (.stD d a c, 8, s.x d),
   (.fstS d a c, 4, s.f d), (.fstD d a c, 8, s.f d)]

/-- A loaded value is in its register, and the other operand registers are as before. -/
def Loaded (s t : State) (d : Reg) (isF : Bool) (n v : Nat) : Prop :=
  if isF then FWritten s t d (BitVec.ofNat 64 v) ∧ ∀ r, t.x r = s.x r
  else XWritten s t d (sx n v) ∧ t.hart.f = s.hart.f

/-- Everything but the x and f registers, the PC, the cached translations, the hart's own L1 and L0, and the memory
that an eviction writes back, is as before. -/
def OnlyLoad (s t : State) : Prop :=
  memApart { t with hart := { t.hart with
    x := s.hart.x, f := s.hart.f, pc := s.hart.pc, tlb := s.hart.tlb } } = memApart s ∧ OnlyOwnL1 s t

/-- Nothing poisons the line of n bytes at a physical address or is wrong with it, and the bytes were last written
under the page's granule (R99, R101, R431). -/
def Clear (s : State) (p : Xlat) (n : Nat) : Prop :=
  (∀ k, k / 8 = p.pa / 256 → s.poison.contains k = false ∧ s.broken.contains k = false) ∧
  ∀ i, i < n → isHbm (p.pa + i) = true → tget s.grain (p.pa + i) = if p.gran = 3 then none else some p.gran

/-- A byte as memory gives it to an access: under CACHE 2 of a host window L2 keeps no copy, so a clean copy that differs
from the host's memory gives way to it (R411, R442). -/
def memoryByte (s : State) (p : Xlat) (a : Nat) : Byte :=
  let dirty := match tget s.l2 (a / 256) with
    | some l => l.dirty.getLsbD (a % 256 / 32)
    | none => false
  if p.cache = 2 ∧ isHost p.pa = true ∧ dirty = false then (tget s.hostMem a).getD (cellGet s.mem a)
  else cellGet s.mem a

/-- The access leaves no copy of L2 that differs from the host's memory to give way (R442). -/
def NoStaleCopy (s : State) (p : Xlat) : Prop := p.cache = 2 → s.hostMem = []

/-- Byte o of a line of L0. -/
def l0Byte (d : BitVec 512) (o : Nat) : Byte := BitVec.ofNat 8 (d.toNat / 256 ^ o)

/-- A translated address that an access may use at once: not parked, and not a sequence agent's page. -/
def Direct (p : Xlat) (n : Nat) : Prop := p.mig = false ∧ p.seq = false ∧ p.pa % n = 0

end Sys2Proof.Claims

/-- Loads from the local window (R87, R242, R244): the bytes of the scratchpad, sign-extended, or zero-filled
in an f register; nothing else changes. Stores to the local window (R87, R242): the low bytes of the register
at the address, every other byte of the scratchpad and of memory as before, and no register changed; a word that
the store covers is no longer in error. -/
def Obligations.WindowAccesses : Prop :=
  (∀ (s : State) (d a : Reg) (c : BitVec 16) (off : Nat), ∀ l ∈ loads d a c,
    InScratch s (ea s a c) l.2.1 off → off % l.2.1 = 0 → s.hart.scrBad = [] →
    ∃ t, exec l.1 s = .next t ∧ t.hart.pc = s.hart.pc + 4 ∧
      Loaded s t d l.2.2.1 l.2.1 (le (fun i => s.scrByte (off + i)) l.2.1) ∧
      { t with hart := { t.hart with x := s.hart.x, f := s.hart.f, pc := s.hart.pc } } = s ∧ SameBytes s t) ∧
  (∀ (s : State) (d a : Reg) (c : BitVec 16) (off : Nat), ∀ w ∈ stores s d a c,
    InScratch s (ea s a c) w.2.1 off → off % w.2.1 = 0 →
    ∃ t, exec w.1 s = .next t ∧ t.hart.pc = s.hart.pc + 4 ∧
      (∀ o : Nat, t.scrByte o =
        if off ≤ o ∧ o < off + w.2.1 then byteOf w.2.2 (o - off) else s.scrByte o) ∧
      (∀ k, k ∈ t.hart.scrBad ↔ k ∈ s.hart.scrBad ∧ ¬ (off ≤ 4 * k ∧ 4 * k + 4 ≤ off + w.2.1)) ∧
      { t with hart := { t.hart with pc := s.hart.pc, scr := s.hart.scr, scrBad := s.hart.scrBad } } = s ∧
      SameBytes s t)

/-- Loads from a translated address (R74, R75, R77, R79, R83, R105, R242, R411): a load that allocates reads its line
of L0, else L1, else memory; a load at L2 reads the core's dirty bytes and else memory, and one of a domain window
looks in no L1; memory itself changes only by a write-back, and L2 takes the lines it reads. Under CACHE 2 a host
window's bytes are the host's own. Stores to a translated address (R75, R79, R83, R105,
R112, R242, R411): a store that allocates puts its bytes in the core's L1 as dirty, and where L1 has room leaves
memory alone; one that goes around L1, follows a wide release fence, or goes to a domain window, puts exactly its
bytes in memory. The hart's own line of L0 takes the bytes, and the other harts of the core lose theirs. -/
def Obligations.PhysicalAccesses : Prop :=
  (∀ (s s1 : State) (p : Xlat) (d a : Reg) (c : BitVec 16), ∀ l ∈ loads d a c,
    inWindow (ea s a c) = false → (ea s a c).toNat % l.2.1 = 0 → s.xlat .read (ea s a c) = .ok (p, s1) →
    Direct p l.2.1 → Canonical s →
    let atL2 := l.2.2.2 = true ∨ p.cache ≠ 0 ∨ p.lnk = true
    let line := tget (s.core s.hart.core).l1 (p.pa / 256)
    let l0 := tget s.hart.l0 (p.pa / 64)
    let gives (f : Nat → Byte) : Prop :=
      ∃ t, exec l.1 s = .next t ∧ t.hart.pc = s.hart.pc + 4 ∧ Loaded s t d l.2.2.1 l.2.1 (le f l.2.1) ∧
        OnlyLoad s t ∧ t.hart.tlb = s1.hart.tlb ∧ WrittenBack s t s.hart.core ∧
        (¬ atL2 → line ≠ none ∨ RoomInL1 s s.hart.core → SameBytes s t)
    (∀ e, l0 = some e → ¬ atL2 → gives fun i => l0Byte e (p.pa % 64 + i)) ∧
    (l0 = none ∨ atL2 → line = none ∨ p.lnk = true → Clear s p l.2.1 →
      (NoStaleCopy s p → gives fun i => cellGet s.mem (p.pa + i)) ∧
      (p.lnk = false → Machine.Tbl.rising s.hostMem = true → ∃ t, exec l.1 s = .next t ∧ t.hart.pc = s.hart.pc + 4 ∧
        Loaded s t d l.2.2.1 l.2.1 (le (fun i => memoryByte s p (p.pa + i)) l.2.1))) ∧
    (∀ e, line = some e → l0 = none → ¬ atL2 → e.valid.getLsbD (p.pa % 256 / 32) = true →
      e.broken.getLsbD (p.pa % 256 / 32) = false →
      (∀ i, i < l.2.1 → e.poison.getLsbD (p.pa % 256 + i) = false) →
      gives fun i => e.byte (p.pa % 256 + i)) ∧
    (∀ e, line = some e → atL2 → p.lnk = false → Clear s p l.2.1 → e.poison = 0 → e.gran = p.gran → NoStaleCopy s p →
      gives fun i => if e.dirty.getLsbD (p.pa % 256 + i) = true then e.byte (p.pa % 256 + i)
        else cellGet s.mem (p.pa + i))) ∧
  (∀ (s s1 : State) (p : Xlat) (d a : Reg) (c : BitVec 16), ∀ w ∈ stores s d a c,
    inWindow (ea s a c) = false → (ea s a c).toNat % w.2.1 = 0 → s.xlat .write (ea s a c) = .ok (p, s1) →
    Direct p w.2.1 → Canonical s → s.hart.lag = false → NoStaleCopy s p →
    let home := s.hart.relScl = true ∨ p.cache ≠ 0 ∨ p.lnk = true
    let roomy := p.cache ≠ 0 ∨ p.lnk = true ∨ tget (s.core s.hart.core).l1 (p.pa / 256) ≠ none ∨
      RoomInL1 s s.hart.core
    let stored (a : Nat) : Prop := p.pa ≤ a ∧ a < p.pa + w.2.1
    ∃ t, exec w.1 s = .next t ∧ t.hart.pc = s.hart.pc + 4 ∧ t.hart.tlb = s1.hart.tlb ∧
      memApart { t with hart := { t.hart with
        pc := s.hart.pc, tlb := s.hart.tlb, relScl := s.hart.relScl } } = memApart s ∧ OnlyOwnL1 s t ∧
      t.hart.relScl = (if p.lnk then s.hart.relScl else false) ∧
      (∀ a, ¬ stored a → cellGet t.mem a = cellGet s.mem a ∨
        ∃ l, tget (s.core s.hart.core).l1 (a / 256) = some l ∧ l.dirty.getLsbD (a % 256) = true ∧
          cellGet t.mem a = l.byte (a % 256)) ∧
      (¬ home →
        (∀ a, stored a → ∃ l, tget (t.core s.hart.core).l1 (a / 256) = some l ∧
          l.dirty.getLsbD (a % 256) = true ∧ l.byte (a % 256) = byteOf w.2.2 (a - p.pa)) ∧
        (roomy → SameBytes s t ∧
          ∀ a l, ¬ stored a → tget (s.core s.hart.core).l1 (a / 256) = some l →
            (l.valid.getLsbD (a % 256 / 32) = true ∨ l.dirty.getLsbD (a % 256) = true) →
            ∃ l', tget (t.core s.hart.core).l1 (a / 256) = some l' ∧ l'.byte (a % 256) = l.byte (a % 256) ∧
              l'.dirty.getLsbD (a % 256) = l.dirty.getLsbD (a % 256))) ∧
      (home → ∀ a, stored a → cellGet t.mem a = byteOf w.2.2 (a - p.pa)) ∧
      (home → roomy → ∀ a, ¬ stored a → cellGet t.mem a = cellGet s.mem a) ∧
      (p.lnk = false →
        (∀ e, tget s.hart.l0 (p.pa / 64) = some e → ∃ e', tget t.hart.l0 (p.pa / 64) = some e' ∧
          ∀ i, i < w.2.1 → l0Byte e' (p.pa % 64 + i) = byteOf w.2.2 i) ∧
        (∀ h ∈ t.others, h.core = s.hart.core → h.uid ≠ s.hart.uid → tget h.l0 (p.pa / 64) = none)))

/-- The checks of a scalar access in order (R243, R246, R249, R260): a misaligned address traps with 0x0C0, an
atomic or a waita with 0x0C1; an access beyond the declared scratchpad traps with 0x082; a translation traps
with its own cause; a store or an atomic to a SEQ page traps with 0x1C0 (R176), an atomic to a host window with 0x0C3;
and an access of a MIGRATING page parks (R412). -/
def Obligations.ScalarAccessTraps : Prop :=
  ∀ (s : State) (d a b : Reg) (c : BitVec 16) (dbl aq rl w32 : Bool) (sc : Scope),
    let atomics := [Instr.amoswap d a b dbl aq rl sc, .amocas d a b dbl aq rl sc, .amoadd d a b dbl aq rl sc,
      .amoand d a b dbl aq rl sc, .amoor d a b dbl aq rl sc, .amoxor d a b dbl aq rl sc]
    let watches := [Instr.waitaEq d a b w32 sc, .waitaNe d a b w32 sc, .waitaLt d a b w32 sc, .waitaGe d a b w32 sc,
      .waitaLtu d a b w32 sc, .waitaGeu d a b w32 sc]
    let sync := atomics.map (fun i => (i, (if dbl then 8 else 4), Kind.rw)) ++
      watches.map fun i => (i, (if w32 then 4 else 8), Kind.read)
    let mem := (loads d a c).map (fun l => (l.1, l.2.1, Kind.read)) ++
      (stores s d a c).map fun w => (w.1, w.2.1, Kind.write)
    (∀ m ∈ mem, (ea s a c).toNat % m.2.1 ≠ 0 → Traps m.1 s 0x0C0 (ea s a c) s.hart.pc) ∧
    (∀ m ∈ mem, (ea s a c).toNat % m.2.1 = 0 → inWindow (ea s a c) = true →
      s.hart.bounds.scratch < windowOffset (ea s a c) + m.2.1 →
      Traps m.1 s 0x082 (BitVec.ofNat 64 (windowOffset (ea s a c))) s.hart.pc) ∧
    (∀ m ∈ mem, ∀ (cause : Cause) (v : Word), (ea s a c).toNat % m.2.1 = 0 →
      inWindow (ea s a c) = false → s.xlat m.2.2 (ea s a c) = .error (.trap cause v) →
      cause ≠ 0x300 → cause ≠ 0x304 →
      Traps m.1 s cause v s.hart.pc) ∧
    (∀ m ∈ sync, ((s.x a).toNat % m.2.1 ≠ 0 → Traps m.1 s 0x0C1 (s.x a) s.hart.pc) ∧
      ((s.x a).toNat % m.2.1 = 0 →
        (inWindow (s.x a) = true → s.hart.bounds.scratch < windowOffset (s.x a) + m.2.1 →
          Traps m.1 s 0x082 (BitVec.ofNat 64 (windowOffset (s.x a))) s.hart.pc) ∧
        (∀ (cause : Cause) (v : Word), inWindow (s.x a) = false → s.xlat m.2.2 (s.x a) = .error (.trap cause v) →
          cause ≠ 0x300 → cause ≠ 0x304 → Traps m.1 s cause v s.hart.pc))) ∧
    (∀ (p : Xlat) (s1 : State) (k : Kind),
      (∀ m ∈ mem, (ea s a c).toNat % m.2.1 = 0 → inWindow (ea s a c) = false → m.2.2 = k →
        s.xlat k (ea s a c) = .ok (p, s1) →
        (k = .write → p.seq = true → Traps m.1 s 0x1C0 (ea s a c) s.hart.pc) ∧
        ((k = .write → p.seq = false) → p.mig = true → WaitsFor m.1 s (.parked (ea s a c) false))) ∧
      (∀ m ∈ sync, (s.x a).toNat % m.2.1 = 0 → inWindow (s.x a) = false → m.2.2 = k →
        s.xlat k (s.x a) = .ok (p, s1) →
        (k = .rw → p.seq = true → Traps m.1 s 0x1C0 (s.x a) s.hart.pc) ∧
        (k = .rw → p.seq = false → isHost p.pa = true → Traps m.1 s 0x0C3 (s.x a) s.hart.pc) ∧
        ((k = .rw → p.seq = false ∧ isHost p.pa = false) → p.mig = true →
          WaitsFor m.1 s (.parked (s.x a) false))))

/-! ### Atomics, fences, waits and barriers -/

namespace Sys2Proof.Claims

/-- The scalar atomics, with the value each writes for the operand, the expected value and the old one
(R245); none where nothing is written. -/
def amos (d a b : Reg) (dbl aq rl : Bool) (sc : Scope) : List (Instr × (Nat → Nat → Nat → Option Nat)) :=
  [(.amoswap d a b dbl aq rl sc, fun v _ _ => some v),
   (.amocas d a b dbl aq rl sc, fun v e old => if old = e then some v else none),
   (.amoadd d a b dbl aq rl sc, fun v _ old => some ((old + v) % 2 ^ (if dbl then 64 else 32))),
   (.amoand d a b dbl aq rl sc, fun v _ old => some (old &&& v)),
   (.amoor d a b dbl aq rl sc, fun v _ old => some (old ||| v)),
   (.amoxor d a b dbl aq rl sc, fun v _ old => some (old ^^^ v))]

/-- A hart with its advice fills put aside: an acquire cancels those into L1 (R194). -/
def noFills (h : Hart) : Hart := { h with adv := { h.adv with fills := [] } }

/-- A state with its memory side and the advice fills put aside. -/
def apart (s : State) : State :=
  let t := memApart s
  { t with hart := noFills t.hart, others := t.others.map noFills }

/-- The lines of pages that are not shared stay as they are in the hart's L1. -/
def PrivateKept (s t : State) : Prop :=
  ∀ n l, tget (s.core s.hart.core).l1 n = some l → l.shared = false →
    tget (t.core s.hart.core).l1 n = some l

/-- No line of the hart's L1 that passes is dirty. -/
def CleanWhere (t : State) (core : Nat) (c : L1Line → Prop) : Prop :=
  ∀ n l, tget (t.core core).l1 n = some l → c l → l.dirty = 0

/-- What aq and a write with rl leave in the hart's L1 at a scope of die or wider (R111). -/
def Ordered (t : State) (core : Nat) (aq rlWritten : Bool) (sc : Scope) : Prop :=
  (aq = true → sc.wide = true → ∀ k l, tget (t.core core).l1 k = some l → l.shared = false) ∧
  (rlWritten = true → sc.wide = true → CleanWhere t core fun l => l.shared = true)

/-- The n bytes at an address hold a value, as a read at L2 sees them: the scratchpad's, or the core's
dirty bytes and else memory, with nothing wrong with them; the second state adds the cached translation. -/
def WordAt (s : State) (va : Word) (n v : Nat) (s1 : State) : Prop :=
  va.toNat % n = 0 ∧
  ((∃ off, InScratch s va n off ∧ s.hart.scrBad = [] ∧ v = le (fun i => s.scrByte (off + i)) n ∧ s1 = s) ∨
   (∃ p, inWindow va = false ∧ s.xlat .read va = .ok (p, s1) ∧ Direct p n ∧
     Clear s p n ∧ NoStaleCopy s p ∧ (∀ e, p.lnk = false → tget (s.core s.hart.core).l1 (p.pa / 256) = some e → e.poison = 0) ∧
     v = le (fun i => match tget (s.core s.hart.core).l1 (p.pa / 256) with
       | some e => if p.lnk = false ∧ e.dirty.getLsbD (p.pa % 256 + i) = true then e.byte (p.pa % 256 + i)
                   else cellGet s.mem (p.pa + i)
       | none => cellGet s.mem (p.pa + i)) n))

/-- The waits on a word with their conditions on the value read and the value wanted, n bytes each (R249). -/
def waits (d a b : Reg) (w32 : Bool) (sc : Scope) : List (Instr × (Nat → Nat → Nat → Prop)) :=
  [(.waitaEq d a b w32 sc, fun _ v w => v = w), (.waitaNe d a b w32 sc, fun _ v w => v ≠ w),
   (.waitaLt d a b w32 sc, fun n v w => (sx n v).toInt < (sx n w).toInt),
   (.waitaGe d a b w32 sc, fun n v w => (sx n w).toInt ≤ (sx n v).toInt),
   (.waitaLtu d a b w32 sc, fun _ v w => v < w), (.waitaGeu d a b w32 sc, fun _ v w => w ≤ v)]

/-- A hart that takes part in a barrier of a core (R251). -/
def Participant (h : Hart) (core : Nat) (n : BitVec 4) : Prop :=
  h.core = core ∧ h.status ≠ .exited ∧ n.toNat < h.bounds.barriers

/-- A hart that has arrived in a phase (R251, R253). -/
def ArrivedIn (h : Hart) (n : BitVec 4) (p : Nat) : Prop :=
  h.arrived.getLsbD n.toNat = true ∧ h.phase.get n.toFin = p

end Sys2Proof.Claims

/-- Atomics on the local window (R89, R245): x[d] takes the old value sign-extended, the scratchpad the new
one where the operation writes, and nothing else of the hart changes. Atomics on a translated address (R95, R96,
R105, R245, R246): the core's line is written back and invalidated, except for a domain window's; x[d] takes the old
value that memory then holds, and memory the new one where the operation writes; every byte outside the n stored bytes
is as before, or the core's own dirty byte. For both (R111): a write with rl at a scope of die or wider leaves nothing
dirty in shared pages, aq at such a scope leaves no line of a shared page, and the other lines stay. -/
def Obligations.ScalarAtomics : Prop :=
  (∀ (s : State) (d a b : Reg) (dbl aq rl : Bool) (sc : Scope) (off : Nat), Canonical s →
    let n := if dbl then 8 else 4
    let old := le (fun i => s.scrByte (off + i)) n
    InScratch s (s.x a) n off → off % n = 0 → s.hart.scrBad = [] →
    ∀ m ∈ amos d a b dbl aq rl sc,
      let new := m.2 ((s.x b).toNat % 2 ^ (8 * n)) ((s.x d).toNat % 2 ^ (8 * n)) old
      ∃ t, exec m.1 s = .next t ∧ XWritten s t d (sx n old) ∧ t.hart.pc = s.hart.pc + 4 ∧
        (∀ o : Nat, t.scrByte o = match new with
          | some v => if off ≤ o ∧ o < off + n then byteOf (BitVec.ofNat 64 v) (o - off) else s.scrByte o
          | none => s.scrByte o) ∧
        apart { t with hart := { t.hart with x := s.hart.x, pc := s.hart.pc, scr := s.hart.scr } } = apart s ∧
        OnlyOwnL1 s t ∧ WrittenBack s t s.hart.core ∧ PrivateKept s t ∧ Ordered t s.hart.core aq (rl && new.isSome) sc ∧
        (sc.wide = false ∨ aq = false ∧ rl = false → t.cores = s.cores ∧ SameBytes s t)) ∧
  (∀ (s s1 : State) (p : Xlat) (d a b : Reg) (dbl aq rl : Bool) (sc : Scope), Canonical s →
    let n := if dbl then 8 else 4
    let line := tget (s.core s.hart.core).l1 (p.pa / 256)
    let was (i : Nat) : Byte := match line with
      | some e => if e.dirty.getLsbD (p.pa % 256 + i) = true then e.byte (p.pa % 256 + i)
                  else cellGet s.mem (p.pa + i)
      | none => cellGet s.mem (p.pa + i)
    inWindow (s.x a) = false → (s.x a).toNat % n = 0 → s.xlat .rw (s.x a) = .ok (p, s1) →
    isHost p.pa = false → Direct p n → Clear s p n → (∀ e, line = some e → e.poison = 0 ∧ e.gran = p.gran) →
    (p.lnk = true → line = none) →
    ∀ m ∈ amos d a b dbl aq rl sc,
      let new := m.2 ((s.x b).toNat % 2 ^ (8 * n)) ((s.x d).toNat % 2 ^ (8 * n)) (le was n)
      ∃ t, exec m.1 s = .next t ∧ XWritten s t d (sx n (le was n)) ∧ t.hart.pc = s.hart.pc + 4 ∧
        t.hart.tlb = s1.hart.tlb ∧
        (∀ o : Nat, p.pa ≤ o → o < p.pa + n → cellGet t.mem o = match new with
          | some v => byteOf (BitVec.ofNat 64 v) (o - p.pa)
          | none => was (o - p.pa)) ∧
        (∀ o : Nat, ¬ (p.pa ≤ o ∧ o < p.pa + n) → cellGet t.mem o = cellGet s.mem o ∨
          ∃ l, tget (s.core s.hart.core).l1 (o / 256) = some l ∧ l.dirty.getLsbD (o % 256) = true ∧
            cellGet t.mem o = l.byte (o % 256)) ∧
        tget (t.core s.hart.core).l1 (p.pa / 256) = none ∧
        (∀ k l, k ≠ p.pa / 256 → tget (s.core s.hart.core).l1 k = some l → l.shared = false →
          tget (t.core s.hart.core).l1 k = some l) ∧
        Ordered t s.hart.core aq (rl && new.isSome) sc ∧ OnlyOwnL1 s t ∧
        apart { t with hart := { t.hart with x := s.hart.x, pc := s.hart.pc, tlb := s.hart.tlb } } = apart s)

/-- fence (R111, R112, R247): a release of scope die or wider writes back the dirty bytes of shared pages, which stay
in L1 as they are, and makes the next plain write on each path a release; an acquire of such a scope drops every line
of a shared page; ar and full do both; a narrower fence only moves on. No operand register changes, and no line of
a page that is not shared. fence.p (R111, R248): it waits while a copy command on its first path has not performed;
from SCL or VEC to a far path it writes back every dirty byte of the core, from a far path to SCL or VEC it drops
every line, between SCL and VEC it is a full fence, and between far paths it only moves on. -/
def Obligations.FencesAct : Prop :=
  (∀ (s : State) (o : FenceOrder) (sc : Scope), Canonical s →
    let wide := sc.wide = true
    ∃ t, exec (.fence o sc) s = .next t ∧ t.hart.pc = s.hart.pc + 4 ∧
      apart { t with hart := { t.hart with
        pc := s.hart.pc, relScl := s.hart.relScl, relVec := s.hart.relVec } } = apart s ∧
      OnlyOwnL1 s t ∧ WrittenBack s t s.hart.core ∧ PrivateKept s t ∧
      (wide → o ≠ .acq → t.hart.relScl = true ∧ t.hart.relVec = true ∧
        (CleanWhere t s.hart.core fun l => l.shared = true) ∧
        (∀ a l, tget (s.core s.hart.core).l1 (a / 256) = some l → l.shared = true →
          l.dirty.getLsbD (a % 256) = true → cellGet t.mem a = l.byte (a % 256))) ∧
      (wide → o = .rel → ∀ n l, tget (s.core s.hart.core).l1 n = some l → l.shared = true →
        tget (t.core s.hart.core).l1 n = some { l with dirty := 0 }) ∧
      (¬ wide ∨ o = .acq → t.hart.relScl = s.hart.relScl ∧ t.hart.relVec = s.hart.relVec) ∧
      (wide → o ≠ .rel → ∀ n l, tget (t.core s.hart.core).l1 n = some l → l.shared = false) ∧
      (¬ wide → t.cores = s.cores ∧ SameBytes s t)) ∧
  (∀ (s : State) (p q : Path) (sc : Scope), Canonical s →
    let near (r : Path) : Prop := r = .scl ∨ r = .vec
    ((∀ c ∈ s.hart.copyq, c.on p = false) →
      ∃ t, exec (.fenceP p q sc) s = .next t ∧ t.hart.pc = s.hart.pc + 4 ∧
        apart { t with hart := { t.hart with
          pc := s.hart.pc, relScl := s.hart.relScl, relVec := s.hart.relVec } } = apart s ∧
        OnlyOwnL1 s t ∧ WrittenBack s t s.hart.core ∧
        (near p → ¬ near q → NothingDirty t s.hart.core ∧
          (∀ n l, tget (s.core s.hart.core).l1 n = some l →
            tget (t.core s.hart.core).l1 n = some { l with dirty := 0 }) ∧
          ∀ a l, tget (s.core s.hart.core).l1 (a / 256) = some l → l.dirty.getLsbD (a % 256) = true →
            cellGet t.mem a = l.byte (a % 256)) ∧
        (¬ near p → near q → ∀ n, tget (t.core s.hart.core).l1 n = none) ∧
        (near p → near q → exec (.fence .full sc) s = .next t) ∧
        (¬ near p → ¬ near q → t.cores = s.cores ∧ SameBytes s t)) ∧
    ((∃ c ∈ s.hart.copyq, c.on p = true) → exec (.fenceP p q sc) s = .next (s.sleep (.copyDrain))))

/-- waita (R249): where the condition holds of the word, x[d] takes 0 and the hart goes on, with an acquire;
where it does not and no time is left, x[d] takes 1; else the hart sleeps with nothing written. -/
def Obligations.WordWaits : Prop :=
  ∀ (s s1 : State) (d a b : Reg) (w32 : Bool) (sc : Scope) (v : Nat), Canonical s →
    let n := if w32 then 4 else 8
    let want := (s.x b).toNat % 2 ^ (8 * n)
    s.hart.status = .running → s.hart.wait = .none → WordAt s (s.x a) n v s1 →
    ∀ m ∈ waits d a b w32 sc,
      (m.2 n v want →
        ∃ t, exec m.1 s = .next t ∧ XWritten s t d 0 ∧ t.hart.pc = s.hart.pc + 4 ∧
          t.hart.tlb = s1.hart.tlb ∧
          apart { t with hart := { t.hart with x := s.hart.x, pc := s.hart.pc, tlb := s.hart.tlb } } =
            apart s ∧
          WrittenBack s t s.hart.core ∧ PrivateKept s t ∧ Ordered t s.hart.core true false sc) ∧
      (¬ m.2 n v want → s.x d = 0 →
        ∃ t, exec m.1 s = .next t ∧ XWritten s t d 1 ∧ t.hart.pc = s.hart.pc + 4 ∧
          memApart { t with hart := { t.hart with x := s.hart.x, pc := s.hart.pc, tlb := s.hart.tlb } } = memApart s ∧
          t.cores = s.cores ∧ SameBytes s t) ∧
      (¬ m.2 n v want → s.x d ≠ 0 →
        ∃ t, exec m.1 s = .next t ∧ t.hart.status = .sleeping ∧ t.hart.pc = s.hart.pc ∧
          SameRegs s t ∧ SameBytes s t)

/-- bar.arrive (R251, R253): it sets the hart's arrived bit and remembers the phase; the phase completes, and
its counter moves on, exactly when every participant has arrived. bar.wait goes on, with the bit cleared, once
the remembered phase has completed. -/
def Obligations.Barriers : Prop :=
  ∀ (s : State) (n : BitVec 4), n.toNat < s.hart.bounds.barriers → s.hart.status = .running →
    let phase (u : State) (m : BitVec 4) : Nat := (u.core s.hart.core).phase.get m.toFin
    (s.hart.arrived.getLsbD n.toNat = false → s.hart.copyq = [] →
      ∃ t, exec (.barArrive n) s = .next t ∧ t.hart.pc = s.hart.pc + 4 ∧ SameRegs s t ∧ SameBytes s t ∧
        t.hart.arrived = s.hart.arrived ||| BitVec.ofNat 16 (2 ^ n.toNat) ∧
        t.hart.phase.get n.toFin = phase s n ∧
        ((∀ h ∈ s.others, Participant h s.hart.core n → ArrivedIn h n (phase s n)) →
          phase t n = phase s n + 1) ∧
        (¬ (∀ h ∈ s.others, Participant h s.hart.core n → ArrivedIn h n (phase s n)) →
          phase t n = phase s n) ∧
        (∀ m, m ≠ n → phase t m = phase s m)) ∧
    (s.hart.arrived.getLsbD n.toNat = true → s.hart.phase.get n.toFin < phase s n →
      ∃ t, exec (.barWait n) s = .next t ∧ t.hart.pc = s.hart.pc + 4 ∧ SameBytes s t ∧
        t.hart.arrived = s.hart.arrived &&& ~~~ BitVec.ofNat 16 (2 ^ n.toNat) ∧
        { t with hart := { t.hart with
          pc := s.hart.pc, arrived := s.hart.arrived, wait := s.hart.wait } } = s) ∧
    (s.hart.arrived.getLsbD n.toNat = true → ¬ s.hart.phase.get n.toFin < phase s n →
      exec (.barWait n) s = .next (s.sleep (.barrier n))) ∧
    (s.hart.arrived.getLsbD n.toNat = true → Traps (.barArrive n) s 0x241 (n.setWidth 64) s.hart.pc) ∧
    (s.hart.arrived.getLsbD n.toNat = false → Traps (.barWait n) s 0x240 (n.setWidth 64) s.hart.pc)

/-! ### Scalar floating point -/

namespace Sys2Proof.Claims

/-- The bits of a source: f[r][31:0] for .s, all of f[r] for .d (R254). -/
def src (s : State) (dbl : Bool) (r : Reg) : Nat := (s.f r).toNat % 2 ^ (if dbl then 64 else 32)

/-- The exponent field, the fraction field and the sign bit of a code (R143). -/
def expField (dbl : Bool) (v : Nat) : Nat := if dbl then v / 2 ^ 52 % 2048 else v / 2 ^ 23 % 256

/-- The fraction field. -/
def fracField (dbl : Bool) (v : Nat) : Nat := if dbl then v % 2 ^ 52 else v % 2 ^ 23

/-- The sign bit. -/
def signField (dbl : Bool) (v : Nat) : Bool := v.testBit (if dbl then 63 else 31)

/-- An exponent field of all ones. -/
def topExp (dbl : Bool) : Nat := if dbl then 2047 else 255

/-- NaN codes; signalling when the most significant fraction bit is 0 (R255). -/
def IsNan (dbl : Bool) (v : Nat) : Prop := expField dbl v = topExp dbl ∧ fracField dbl v ≠ 0

/-- A signalling NaN. -/
def IsSig (dbl : Bool) (v : Nat) : Prop := IsNan dbl v ∧ v.testBit (if dbl then 51 else 22) = false

/-- An infinity. -/
def IsInf (dbl : Bool) (v : Nat) : Prop := expField dbl v = topExp dbl ∧ fracField dbl v = 0

/-- A zero of either sign. -/
def IsZero (dbl : Bool) (v : Nat) : Prop := expField dbl v = 0 ∧ fracField dbl v = 0

/-- A number that is neither NaN nor infinite. -/
def IsFinite (dbl : Bool) (v : Nat) : Prop := expField dbl v ≠ topExp dbl

/-- The rational number a finite code holds (R143): normals with a hidden one, subnormals kept. An infinity
stands above every finite code. -/
def valueOf (dbl : Bool) (v : Nat) : ℚ :=
  let bias : Int := if dbl then 1023 else 127
  let frac : Nat := if dbl then 52 else 23
  (if signField dbl v then -1 else 1) *
    (if expField dbl v = 0 then (fracField dbl v : ℚ) * 2 ^ (1 - bias - frac : Int)
     else ((2 ^ frac + fracField dbl v : Nat) : ℚ) * 2 ^ ((expField dbl v : Int) - bias - frac))

/-- The canonical NaN, and an infinity of a sign (R254, R255). -/
def canonical (dbl : Bool) : Word := if dbl then 0x7FF8000000000000 else 0x7FC00000

/-- An infinity of a sign. -/
def infinite (dbl neg : Bool) : Word :=
  if dbl then (if neg then 0xFFF0000000000000 else 0x7FF0000000000000)
  else (if neg then 0xFF800000 else 0x7F800000)

/-- NV under a condition; DZ is 8 and NV is 16 (R156). -/
noncomputable def nv (c : Prop) : BitVec 8 := by
  classical exact if c then 0x10 else 0

/-- The instruction writes v to x[d], ORs fl into FCSR, goes on at PC + 4, and changes nothing else. -/
def GivesXFlags (i : Instr) (s : State) (d : Reg) (v : Word) (fl : BitVec 8) : Prop :=
  ∃ t, exec i s = .next t ∧ XWritten s t d v ∧ t.hart.csr.fcsr = s.hart.csr.fcsr ||| fl ∧
    t.hart.pc = s.hart.pc + 4 ∧
    { t with hart := { t.hart with
      x := s.hart.x, pc := s.hart.pc
      csr := { t.hart.csr with fcsr := s.hart.csr.fcsr } } } = s ∧ SameBytes s t

end Sys2Proof.Claims

/-- Arithmetic computes the exact result of the operands and rounds it once into the format under FCSR.RM,
ORing the flags it raises (R155, R156, R254). The exact arithmetic and the rounding are the model's own
(Flags.lean); RoundedOnce and ExactArithmetic say what they are. -/
def Obligations.ScalarFpResults : Prop :=
  ∀ (s : State) (d a b c : Reg) (dbl : Bool),
    let f := fpFmt dbl
    let x := f.decode (src s dbl a)
    let y := f.decode (src s dbl b)
    let z := f.decode (src s dbl c)
    let rm := rmOf (s.hart.csr.fcsr.toNat / 32)
    let gives (i : Instr) (r : Rounded) : Prop := GivesF i s d (BitVec.ofNat 64 r.code) r.flags
    gives (.fadd d a b dbl) (f.result rm (Machine.Num.add rm x y)) ∧
    gives (.fsub d a b dbl) (f.result rm (Machine.Num.add rm x y.neg)) ∧
    gives (.fmul d a b dbl) (f.result rm (Machine.Num.mul x y)) ∧
    gives (.fdiv d a b dbl) (f.result rm (Machine.Num.div x y)) ∧
    gives (.fsqrt d a dbl) (f.sqrt rm x) ∧
    gives (.fma d a b c dbl) (f.result rm (Machine.Num.fma rm x y z)) ∧
    gives (.fcvtFX d a dbl) (f.convert (.mode rm) (Machine.Num.ofInt (s.x a).toInt)) ∧
    (let r := intConvert 64 (.mode rm) x
     GivesXFlags (.fcvtXF d a dbl) s d (BitVec.ofInt 64 r.1) r.2)

/-- NaN, infinities and zeros (R255): arithmetic with a NaN gives the canonical NaN, with NV when one is
signalling; invalid operations (0 × ∞, ∞ − ∞, 0 ÷ 0, ∞ ÷ ∞, the root of a value below −0) give it with NV; a finite
nonzero value over zero gives a signed infinity with DZ, the root of a zero is that zero; a NaN converts to the
integer 0 and a value out of range to the nearest bound, with NV. Compares, minima and maxima (R254, R255), of all
operands: they order the numbers the codes hold; −0 equals +0 in a compare and lies below it in fmin and fmax; a NaN
leaves a compare false, with NV from feq only where it is signalling, and gives way to the other operand in fmin and
fmax, which give the canonical NaN for two. -/
def Obligations.ScalarFpEdges : Prop :=
  (∀ (s : State) (d a b c : Reg) (dbl : Bool),
    let x := src s dbl a
    let y := src s dbl b
    let z := src s dbl c
    let nan (i : Instr) (fl : BitVec 8) : Prop := GivesF i s d (canonical dbl) fl
    (IsNan dbl x ∨ IsNan dbl y →
      let fl := nv (IsSig dbl x ∨ IsSig dbl y)
      nan (.fadd d a b dbl) fl ∧ nan (.fsub d a b dbl) fl ∧ nan (.fmul d a b dbl) fl ∧
      nan (.fdiv d a b dbl) fl) ∧
    (IsNan dbl x → nan (.fsqrt d a dbl) (nv (IsSig dbl x)) ∧
      GivesXFlags (.fcvtXF d a dbl) s d 0 0x10) ∧
    (IsZero dbl x → IsInf dbl y →
      nan (.fmul d a b dbl) 0x10 ∧ nan (.fma d a b c dbl) 0x10 ∧ nan (.fma d b a c dbl) 0x10) ∧
    (¬ (IsZero dbl x ∧ IsInf dbl y) → ¬ (IsInf dbl x ∧ IsZero dbl y) →
      (IsNan dbl x ∨ IsNan dbl y ∨ IsNan dbl z) →
      nan (.fma d a b c dbl) (nv (IsSig dbl x ∨ IsSig dbl y ∨ IsSig dbl z))) ∧
    (IsInf dbl x → IsInf dbl y →
      nan (.fdiv d a b dbl) 0x10 ∧
      (signField dbl x ≠ signField dbl y → nan (.fadd d a b dbl) 0x10) ∧
      (signField dbl x = signField dbl y → nan (.fsub d a b dbl) 0x10)) ∧
    (IsZero dbl x → IsZero dbl y → nan (.fdiv d a b dbl) 0x10) ∧
    (IsFinite dbl x → ¬ IsZero dbl x → IsZero dbl y →
      GivesF (.fdiv d a b dbl) s d (infinite dbl (signField dbl x != signField dbl y)) 0x08) ∧
    (¬ IsNan dbl x → ¬ IsZero dbl x → signField dbl x = true → nan (.fsqrt d a dbl) 0x10) ∧
    (IsZero dbl x → GivesF (.fsqrt d a dbl) s d (BitVec.ofNat 64 x) 0) ∧
    (IsInf dbl z → (IsInf dbl x ∧ ¬ IsZero dbl y ∨ IsInf dbl y ∧ ¬ IsZero dbl x) → ¬ IsNan dbl x → ¬ IsNan dbl y →
      (signField dbl x != signField dbl y) ≠ signField dbl z → nan (.fma d a b c dbl) 0x10) ∧
    (IsInf dbl x ∨ IsFinite dbl x ∧ (2 ^ 63 ≤ valueOf dbl x ∨ valueOf dbl x < -2 ^ 63) →
      GivesXFlags (.fcvtXF d a dbl) s d
        (if signField dbl x then 0x8000000000000000 else 0x7FFFFFFFFFFFFFFF) 0x10)) ∧
  (∀ (s : State) (d a b : Reg) (dbl : Bool),
    let x := src s dbl a
    let y := src s dbl b
    let lt := valueOf dbl x < valueOf dbl y ∨
      (valueOf dbl x = valueOf dbl y ∧ signField dbl x = true ∧ signField dbl y = false)
    let gt := valueOf dbl y < valueOf dbl x ∨
      (valueOf dbl x = valueOf dbl y ∧ signField dbl x = false ∧ signField dbl y = true)
    (¬ IsNan dbl x → ¬ IsNan dbl y →
      GivesXFlags (.feq d a b dbl) s d (if valueOf dbl x = valueOf dbl y then 1 else 0) 0 ∧
      GivesXFlags (.flt d a b dbl) s d (if valueOf dbl x < valueOf dbl y then 1 else 0) 0 ∧
      GivesXFlags (.fle d a b dbl) s d (if valueOf dbl x ≤ valueOf dbl y then 1 else 0) 0 ∧
      (lt → GivesF (.fmin d a b dbl) s d (BitVec.ofNat 64 x) 0 ∧
        GivesF (.fmax d a b dbl) s d (BitVec.ofNat 64 y) 0) ∧
      (gt → GivesF (.fmin d a b dbl) s d (BitVec.ofNat 64 y) 0 ∧
        GivesF (.fmax d a b dbl) s d (BitVec.ofNat 64 x) 0) ∧
      (¬ lt → ¬ gt → GivesF (.fmin d a b dbl) s d (BitVec.ofNat 64 x) 0 ∧
        GivesF (.fmax d a b dbl) s d (BitVec.ofNat 64 x) 0)) ∧
    (IsNan dbl x ∨ IsNan dbl y →
      GivesXFlags (.feq d a b dbl) s d 0 (nv (IsSig dbl x ∨ IsSig dbl y)) ∧
      GivesXFlags (.flt d a b dbl) s d 0 0x10 ∧ GivesXFlags (.fle d a b dbl) s d 0 0x10) ∧
    (let fl := nv (IsSig dbl x ∨ IsSig dbl y)
     ∀ i ∈ [Instr.fmin d a b dbl, .fmax d a b dbl],
      (IsNan dbl x → ¬ IsNan dbl y → GivesF i s d (BitVec.ofNat 64 y) fl) ∧
      (¬ IsNan dbl x → IsNan dbl y → GivesF i s d (BitVec.ofNat 64 x) fl) ∧
      (IsNan dbl x → IsNan dbl y → GivesF i s d (canonical dbl) fl)))

/-- Where the scalar atomics, the fences and the selecting floating-point forms complete (R89, R96, R245, R247, R248,
R254): they go on at PC + 4 and take no trap. An atomic: at an aligned address of the scratchpad, or at one of HBM that
its page lets it read and write, with nothing in migration, poisoned or in error there; it writes no register but x[d].
fence: always. fence.p: while no copy command on its first path is outstanding. fmin, fmax, feq, flt, fle: always; the
first two write only f[d] and FCSR, the others only x[d] and FCSR. -/
def Obligations.ScalarFormsComplete : Prop :=
  ∀ (s : State) (d a b : Reg) (dbl : Bool), Canonical s →
    let done (t : State) : Prop := t.hart.pc = s.hart.pc + 4 ∧ t.hart.trap = s.hart.trap
    (∀ i ∈ [Instr.fmin d a b dbl, .fmax d a b dbl], ∃ t, exec i s = .next t ∧ done t ∧ OnlyFFlagsPc s t) ∧
    (∀ i ∈ [Instr.feq d a b dbl, .flt d a b dbl, .fle d a b dbl], ∃ t, exec i s = .next t ∧ done t ∧
      { t with hart := { t.hart with
        x := s.hart.x, pc := s.hart.pc, csr := { t.hart.csr with fcsr := s.hart.csr.fcsr } } } = s) ∧
    (∀ o sc, ∃ t, exec (.fence o sc) s = .next t ∧ done t ∧ SameRegs s t) ∧
    (∀ p q sc, (∀ c ∈ s.hart.copyq, c.on p = false) → ∃ t, exec (.fenceP p q sc) s = .next t ∧ done t ∧ SameRegs s t) ∧
    (∀ aq rl sc,
      let n := if dbl then 8 else 4
      let inScratch := s.hart.scrBad = [] ∧ ∃ off, InScratch s (s.x a) n off ∧ off % n = 0
      let inHbm := ∃ p s1, inWindow (s.x a) = false ∧ (s.x a).toNat % n = 0 ∧ s.xlat .rw (s.x a) = .ok (p, s1) ∧
        isHbm p.pa = true ∧ p.lnk = false ∧ Direct p n ∧ Clear s p n ∧
        ∀ e, tget (s.core s.hart.core).l1 (p.pa / 256) = some e → e.poison = 0 ∧ e.gran = p.gran
      inScratch ∨ inHbm →
        ∀ i ∈ [Instr.amoswap d a b dbl aq rl sc, .amocas d a b dbl aq rl sc, .amoadd d a b dbl aq rl sc,
            .amoand d a b dbl aq rl sc, .amoor d a b dbl aq rl sc, .amoxor d a b dbl aq rl sc],
          ∃ t, exec i s = .next t ∧ done t ∧ (∀ r : Reg, r ≠ d → t.x r = s.x r) ∧ t.hart.f = s.hart.f ∧
            t.hart.v = s.hart.v ∧ t.hart.k = s.hart.k ∧ t.hart.csr = s.hart.csr)

/-- fmv.f.x, fmv.x.f and fsgnj move bits and raise nothing (R254, R255). -/
def Obligations.ScalarFpMoves : Prop :=
  ∀ (s : State) (d a b : Reg),
    GivesF (.fmvFX d a true) s d (s.x a) 0 ∧
    GivesF (.fmvFX d a false) s d (BitVec.ofNat 64 ((s.x a).toNat % 2 ^ 32)) 0 ∧
    GivesX (.fmvXF d a true) s d (s.f a) ∧
    GivesX (.fmvXF d a false) s d (BitVec.ofInt 64 ((s.f a).setWidth 32).toInt) ∧
    GivesF (.fsgnj d a b true) s d
      ((s.f a &&& 0x7FFFFFFFFFFFFFFF) ||| (s.f b &&& 0x8000000000000000)) 0 ∧
    GivesF (.fsgnj d a b false) s d ((s.f a &&& 0x7FFFFFFF) ||| (s.f b &&& 0x80000000)) 0

namespace Sys2Proof.Claims

/-- The rational number that a finite number stands for. -/
def ratOf : Machine.Num → ℚ
  | .fin s n e d => (if s then -1 else 1) * ((n : ℚ) * 2 ^ e / d)
  | _ => 0

end Sys2Proof.Claims

namespace Sys2Proof.Claims

/-- The formats of 16 bits and fewer with their exponent and fraction widths, their bias, and whether an exponent field
of all ones holds infinities and NaNs (R143). -/
def narrowFormats : List (FFmt × Nat × Nat × Int × Bool) :=
  [(bf16, 8, 7, 127, true), (fp16, 5, 10, 15, true), (e5m2, 5, 2, 15, true), (e4m3, 4, 3, 7, false),
   (e3m2, 3, 2, 3, false), (e2m3, 2, 3, 1, false), (e2m1, 2, 1, 1, false)]

end Sys2Proof.Claims

/-- Decoding gives the rational number of the manual's formats, FP32 and binary64 and the narrower ones with their
infinities and NaNs, those of BF16, FP16 and E5M2 signalling (R143, R144, R254); sums, products, quotients and fused
products of finite numbers are exact before the one rounding, a zero sum with the sign that R153 gives (R153, R254). -/
def Obligations.ExactArithmetic : Prop :=
  (∀ p ∈ narrowFormats, ∀ v : Nat,
    let f := p.1
    let top := 2 ^ p.2.1 - 1
    let e := v / 2 ^ p.2.2.1 % 2 ^ p.2.1
    let m := v % 2 ^ p.2.2.1
    let neg := v.testBit (p.2.1 + p.2.2.1)
    let special := p.2.2.2.2 = true ∧ e = top
    let nan4 := f = e4m3 ∧ e = top ∧ m = 7
    v < 2 ^ (p.2.1 + p.2.2.1 + 1) →
      (special → f.decode v = if m = 0 then .inf neg else .nan true) ∧
      (nan4 → f.decode v = .nan false) ∧
      (¬ special → ¬ nan4 → ∃ n x d, f.decode v = .fin neg n x d ∧ d ≠ 0 ∧
        ratOf (.fin neg n x d) = (if neg then -1 else 1) *
          (if e = 0 then (m : ℚ) / 2 ^ p.2.2.1 * 2 ^ (1 - p.2.2.2.1)
           else (1 + (m : ℚ) / 2 ^ p.2.2.1) * 2 ^ ((e : Int) - p.2.2.2.1)))) ∧
  (∀ (rm : Rm) (s1 s2 s3 : Bool) (n1 n2 n3 d1 d2 d3 : Nat) (e1 e2 e3 : Int), d1 ≠ 0 → d2 ≠ 0 → d3 ≠ 0 →
    let x := Machine.Num.fin s1 n1 e1 d1
    let y := Machine.Num.fin s2 n2 e2 d2
    let z := Machine.Num.fin s3 n3 e3 d3
    let fused := Machine.Num.fma rm x y z
    ratOf fused.1 = ratOf x * ratOf y + ratOf z ∧ fused.2 = 0 ∧ fused.1.isNan = false ∧ fused.1.isInf = false ∧
    (ratOf x * ratOf y + ratOf z = 0 →
      fused.1.sign = if (s1 != s2) = s3 then s3 else decide (rm = .rdn))) ∧
  (∀ (dbl : Bool) (v : Nat), v < 2 ^ (if dbl then 64 else 32) → IsFinite dbl v →
    ∃ s n e d, (fpFmt dbl).decode v = .fin s n e d ∧ d ≠ 0 ∧ ratOf (.fin s n e d) = valueOf dbl v ∧
      s = signField dbl v) ∧
  (∀ (rm : Rm) (s1 s2 : Bool) (n1 n2 d1 d2 : Nat) (e1 e2 : Int), d1 ≠ 0 → d2 ≠ 0 →
    let x := Machine.Num.fin s1 n1 e1 d1
    let y := Machine.Num.fin s2 n2 e2 d2
    ratOf (Machine.Num.add rm x y).1 = ratOf x + ratOf y ∧ (Machine.Num.add rm x y).2 = 0 ∧
    ratOf (Machine.Num.mul x y).1 = ratOf x * ratOf y ∧ (Machine.Num.mul x y).2 = 0 ∧
    (n2 ≠ 0 → ratOf (Machine.Num.div x y).1 = ratOf x / ratOf y ∧ (Machine.Num.div x y).2 = 0) ∧
    ((Machine.Num.add rm x y).1.isNan = false ∧ (Machine.Num.mul x y).1.isNan = false) ∧
    (ratOf x + ratOf y = 0 → (Machine.Num.add rm x y).1.sign = if s1 = s2 then s1 else decide (rm = .rdn)) ∧
    (Machine.Num.mul x y).1.sign = (s1 != s2))

namespace Sys2Proof.Claims

/-- A code of a format that holds a number. -/
def FiniteCode (f : FFmt) (c : Nat) : Prop := c < 2 ^ (f.low + 1) ∧ ∃ s n e d, f.decode c = .fin s n e d

/-- The number it holds. -/
noncomputable def codeValue (f : FFmt) (c : Nat) : ℝ := (ratOf (f.decode c) : ℝ)

/-- A real number rounded once into a format under a mode (R153): the nearest code for RNE (an even one at a tie) and RMM
(the larger magnitude at a tie), and the nearest on the named side for RTZ, RUP and RDN; NX is raised exactly when the
result is not the number itself. -/
def RoundsTo (f : FFmt) (rm : Rm) (v : ℝ) (r : Rounded) : Prop :=
  let val := codeValue f r.code
  FiniteCode f r.code ∧ (r.flags.getLsbD 0 = true ↔ val ≠ v) ∧
  ∀ c, FiniteCode f c →
    let u := codeValue f c
    (rm = .rne ∨ rm = .rmm → |val - v| ≤ |u - v|) ∧
    (rm = .rne → u ≠ val → |val - v| = |u - v| → r.code % 2 = 0) ∧
    (rm = .rmm → |val - v| = |u - v| → |u| ≤ |val|) ∧
    (rm = .rup → v ≤ val ∧ (v ≤ u → val ≤ u)) ∧
    (rm = .rdn → val ≤ v ∧ (u ≤ v → u ≤ val)) ∧
    (rm = .rtz → |val| ≤ |v| ∧ (|u| ≤ |v| → |u| ≤ |val|))

end Sys2Proof.Claims

/-- Converting an exact number into a format of the manual or binary64 rounds it once, where it does not overflow (R153
to R156); so do the roots and the reciprocal roots of positive finite codes (R254, R278). -/
def Obligations.RoundedOnce : Prop :=
  (∀ f ∈ fp64 :: fp32 :: narrowFormats.map (·.1), ∀ (s : Bool) (rm : Rm) (n d : Nat) (e : Int), n ≠ 0 → d ≠ 0 →
    let r := f.convert (.mode rm) (.fin s n e d)
    r.flags.getLsbD 2 = false → RoundsTo f rm ((ratOf (.fin s n e d) : ℚ) : ℝ) r) ∧
  (∀ f ∈ [fp64, fp32, bf16, fp16], ∀ (rm : Rm) (x : Nat), FiniteCode f x → 0 < codeValue f x →
    RoundsTo f rm (Real.sqrt (codeValue f x)) (f.sqrt rm (f.decode x)) ∧
    RoundsTo f rm (1 / Real.sqrt (codeValue f x)) (f.rsqrt rm (f.decode x)))

/-! ### Vector instructions: configuration, and the elementwise forms -/

namespace Sys2Proof.Claims

/-- The bits of an element of each type, f32 to n64; the bit planes are bytes (R19, R223). -/
def elemBits (e : Nat) : Nat :=
  if e < 23 then [32, 16, 16, 8, 8, 8, 8, 4, 8, 16, 32, 64, 8, 16, 32, 64].getD e 8 else 0

/-- VT.ETYPE, the grouping of VT.GROUP, VT.SHAPE, and the element width (R223). -/
def etype (s : State) : Nat := s.hart.csr.vt.toNat % 32

/-- The grouping. -/
def group (s : State) : Nat := 2 ^ (s.hart.csr.vt.toNat / 32 % 4)

/-- VT.SHAPE. -/
def shape (s : State) : Nat := s.hart.csr.vt.toNat / 256 % 256

/-- The element width. -/
def width (s : State) : Nat := elemBits (etype s)

/-- VLMAX of one register at a width (R45). -/
def perReg (s : State) (w : Nat) : Nat := s.hart.grant.lanes * min 16 s.hart.brim * 32 / w

/-- VL and VSTART as numbers. -/
def vl (s : State) : Nat := s.hart.csr.vl.toNat

/-- VSTART. -/
def vs (s : State) : Nat := s.hart.csr.vstart.toNat

/-- Whether a predicate holds of an element: k0 always does (R216). -/
def on (s : State) (k : KReg) (e : Nat) : Bool := k == 0 || (s.mask k).getLsbD e

/-- A queued instruction runs at once: nothing is queued, replayed or cut before it, nothing goes wrong in its
lanes, it does not stay behind in its queue, and the hart holds its lanes, or has none to hold. -/
def Issues (s : State) : Prop :=
  s.hart.replay = none ∧ s.hart.queue = [] ∧ s.hart.lag = false ∧ s.hart.trouble = none ∧ s.hart.cut = none ∧
  (s.hart.holds = true ∨ s.hart.bounds.vregs = 0 ∨ s.hart.grant.lanes = 0)

/-- Register groups start at a multiple of the grouping and lie within the kernel's registers (R225, R233),
and VL fits the grant (R265). -/
def Fits (s : State) (fields : List Nat) : Prop :=
  s.hart.grant.lanes ≤ 64 ∧ vl s ≤ group s * perReg s (width s) ∧
  ∀ f ∈ fields, f % group s = 0 ∧ f + group s ≤ s.hart.bounds.vregs

/-- The register a second source names, where it is a vector. -/
def srcFields : VSrc → List Nat
  | .vv r => [r.toNat]
  | .vx _ => []
  | .vi _ => []
  | .vf _ => []

/-- P elements of width w are in the registers from field on, g of them: their values, their progress indices
in bits (R267), and the dirty marks of the registers written (R375). -/
def Written (s t : State) (field g w P : Nat) (r : Nat → Nat) : Prop :=
  (∀ e, e < P → e < g * perReg s w → t.elem field w e = r e % 2 ^ w) ∧
  ∀ j, j < g → (t.vreg (field + j)).pidx = min (P - j * perReg s w) (perReg s w) * w ∧
    (j * perReg s w < P → t.hart.dirtyv.getLsbD (field + j) = true)

/-- The vector registers, and the dirty marks, are as before where p does not hold. -/
def Kept (s t : State) (p : Nat → Prop) : Prop :=
  (∀ q, q < 32 → ¬ p q → t.vreg q = s.vreg q) ∧
  ∀ n, ¬ p n → t.hart.dirtyv.getLsbD n = s.hart.dirtyv.getLsbD n

/-- The registers of a group. -/
def within (field g q : Nat) : Prop := field ≤ q ∧ q < field + g

/-- Everything is as before but vector registers and their dirty marks, VSTART, FCSR, EFR, the PC, the
gauntlet's sample count and the free-value counter. -/
def OnlyVector (s t : State) : Prop :=
  { t with
    free := s.free
    hart := { t.hart with
      v := s.hart.v, dirtyv := s.hart.dirtyv, pc := s.hart.pc, sample := s.hart.sample
      csr := { t.hart.csr with
        vstart := s.hart.csr.vstart, fcsr := s.hart.csr.fcsr, efr := s.hart.csr.efr } } } = s ∧
  SameBytes s t

/-- The instruction completes with VSTART 0 and flags fl ORed into FCSR, and goes on. -/
def VectorEnds (s t : State) (fl : BitVec 8) : Prop :=
  t.hart.csr.vstart = 0 ∧ t.hart.csr.fcsr = s.hart.csr.fcsr ||| fl ∧ t.hart.pc = s.hart.pc + 4

/-- The instruction writes P elements of width w over the group from field, the flags and the residual. -/
def VectorGivesE (i : Instr) (s : State) (field w P : Nat) (fl : BitVec 8) (efr : BitVec 32) (r : Nat → Nat) :
    Prop :=
  ∃ t, exec i s = .next t ∧ VectorEnds s t fl ∧ t.hart.csr.efr = efr ∧
    Written s t field (group s) w P r ∧ Kept s t (within field (group s)) ∧ OnlyVector s t

/-- The instruction writes P elements of width w over the group from field, and the flags. -/
def VectorGives (i : Instr) (s : State) (field w P : Nat) (fl : BitVec 8) (r : Nat → Nat) : Prop :=
  VectorGivesE i s field w P fl s.hart.csr.efr r

/-- The instruction completes and changes no register. -/
def VectorIdle (i : Instr) (s : State) : Prop :=
  ∃ t, exec i s = .next t ∧ VectorEnds s t 0 ∧ t.hart.csr.efr = s.hart.csr.efr ∧ t.hart.v = s.hart.v ∧
    t.hart.dirtyv = s.hart.dirtyv ∧ OnlyVector s t

/-- The flags of the elements that an elementwise instruction computes. -/
def flagsOver (s : State) (k : KReg) (f : Nat → BitVec 8) : BitVec 8 :=
  (List.range (vl s)).foldl (fun z e => if vs s ≤ e && on s k e then z ||| f e else z) 0

/-- The elementwise form (R268): active elements from VSTART below VL take r, the others keep their values; with
VSTART at or above VL nothing is written. -/
def Elementwise (i : Instr) (s : State) (d : Reg) (k : KReg) (f : Nat → BitVec 8) (r : Nat → Nat) : Prop :=
  (vl s ≤ vs s → VectorIdle i s) ∧
  (vs s < vl s → VectorGives i s d.toNat (width s) (vl s) (flagsOver s k f) fun e =>
    if vs s ≤ e ∧ on s k e = true then r e else s.elem d.toNat (width s) e)

/-- An element as its type's signedness reads it. -/
def sgn (w : Nat) (signed : Bool) (v : Nat) : Int :=
  if signed && decide (2 ^ (w - 1) ≤ v) then (v : Int) - 2 ^ w else v

/-- The low w bits of an integer. -/
def low (w : Nat) (z : Int) : Nat := (z % 2 ^ w).toNat

/-- An exact integer clamped to the range of a type. -/
def clampTo (w : Nat) (signed : Bool) (z : Int) : Nat :=
  if signed then low w (max (-2 ^ (w - 1)) (min (2 ^ (w - 1) - 1) z)) else low w (max 0 (min (2 ^ w - 1) z))

/-- The second source of an integer form (R271). -/
def second (s : State) (b : VSrc) (e : Nat) : Nat :=
  match b with
  | .vv r => s.elem r.toNat (width s) e
  | .vx r => (s.x r).toNat % 2 ^ width s
  | .vi c => low (width s) c.toInt
  | .vf r => (s.f r).toNat % 2 ^ width s

/-- The integer instructions of R276 with a second source: the result of an element. -/
def vints (d a : Reg) (b : VSrc) (k : KReg) (w : Nat) (sg : Bool) : List (Instr × (Nat → Nat → Nat)) :=
  [(.vadd d a b k, fun x y => (x + y) % 2 ^ w),
   (.vsub d a b k, fun x y => low w ((x : Int) - y)),
   (.vmul d a b k, fun x y => x * y % 2 ^ w),
   (.vmulh d a b k, fun x y => low w (sgn w sg x * sgn w sg y / 2 ^ w)),
   (.vdiv d a b k, fun x y => if y = 0 then 2 ^ w - 1 else low w ((sgn w sg x).tdiv (sgn w sg y))),
   (.vrem d a b k, fun x y => if y = 0 then x else low w ((sgn w sg x).tmod (sgn w sg y))),
   (.vand d a b k, fun x y => x &&& y), (.vor d a b k, fun x y => x ||| y), (.vxor d a b k, fun x y => x ^^^ y),
   (.vsll d a b k, fun x y => x * 2 ^ (y % w) % 2 ^ w),
   (.vsrl d a b k, fun x y => x / 2 ^ (y % w)),
   (.vsra d a b k, fun x y => low w (sgn w true x / 2 ^ (y % w))),
   (.vmin d a b k, fun x y => if sgn w sg y < sgn w sg x then y else x),
   (.vmax d a b k, fun x y => if sgn w sg x < sgn w sg y then y else x),
   (.vsadd d a b k, fun x y => clampTo w sg (sgn w sg x + sgn w sg y)),
   (.vssub d a b k, fun x y => clampTo w sg (sgn w sg x - sgn w sg y))]

/-- Integer types, and the signed ones. -/
def isInt (e : Nat) : Prop := 8 ≤ e ∧ e ≤ 15

/-- The hart stands at its target, so that a grant point changes nothing (R46). -/
def Settled (s : State) : Prop :=
  s.hart.holds = true ∧ s.hart.target = s.hart.grant ∧ s.hart.grant.lanes ≠ 0 ∧ s.hart.reclaimed = false ∧
  s.hart.required = 0 ∧ s.hart.queue = []

/-- Everything but VL, VSTART, the x registers and the PC is as before. -/
def OnlyLength (s t : State) : Prop :=
  { t with hart := { t.hart with
      x := s.hart.x, pc := s.hart.pc
      csr := { t.hart.csr with vl := s.hart.csr.vl, vstart := s.hart.csr.vstart } } } = s ∧ SameBytes s t

end Sys2Proof.Claims

/-- setvt, setvl, claim and vpidx (R57, R223, R264, R266, R267): VT takes a legal value and any other traps;
VL becomes the smaller of the request and VLMAX, x[d] takes it and VSTART is cleared; a claim takes as many
iterations as the request, VLMAX and its descriptor allow, and moves the descriptor on, in the local window or in
memory, where it traps when it is not aligned to 16 bytes; x[d] takes the progress index in elements of the current
width, once no entry of the queues is to write the register. -/
def Obligations.VectorConfiguration : Prop :=
  ∀ (s : State) (d a b : Reg) (v : BitVec 16),
    let legal := v.toNat % 32 ≤ 22 ∧ v.toNat / 256 ≤ 11 ∧ v.getLsbD 7 = false
    (legal → exec (.setvt v) s = .next (s.setCsr { s.hart.csr with vt := v }).advance) ∧
    (¬ legal → Traps (.setvt v) s 0x042 (v.setWidth 64) s.hart.pc) ∧
    (Settled s →
      let n := min (s.x a).toNat (group s * perReg s (width s))
      ∃ t, exec (.setvl d a) s = .next t ∧ t.hart.csr.vl = BitVec.ofNat 17 n ∧ t.hart.csr.vstart = 0 ∧
        XWritten s t d (BitVec.ofNat 64 n) ∧ t.hart.pc = s.hart.pc + 4 ∧ OnlyLength s t) ∧
    (let writer (e : QEntry) : Prop := e.vdst.1 ≤ a.toNat ∧ a.toNat < e.vdst.1 + e.vdst.2
     a.toNat < s.hart.bounds.vregs →
      ((∀ e ∈ s.hart.queue, ¬ writer e) → GivesX (.vpidx d a) s d
        (BitVec.ofNat 64 (((s.vreg a.toNat).pidx + width s - 1) / width s))) ∧
      ((∃ e ∈ s.hart.queue, writer e) → WaitsFor (.vpidx d a) s .held)) ∧
    (s.hart.bounds.vregs ≤ a.toNat → Traps (.vpidx d a) s 0x080 (a.setWidth 64) s.hart.pc) ∧
    ((s.x a).toNat % 16 ≠ 0 → Traps (.claim d a b) s 0x0C9 (s.x a) s.hart.pc) ∧
    (∀ off, Settled s → (s.x a).toNat % 16 = 0 → InScratch s (s.x a) 16 off → s.hart.scrBad = [] →
      let next := le (fun i => s.scrByte (off + i)) 8
      let limit := le (fun i => s.scrByte (off + 8 + i)) 8
      let n := min (s.x b).toNat (min (group s * perReg s (width s)) (limit - next))
      ∃ t, exec (.claim d a b) s = .next t ∧ t.hart.csr.vl = BitVec.ofNat 17 n ∧ t.hart.csr.vstart = 0 ∧
        XWritten s t d (BitVec.ofNat 64 next) ∧ t.hart.pc = s.hart.pc + 4 ∧
        (∀ j, t.scrByte j = if n ≠ 0 ∧ off ≤ j ∧ j < off + 8 then
          byteOf (BitVec.ofNat 64 (next + n)) (j - off) else s.scrByte j) ∧
        OnlyLength s { t with hart := { t.hart with scr := s.hart.scr } }) ∧
    (∀ s1 p, Settled s → (s.x a).toNat % 16 = 0 → inWindow (s.x a) = false → s.xlat .rw (s.x a) = .ok (p, s1) →
      Direct p 16 → Clear s p 16 → tget (s.core s.hart.core).l1 (p.pa / 256) = none → Canonical s → NoStaleCopy s p →
      let next := le (fun i => cellGet s.mem (p.pa + i)) 8
      let limit := le (fun i => cellGet s.mem (p.pa + 8 + i)) 8
      let n := min (s.x b).toNat (min (group s * perReg s (width s)) (limit - next))
      ∃ t, exec (.claim d a b) s = .next t ∧ t.hart.csr.vl = BitVec.ofNat 17 n ∧ t.hart.csr.vstart = 0 ∧
        XWritten s t d (BitVec.ofNat 64 next) ∧ t.hart.pc = s.hart.pc + 4 ∧ t.hart.tlb = s1.hart.tlb ∧
        (∀ j, cellGet t.mem j = if n ≠ 0 ∧ p.pa ≤ j ∧ j < p.pa + 8 then
          byteOf (BitVec.ofNat 64 (next + n)) (j - p.pa) else cellGet s.mem j) ∧
        OnlyOwnL1 s t ∧ memApart { t with hart := { t.hart with
          x := s.hart.x, pc := s.hart.pc, tlb := s.hart.tlb
          csr := { t.hart.csr with vl := s.hart.csr.vl, vstart := s.hart.csr.vstart } } } = memApart s)

/-- A grant point (R45 to R47, shown at setvl): where every lane of the target is free or the hart's own, the
hart takes it, and each register keeps its defined bits below the new length; where lanes of it are held by
another hart, the hart keeps what it holds; with none and a nonzero request it waits, as it does, holding no lanes,
where its target is empty. -/
def Obligations.GrantPoints : Prop :=
  ∀ (s : State) (d a : Reg), s.hart.bounds.vregs ≠ 0 → s.hart.queue = [] → s.hart.reclaimed = false →
    let meets (p q : LaneBlock) : Prop := p.base < q.base + q.lanes ∧ q.base < p.base + p.lanes
    let free := ∀ h ∈ s.others, h.core = s.hart.core → h.holds = true → ¬ meets h.grant s.hart.target
    let bits (g : LaneBlock) : Nat := g.lanes * min 16 s.hart.brim * 32
    (free → s.hart.required ≤ s.hart.target.lanes → s.hart.target.lanes ≠ 0 →
      s.hart.target.lanes ≠ s.hart.grant.lanes ∨ s.hart.holds = false →
      ∃ t, exec (.setvl d a) s = .next t ∧ t.hart.grant = s.hart.target ∧ t.hart.holds = true ∧
        t.hart.required = 0 ∧ t.hart.pc = s.hart.pc + 4 ∧
        t.hart.csr.vl.toNat = min (s.x a).toNat (group s * (bits s.hart.target / width s)) % 2 ^ 17 ∧
        (∀ q, q < 32 → (t.vreg q).pidx = min (s.vreg q).pidx (bits s.hart.target) ∧
          ∀ p, p < (t.vreg q).pidx → p < 32768 → (t.vreg q).bits.getLsbD p = (s.vreg q).bits.getLsbD p) ∧
        { t with
          free := s.free
          hart := { t.hart with
            x := s.hart.x, pc := s.hart.pc, v := s.hart.v, grant := s.hart.grant, holds := s.hart.holds
            required := s.hart.required
            csr := { t.hart.csr with vl := s.hart.csr.vl, vstart := s.hart.csr.vstart } } } = s) ∧
    (¬ free → s.hart.target.lanes ≠ 0 → s.hart.holds = true → s.hart.grant.lanes ≠ 0 →
      ∃ t, exec (.setvl d a) s = .next t ∧ t.hart.grant = s.hart.grant ∧ t.hart.holds = true ∧
        t.hart.csr.vl.toNat = min (s.x a).toNat (group s * perReg s (width s)) % 2 ^ 17 ∧ OnlyLength s t) ∧
    (¬ free → s.hart.holds = false → s.x a ≠ 0 → exec (.setvl d a) s = .next (s.sleep .lanes)) ∧
    (s.hart.target = ⟨0, 0⟩ → s.hart.required = 0 → s.x a ≠ 0 →
      ∃ t, exec (.setvl d a) s = .next t ∧ t.hart.status = .laneWaiting ∧ t.hart.wait = .lanes ∧
        t.hart.grant.lanes = 0 ∧ t.hart.pc = s.hart.pc ∧ t.hart.csr = s.hart.csr ∧ (∀ r : Reg, t.x r = s.x r) ∧
        SameBytes s t)

/-- The integer vector instructions (R268, R271, R276, R277): each active element from VSTART below VL takes
the instruction's result, in the type's width and signedness, from vv, vx and vi sources; vmerge writes every
element, vmv copies; no flag is set. -/
def Obligations.VectorIntegerResults : Prop :=
  ∀ (s : State) (d a : Reg) (b : VSrc) (k : KReg), Issues s → isInt (etype s) →
    let w := width s
    let sg := decide (etype s ≤ 11)
    let x (e : Nat) : Nat := s.elem a.toNat w e
    (Fits s ([d.toNat, a.toNat] ++ srcFields b) → (∀ r, b ≠ .vf r) →
      (∀ m ∈ vints d a b k w sg, Elementwise m.1 s d k (fun _ => 0) fun e => m.2 (x e) (second s b e)) ∧
      Elementwise (.vmerge d a b k) s d 0 (fun _ => 0) fun e => if on s k e = true then second s b e else x e) ∧
    (Fits s [d.toNat, a.toNat] → Elementwise (.vmv d a k) s d k (fun _ => 0) x)

namespace Sys2Proof.Claims

/-- The second source of a float form (R271): a vi constant as R271 converts it. -/
def secondF (s : State) (b : VSrc) (e : Nat) : Nat :=
  match b with
  | .vv r => s.elem r.toNat (width s) e
  | .vx r => (s.x r).toNat % 2 ^ width s
  | .vi c => viValue (etype s) c
  | .vf r => (s.f r).toNat % 2 ^ width s

/-- The rounding mode of FCSR.RM. -/
def mode (s : State) : Rm := rmOf (s.hart.csr.fcsr.toNat / 32)

/-- The float instructions of R278 with a second source: the rounded result of A, B and the old D. -/
def vfps (d a : Reg) (b : VSrc) (k : KReg) (f : FFmt) (rm : Rm) (w : Nat) :
    List (Instr × (Nat → Nat → Nat → Rounded)) :=
  let n := f.decode
  [(.vfadd d a b k, fun x y _ => f.result rm (Machine.Num.add rm (n x) (n y))),
   (.vfsub d a b k, fun x y _ => f.result rm (Machine.Num.add rm (n x) (n y).neg)),
   (.vfmul d a b k, fun x y _ => f.result rm (Machine.Num.mul (n x) (n y))),
   (.vfdiv d a b k, fun x y _ => f.result rm (Machine.Num.div (n x) (n y))),
   (.vfma d a b k, fun x y z => f.result rm (Machine.Num.fma rm (n x) (n y) (n z))),
   (.vfms d a b k, fun x y z => f.result rm (Machine.Num.fma rm (n x) (n y) (n z).neg)),
   (.vfnma d a b k, fun x y z => f.result rm (Machine.Num.fma rm (n x).neg (n y) (n z))),
   (.vfmin d a b k, fun x y _ => f.minmax false x y),
   (.vfmax d a b k, fun x y _ => f.minmax true x y),
   (.vfsgnj d a b k, fun x y _ => ⟨x % 2 ^ (w - 1) + y / 2 ^ (w - 1) % 2 * 2 ^ (w - 1), 0⟩)]

/-- The float instructions of R278 with one source. -/
def vfp1s (d a : Reg) (k : KReg) (f : FFmt) (rm : Rm) (w : Nat) : List (Instr × (Nat → Rounded)) :=
  let n := f.decode
  [(.vfsqrt d a k, fun x => f.sqrt rm (n x)), (.vfrsqrt d a k, fun x => f.rsqrt rm (n x)),
   (.vfexp d a k, fun x => f.expNum rm (n x)),
   (.vfcvtXF d a k, fun x => let r := intConvert w (.mode rm) (n x); ⟨low w r.1, r.2⟩),
   (.vfcvtFX d a k, fun x => f.convert (.mode rm) (Machine.Num.ofInt (sgn w true x))),
   (.vfclass d a k, fun x => ⟨f.classify x, 0⟩)]

/-- The element formats of VFP with their exponent and fraction widths and their bias (R143, R278). -/
def vfpFormats : List (FFmt × Nat × Nat × Int) := [(fp32, 8, 23, 127), (bf16, 8, 7, 127), (fp16, 5, 10, 15)]

/-- The special values of VFP (R144, R255, R279), for a code x, a second code y and a mode: the class bits; minima and
maxima, which order −0 below +0 and give way to the operand that is no NaN; and the roots and the exponential of zeros,
infinities, NaNs and, for the roots, negative numbers. A NaN counts as signalling in BF16 and FP16, and in FP32 where its
most significant fraction bit is 0. -/
def VfpSpecials (f : FFmt) (w fr : Nat) (bias : Int) (rm : Rm) (x y : Nat) : Prop :=
  let top := 2 ^ w - 1
  let e (v : Nat) := v / 2 ^ fr % 2 ^ w
  let m (v : Nat) := v % 2 ^ fr
  let neg (v : Nat) := v.testBit (w + fr)
  let nan (v : Nat) : Prop := e v = top ∧ m v ≠ 0
  let sig (v : Nat) : Prop := nan v ∧ (f = fp32 → v.testBit 22 = false)
  let inf (v : Nat) : Prop := e v = top ∧ m v = 0
  let zero (v : Nat) : Prop := e v = 0 ∧ m v = 0
  let value (v : Nat) : ℚ := (if neg v then -1 else 1) *
    (if e v = 0 then (m v : ℚ) * 2 ^ (1 - bias - fr) else ((2 ^ fr + m v : Nat) : ℚ) * 2 ^ ((e v : Int) - bias - fr))
  let pinf := top * 2 ^ fr
  let cnan := pinf + 2 ^ (fr - 1)
  let minf := pinf + 2 ^ (w + fr)
  let gives (r : Rounded) (c : Nat) (fl : BitVec 8) : Prop := r.code = c ∧ r.flags = fl
  let lt := value x < value y ∨ value x = value y ∧ neg x = true ∧ neg y = false
  let gt := value y < value x ∨ value x = value y ∧ neg x = false ∧ neg y = true
  (nan x → f.classify x = if sig x then 2 ^ 8 else 2 ^ 9) ∧
  (inf x → f.classify x = if neg x then 2 ^ 0 else 2 ^ 7) ∧
  (zero x → f.classify x = if neg x then 2 ^ 3 else 2 ^ 4) ∧
  (e x = 0 → ¬ zero x → f.classify x = if neg x then 2 ^ 2 else 2 ^ 5) ∧
  (e x ≠ 0 → e x ≠ top → f.classify x = if neg x then 2 ^ 1 else 2 ^ 6) ∧
  (¬ nan x → ¬ nan y → gives (f.minmax false x y) (if gt then y else x) 0 ∧
    gives (f.minmax true x y) (if lt then y else x) 0) ∧
  (nan x ∨ nan y → ∀ b, gives (f.minmax b x y) (if ¬ nan x then x else if ¬ nan y then y else cnan)
    (nv (sig x ∨ sig y))) ∧
  (nan x → ∀ r ∈ [f.sqrt rm (f.decode x), f.rsqrt rm (f.decode x), f.expNum rm (f.decode x)],
    gives r cnan (nv (sig x))) ∧
  (zero x → gives (f.sqrt rm (f.decode x)) x 0 ∧
    gives (f.rsqrt rm (f.decode x)) (if neg x then minf else pinf) 0x08 ∧
    gives (f.expNum rm (f.decode x)) (bias.toNat * 2 ^ fr) 0) ∧
  (¬ nan x → ¬ zero x → neg x = true → gives (f.sqrt rm (f.decode x)) cnan 0x10 ∧
    gives (f.rsqrt rm (f.decode x)) cnan 0x10) ∧
  (inf x → neg x = false → gives (f.sqrt rm (f.decode x)) pinf 0 ∧ gives (f.rsqrt rm (f.decode x)) 0 0) ∧
  (inf x → gives (f.expNum rm (f.decode x)) (if neg x then 0 else pinf) 0) ∧
  (¬ nan x → ¬ inf x → 200 < value x →
    gives (f.expNum rm (f.decode x)) (if rm = .rtz ∨ rm = .rdn then pinf - 1 else pinf) 0x05) ∧
  (¬ nan x → ¬ inf x → value x < -200 → gives (f.expNum rm (f.decode x)) (if rm = .rup then 1 else 0) 0x03)

/-- The compares of R280: the condition on an order, and on two integers. -/
def vcmps (kd : KReg) (a : Reg) (b : VSrc) (k : KReg) : List (Instr × Cmp × (Int → Int → Bool)) :=
  [(.vcmpEq kd a b k, .eq, fun x y => decide (x = y)), (.vcmpNe kd a b k, .ne, fun x y => decide (x ≠ y)),
   (.vcmpLt kd a b k, .lt, fun x y => decide (x < y)), (.vcmpLe kd a b k, .le, fun x y => decide (x ≤ y)),
   (.vcmpGt kd a b k, .gt, fun x y => decide (y < x)), (.vcmpGe kd a b k, .ge, fun x y => decide (y ≤ x))]

/-- The instruction writes mask register kd: bit e is r e; the other masks, and everything but VSTART, FCSR, the
PC and the sample count, are as before. -/
def MaskGives (i : Instr) (s : State) (kd : KReg) (fl : BitVec 8) (r : Nat → Bool) : Prop :=
  ∃ t, exec i s = .next t ∧ VectorEnds s t fl ∧
    (∀ e, e < 65536 → (t.mask kd).getLsbD e = r e) ∧ (∀ q : KReg, q ≠ kd → t.mask q = s.mask q) ∧
    { t with hart := { t.hart with
        k := s.hart.k, pc := s.hart.pc, sample := s.hart.sample
        csr := { t.hart.csr with vstart := s.hart.csr.vstart, fcsr := s.hart.csr.fcsr } } } = s ∧ SameBytes s t

/-- The instruction writes x[d] and clears VSTART. -/
def VectorGivesX (i : Instr) (s : State) (d : Reg) (v : Word) : Prop :=
  ∃ t, exec i s = .next t ∧ VectorEnds s t 0 ∧ XWritten s t d v ∧
    { t with hart := { t.hart with
        x := s.hart.x, pc := s.hart.pc, sample := s.hart.sample
        csr := { t.hart.csr with vstart := s.hart.csr.vstart, fcsr := s.hart.csr.fcsr } } } = s ∧ SameBytes s t

/-- The set bits of a mask below VL. -/
def maskOnes (s : State) (k : KReg) : Nat := (List.range (vl s)).countP fun e => on s k e

end Sys2Proof.Claims

/-- The floating-point vector instructions (R268, R271, R278, R279): each active element is computed exactly
and rounded once under FCSR.RM, and the flags of the active elements are ORed into FCSR. The exact arithmetic and
the rounding are the model's own (Flags.lean): RoundedOnce and ExactArithmetic say what they are, and the first clause
says what minima, maxima, classes and the special values of the roots and the exponential are. -/
def Obligations.VectorFloatResults : Prop :=
  (∀ p ∈ vfpFormats, ∀ (rm : Rm) (x y : Nat), x < 2 ^ (p.2.1 + p.2.2.1 + 1) → y < 2 ^ (p.2.1 + p.2.2.1 + 1) →
    VfpSpecials p.1 p.2.1 p.2.2.1 p.2.2.2 rm x y) ∧
  ∀ (s : State) (d a : Reg) (b : VSrc) (k : KReg), Issues s → etype s ≤ 2 →
    let w := width s
    let f := ffmt (etype s)
    let x (e : Nat) : Nat := s.elem a.toNat w e
    (Fits s ([d.toNat, a.toNat] ++ srcFields b) → (∀ r, b ≠ .vx r) →
      ∀ m ∈ vfps d a b k f (mode s) w,
        let r (e : Nat) := m.2 (x e) (secondF s b e) (s.elem d.toNat w e)
        Elementwise m.1 s d k (fun e => (r e).flags) fun e => (r e).code) ∧
    (Fits s [d.toNat, a.toNat] → ∀ m ∈ vfp1s d a k f (mode s) w,
        Elementwise m.1 s d k (fun e => (m.2 (x e)).flags) fun e => (m.2 (x e)).code)

/-- Compares, mask logic and mask summaries (R280, R281): a compare writes the bits of active elements from
VSTART below VL and clears the bits from VL on; mask logic writes every bit below VL and clears the rest; a
summary goes to x[d]. -/
def Obligations.MaskResults : Prop :=
  ∀ (s : State) (kd ka kb k : KReg) (a d : Reg) (b : VSrc), Issues s →
    let w := width s
    let x (e : Nat) : Nat := s.elem a.toNat w e
    (kd ≠ 0 → Fits s (a.toNat :: srcFields b) → etype s ≤ 15 →
      ∀ m ∈ vcmps kd a b k,
        let given (fl : BitVec 8) (r : Nat → Bool) : Prop :=
          (vl s ≤ vs s → VectorIdle m.1 s) ∧
          (vs s < vl s → MaskGives m.1 s kd fl fun e => decide (e < vl s) &&
            (if vs s ≤ e ∧ on s k e = true then r e else (s.mask kd).getLsbD e))
        (isInt (etype s) → (∀ r, b ≠ .vf r) →
          given 0 fun e => m.2.2 (sgn w (decide (etype s ≤ 11)) (x e)) (sgn w (decide (etype s ≤ 11)) (second s b e))) ∧
        (etype s ≤ 7 → (∀ r, b ≠ .vx r) →
          let f := ffmt (etype s)
          let r (e : Nat) := Machine.Num.compare m.2.1 (f.decode (x e % 2 ^ (f.low + 1)))
            (f.decode (secondF s b e % 2 ^ (f.low + 1)))
          given (flagsOver s k fun e => (r e).2) fun e => (r e).1)) ∧
    (s.hart.grant.lanes ≤ 64 → vl s ≤ group s * perReg s w →
      (kd ≠ 0 → ∀ m ∈ [(Instr.kand kd ka kb, fun x y : Bool => x && y), (.kor kd ka kb, fun x y => x || y),
          (.kxor kd ka kb, fun x y => x != y), (.knot kd ka, fun x _ => !x)],
        MaskGives m.1 s kd 0 fun e => decide (e < vl s) && m.2 (on s ka e) (on s kb e)) ∧
      VectorGivesX (.kany d ka) s d (if maskOnes s ka = 0 then 0 else 1) ∧
      VectorGivesX (.kall d ka) s d (if maskOnes s ka = vl s then 1 else 0) ∧
      VectorGivesX (.kcount d ka) s d (BitVec.ofNat 64 (maskOnes s ka)))


/-! ### Permutes, reductions and scans -/

namespace Sys2Proof.Claims

/-- The kind of a second source matches a type (R271). -/
def Matches (b : VSrc) (e : Nat) : Prop :=
  match b with
  | .vv _ => True
  | .vx _ => isInt e
  | .vi _ => True
  | .vf _ => e ≤ 7

/-- The unsigned scalar of a permute (R282). -/
def shiftBy (s : State) (b : VSrc) : Nat :=
  match b with
  | .vv r => s.elem r.toNat (width s) 0
  | .vx r => (s.x r).toNat
  | .vi c => c.toNat
  | .vf r => (s.f r).toNat

/-- The permutes of R282 that keep masked-off elements: the element a permute gives, or none where the old one
stays. -/
def perms (s : State) (d a : Reg) (b : VSrc) (k : KReg) : List (Instr × (Nat → Option Nat)) :=
  let x (e : Nat) : Nat := s.elem a.toNat (width s) e
  let v := shiftBy s b
  let at_ (j : Nat) : Option Nat := some (if j < vl s then x j else 0)
  [(.vshup d a b k, fun e => if v ≤ e then some (x (e - v)) else none),
   (.vshdn d a b k, fun e => at_ (e + v)), (.vrev d a k, fun e => some (x (vl s - 1 - e))),
   (.vbcast d a b k, fun _ => at_ (v % 2 ^ width s)),
   (.vinsx d a b k, fun e => some (if e = 0 then v % 2 ^ width s else x (e - 1)))]

/-- A whole instruction: with VL = 0 nothing is written (R42), else P elements. -/
def Whole (i : Instr) (s : State) (d : Reg) (w P : Nat) (fl : BitVec 8) (r : Nat → Nat) : Prop :=
  (vl s = 0 → VectorIdle i s) ∧ (vl s ≠ 0 → VectorGives i s d.toNat w P fl r)

/-- How values combine in a reduction: addition, maximum or minimum, of integers and of floats (R284). -/
def combine (s : State) (c : Combine) (x y : Nat) : Rounded :=
  let w := width s
  let sg := decide (etype s ≤ 11)
  if etype s ≤ 7 then
    let f := ffmt (etype s)
    let m := 2 ^ (f.low + 1)
    match c with
    | .sum => f.result (mode s) (Machine.Num.add (mode s) (f.decode (x % m)) (f.decode (y % m)))
    | .max => f.minmax true (x % m) (y % m)
    | .min => f.minmax false (x % m) (y % m)
  else
    match c with
    | .sum => ⟨(x + y) % 2 ^ w, 0⟩
    | .max => ⟨if sgn w sg x < sgn w sg y then y else x, 0⟩
    | .min => ⟨if sgn w sg y < sgn w sg x then y else x, 0⟩

/-- Values combined with a seed in ascending order, with the flags of every step. -/
def inOrder (op : Nat → Nat → Rounded) (seed : Nat) (l : List Nat) : Rounded :=
  l.foldl (fun z v => ⟨(op z.code v).code, z.flags ||| (op z.code v).flags⟩) ⟨seed, 0⟩

/-- What some values give when they are combined pairwise, in any order and any shape. -/
inductive Pairwise (op : Nat → Nat → Rounded) : Multiset Nat → Nat → BitVec 8 → Prop
  | one (x : Nat) : Pairwise op {x} x 0
  | two (p q : Multiset Nat) (x y : Nat) (f g : BitVec 8) : Pairwise op p x f → Pairwise op q y g →
      Pairwise op (p + q) (op x y).code (f ||| g ||| (op x y).flags)

/-- The active elements of a register from n on, below m, in ascending order. -/
def actives (s : State) (a : Reg) (k : KReg) (n m : Nat) : List Nat :=
  ((List.range m).filter fun e => decide (n ≤ e) && on s k e).map fun e => s.elem a.toNat (width s) e

/-- The flags of numbered steps below n, of those that count. -/
def orFlags (n : Nat) (p : Nat → Bool) (f : Nat → BitVec 8) : BitVec 8 :=
  (List.range n).foldl (fun z e => if p e then z ||| f e else z) 0

end Sys2Proof.Claims

/-- Permutes (R282, R283): each active element below VL takes the element that the permute names, and
masked-off elements keep their values; vcondense packs the active elements and writes zeros after them; vextx
gives one element to x[d], or 0 beyond VL. Nothing is written at VL = 0. -/
def Obligations.VectorPermutes : Prop :=
  ∀ (s : State) (d a c : Reg) (b : VSrc) (k : KReg), Issues s → etype s ≤ 15 →
    let w := width s
    let x (e : Nat) : Nat := s.elem a.toNat w e
    let old (e : Nat) : Nat := s.elem d.toNat w e
    (Fits s ([d.toNat, a.toNat] ++ srcFields b) → Matches b (etype s) → ∀ m ∈ perms s d a b k,
      Whole m.1 s d w (vl s) 0 fun e => if on s k e = true then (m.2 e).getD (old e) else old e) ∧
    (Fits s [d.toNat, a.toNat, c.toNat] → Whole (.vpick d a c k) s d w (vl s) 0 fun e =>
      if on s k e = true then (if s.elem c.toNat w e < vl s then x (s.elem c.toNat w e) else 0) else old e) ∧
    (Fits s [d.toNat, a.toNat] → Whole (.vcondense d a k) s d w (vl s) 0 fun e =>
      (actives s a k 0 (vl s)).getD e 0) ∧
    (Fits s [a.toNat] → VectorGivesX (.vextx d a c) s d
      (let v := if (s.x c).toNat < vl s then x (s.x c).toNat else 0
       if 8 ≤ etype s ∧ etype s ≤ 11 then BitVec.ofInt 64 (sgn w true v) else BitVec.ofNat 64 v))

/-- Reductions and scans (R274, R284, R285): the ordered forms combine the seed v[b].e[0] and the active
elements in ascending order; vredsum and vscan combine them pairwise in some order, and under DET they trap;
vsegred.o reduces each segment with its own seed. -/
def Obligations.VectorReductions : Prop :=
  ∀ (s : State) (d a b : Reg) (k : KReg), Issues s → etype s ≤ 15 → Fits s [d.toNat, a.toNat, b.toNat] →
    let w := width s
    let seed := s.elem b.toNat w 0
    let old (e : Nat) : Nat := s.elem d.toNat w e
    let red (i : Instr) (c : Combine) : Prop :=
      let r := inOrder (combine s c) seed (actives s a k 0 (vl s))
      Whole i s d w 1 r.flags fun _ => r.code
    let scan (i : Instr) (c : Combine) : Prop :=
      let r (e : Nat) := inOrder (combine s c) seed (actives s a k 0 (e + 1))
      Whole i s d w (vl s) (inOrder (combine s c) seed (actives s a k 0 (vl s))).flags fun e =>
        if on s k e = true then (r e).code else old e
    let L := if shape s = 0 then max 1 (vl s) else 2 ^ (shape s - 1)
    let segs := (vl s + L - 1) / L
    red (.vredsumO d a b k) .sum ∧ red (.vredmax d a b k) .max ∧ red (.vredmin d a b k) .min ∧
    scan (.vscanO d a b k) .sum ∧ scan (.vscanmax d a b k) .max ∧
    (let r (g : Nat) := inOrder (combine s .sum) (s.elem b.toNat w g)
        (actives s a k (g * L) (min (g * L + L) (vl s)))
     Whole (.vsegredO d a b k) s d w segs (orFlags segs (fun _ => true) fun g => (r g).flags) fun g => (r g).code) ∧
    (s.hart.csr.det = false →
      (∃ v fl, Pairwise (combine s .sum) (seed ::ₘ (actives s a k 0 (vl s) : Multiset Nat)) v fl ∧
        Whole (.vredsum d a b k) s d w 1 fl fun _ => v) ∧
      (∃ (v : Nat → Nat) (fl : Nat → BitVec 8),
        (∀ e, e < vl s → on s k e = true →
          Pairwise (combine s .sum) (seed ::ₘ (actives s a k 0 (e + 1) : Multiset Nat)) (v e) (fl e)) ∧
        Whole (.vscan d a b k) s d w (vl s) (orFlags (vl s) (on s k) fl) fun e =>
          if on s k e = true then v e else old e)) ∧
    (s.hart.csr.det = true →
      Traps (.vredsum d a b k) s 0x280 ((encode (.vredsum d a b k)).setWidth 64) s.hart.pc ∧
      Traps (.vscan d a b k) s 0x281 ((encode (.vscan d a b k)).setWidth 64) s.hart.pc)

/-! ### Narrow formats -/

namespace Sys2Proof.Claims

/-- Scale registers lie within the kernel's registers and v31 (R233, R287). -/
def Scales (s : State) (l : List Nat) : Prop := ∀ f ∈ l, f < s.hart.bounds.vregs ∧ f ≤ 31

/-- A source of a format has a scale register (R287). -/
def Scaled (D : Desc) (fmt : Nat) : Prop := D.scale = 1 ∨ D.scale = 2 ∨ (D.scale = 3 ∧ fmt = 10)

/-- The scale registers of a source. -/
noncomputable def scaleOfSrc (s : State) (D : Desc) (field fmt : Nat) : List Nat := by
  classical exact if Scaled D fmt then [field + group s] else []

/-- A destination span is a source span of the same width, or meets no source and no scale register (R287). -/
def Apart (g : Nat) (dst : List (Nat × Nat)) (dw : Nat) (srcs : List (Nat × Nat)) (scales : List Nat) : Prop :=
  (∃ d, dst = [(d, g)] ∧ (d, dw) ∈ srcs) ∨
  ∀ d ∈ dst, (∀ p ∈ srcs, d.1 + d.2 ≤ p.1 ∨ p.1 + g ≤ d.1) ∧ (∀ f ∈ scales, d.1 + d.2 ≤ f ∨ f + 1 ≤ d.1)

/-- The scale of element i of a source (R160, R287). -/
def scaleAt (s : State) (D : Desc) (field fmt i : Nat) : Machine.Num :=
  if D.scale = 1 ∨ (D.scale = 3 ∧ fmt = 10) then e8m0 (s.elem (field + group s) 8 (i / 32))
  else if D.scale = 2 then fp32.decode (s.elem (field + group s) 32 0)
  else .fin false 1 0 1

/-- The counter operands of stochastic rounding (R287). -/
def draws (s : State) (fd : Reg) : DrawOps where
  key := s.hart.seed
  S := (s.x (fd + 1)).toNat % 2 ^ 32
  P := (s.x (fd + 1)).toNat / 2 ^ 32
  D := (s.x (fd + 2)).toNat % 2 ^ 32

/-- EFR before element n: each active element passes on its own residual (R157). -/
def residual (step : BitVec 32 → Nat → Rounded × BitVec 32) (act : Nat → Bool) (e0 : BitVec 32) :
    Nat → BitVec 32
  | 0 => e0
  | n + 1 => if act n then (step (residual step act e0 n) n).2 else residual step act e0 n

/-- The bit of byte B of plane form (R291): bit b of it is bit 7 − q of element 1024 t + 8 o + b. -/
def planeBit (code : Nat → Nat) (B b : Nat) : Bool :=
  (code (1024 * (B / 1024) + 8 * (B % 128) + b)).testBit (7 - B % 1024 / 128)

end Sys2Proof.Claims

/-- Narrow-format instructions (R227, R286 to R291), from a legal descriptor: vdot16 adds the products of the
active terms of each 16 elements into a 32-bit element; vdeq, vcvt and vquant convert each active element
under RND, passing the residual of error feedback on from element to element, and vquant chooses the scale of
each block of its active elements, and gives a block of zeros a zero of each one's sign (R161), with EFR and the flags as they are (the model's choice,
assumption log 11); vbpack and vbunpack move codes to and from plane form. The group sums, the
block scale and the one rounding are the model's own functions (Formats.lean). -/
def Obligations.NarrowResults : Prop :=
  ∀ (s : State) (d a b fd : Reg) (k : KReg), Issues s → Fits s [d.toNat, a.toNat] →
    let D := Desc.of (s.x fd)
    let g := group s
    let w1 := fmtWidth D.src1
    let dw := fmtWidth D.dst
    let sa := scaleOfSrc s D a.toNat D.src1
    w1 = width s → (D.rnd = 6 → fd.toNat ≤ 29) →
    -- vdot16
    (let sb := scaleOfSrc s D b.toNat D.src2
     let w2 := fmtWidth D.src2
     D.check (dotAccept D) (s.x fd) = .ok () → Fits s [b.toNat] → Scales s (sa ++ sb) →
     Apart g [(d.toNat, g)] 32 [(a.toNat, w1), (b.toNat, w2)] (sa ++ sb) →
     (vl s = 0 → VectorIdle (.vdot16 d a b fd k) s) ∧
     (vl s ≠ 0 → VectorGives (.vdot16 d a b fd k) s d.toNat 32 ((vl s + 15) / 16) 0 fun j =>
       let terms := ((List.range 16).map (16 * j + ·)).filter fun e => e < vl s && on s k e
       let A := scaleAt s D a.toNat D.src1
       let B := scaleAt s D b.toNat D.src2
       if vs s / 16 ≤ j ∧ terms ≠ [] then
         dotTerms D (s.elem d.toNat 32 j) terms (s.elem a.toNat w1) (s.elem b.toNat w2) A B
           ((A (16 * j)).mul (B (16 * j))).1
       else s.elem d.toNat 32 j)) ∧
    -- vdeq and vcvt
    (∀ m ∈ [(Instr.vdeq d a fd k, deqAccept, sa, fun e : Nat =>
          ((srcNum D.src1 D.p false (s.elem a.toNat w1 e)).scaled (scaleAt s D a.toNat D.src1 e)).flushed D.flush),
        (.vcvt d a fd k, cvtAccept, [], fun e => (fmtNum D.src1 (s.elem a.toNat w1 e)).flushed D.flush)],
      D.check m.2.1 (s.x fd) = .ok () → Scales s m.2.2.1 →
      Apart g [(d.toNat, g)] dw [(a.toNat, w1)] m.2.2.1 → vl s ≤ g * perReg s dw →
      let step (r : BitVec 32) (e : Nat) := convertRnd D.dst D.rnd D.flush (draws s fd) r e (m.2.2.2 e)
      let act (e : Nat) : Bool := decide (vs s ≤ e) && on s k e
      let res := residual step act s.hart.csr.efr
      (vl s ≤ vs s → VectorIdle m.1 s) ∧
      (vs s < vl s → VectorGivesE m.1 s d.toNat dw (vl s) (orFlags (vl s) act fun e => (step (res e) e).1.flags)
        (res (vl s)) fun e => if act e = true then (step (res e) e).1.code else s.elem d.toNat dw e)) ∧
    -- vquant
    (let sc := if D.scale = 0 then [] else [d.toNat + g]
     let block := D.scale = 1 ∨ D.scale = 3
     D.check quantAccept (s.x fd) = .ok () → Scales s sc →
     Apart g ((d.toNat, g) :: if D.scale = 1 ∨ D.scale = 3 then [(d.toNat + g, 1)] else []) dw [(a.toNat, w1)]
       (if D.scale = 2 then sc else []) →
     let act (e : Nat) : Bool := decide (vs s / 32 * 32 ≤ e) && on s k e
     let x (e : Nat) := (fmtNum D.src1 (s.elem a.toNat w1 e)).flushed D.flush
     let of (q : Nat) := ((List.range 32).map (32 * q + ·)).filter fun e => e < vl s && act e
     let code (q : Nat) := blockScale D.dst ((of q).map x)
     let y (e : Nat) : Machine.Num :=
       if D.scale = 2 then (x e).unscaled (fp32.decode (s.elem (d.toNat + g) 32 0))
       else if D.scale = 0 then x e else byBlockScale (code (e / 32)) (x e)
     let step (r : BitVec 32) (e : Nat) : Rounded × BitVec 32 :=
       if (D.scale = 1 ∨ D.scale = 3) ∧ ∀ j ∈ of (e / 32), (x j).isZero = true then
         (⟨if isFloatFmt D.dst ∧ (x e).sign = true then 2 ^ (dw - 1) else 0, 0⟩, r)
       else convertRnd D.dst D.rnd D.flush (draws s fd) r e (y e)
     let res := residual step act s.hart.csr.efr
     (vl s = 0 → VectorIdle (.vquant d a fd k) s) ∧
     (vl s ≠ 0 → ∃ t, exec (.vquant d a fd k) s = .next t ∧
       VectorEnds s t (orFlags (vl s) act fun e => (step (res e) e).1.flags) ∧ t.hart.csr.efr = res (vl s) ∧
       Written s t d.toNat g dw (vl s) (fun e =>
         if act e = true then (step (res e) e).1.code else s.elem d.toNat dw e) ∧
       (block → Written s t (d.toNat + g) 1 8 ((vl s + 31) / 32) fun q =>
         if of q = [] then s.elem (d.toNat + g) 8 q else code q) ∧
       Kept s t (fun q => within d.toNat g q ∨ (block ∧ q = d.toNat + g)) ∧ OnlyVector s t)) ∧
    -- vbpack and vbunpack
    (1024 ≤ g * perReg s 8 → Apart g [(d.toNat, g)] 8 [(a.toNat, 8)] [] →
      (D.check packAccept (s.x fd) = .ok () →
        (vl s = 0 → VectorIdle (.vbpack d a fd k) s) ∧
        (vl s ≠ 0 → ∃ r : Nat → Nat,
          VectorGives (.vbpack d a fd k) s d.toNat 8 ((vl s + 1023) / 1024 * 1024) 0 r ∧
          ∀ B, B < (vl s + 1023) / 1024 * 1024 →
            (B < vs s / 1024 * 1024 → r B = s.elem d.toNat 8 B) ∧
            (vs s / 1024 * 1024 ≤ B → ∀ n, n < 8 → (r B).testBit n =
              planeBit (fun e => if e < vl s ∧ on s k e = true then s.elem a.toNat 8 e else 0) B n))) ∧
      (D.check unpackAccept (s.x fd) = .ok () →
        (vl s = 0 → VectorIdle (.vbunpack d a fd k) s) ∧
        (vl s ≠ 0 → VectorGives (.vbunpack d a fd k) s d.toNat 8 (vl s) 0 fun e =>
          if vs s / 1024 * 1024 ≤ e ∧ on s k e = true then
            let plane (q : Nat) : Bool :=
              (s.elem a.toNat 8 (1024 * (e / 1024) + 128 * q + e % 1024 / 8)).testBit (e % 8)
            let u := ((List.range D.p).map fun q => if plane q then 2 ^ (7 - q) else 0).sum
            low 8 (sgn 8 true u + if D.rnd = 1 ∧ D.p < 8 then 2 ^ (7 - D.p) else 0)
          else s.elem d.toNat 8 e)))

/-! ### The attention chain, selection and sampling -/

namespace Sys2Proof.Claims

/-- The segment length of the chain, and the number of heads (R332, R334). -/
def headLen (s : State) : Nat := 2 ^ (shape s - 1)

/-- The number of heads. -/
def headCount (s : State) : Nat := (vl s + headLen s - 1) / headLen s

/-- A chain instruction is legal (R225, R226, R265, R332, R334): f32, a SHAPE, at most 64 heads, VL within the
grant. -/
def ChainFits (s : State) (fields : List Nat) : Prop :=
  Fits s fields ∧ etype s = 0 ∧ shape s ≠ 0 ∧ headCount s ≤ 64

/-- A window offset reads n bytes within the declared scratchpad (R333), whose words are not in error (R431). -/
def OffsetFits (s : State) (o n : Nat) : Prop :=
  o % 4 = 0 ∧ (n = 0 ∨ o + n ≤ s.hart.bounds.scratch) ∧ s.hart.scrBad = []

/-- The FP32 word at an offset of the scratchpad. -/
def scrWordAt (s : State) (o : Nat) : Nat := le (fun i => s.scrByte (o + i)) 4

/-- The elements of head h (R334). -/
def headPart (s : State) (h : Nat) : List Nat := (List.range (vl s)).filter fun e => e / headLen s == h

/-- Everything but the chain, vector registers, one mask register, dirty marks, VSTART, the PC, the sample count
and the free-value counter is as before. -/
def OnlyChain (s t : State) : Prop :=
  { t with
    free := s.free
    hart := { t.hart with
      chain := s.hart.chain, v := s.hart.v, k := s.hart.k, dirtyv := s.hart.dirtyv, pc := s.hart.pc
      sample := s.hart.sample
      csr := { t.hart.csr with vstart := s.hart.csr.vstart } } } = s ∧ SameBytes s t

/-- A chain instruction ends: its chain, DIRTYV.CHAIN set (R375), and the vector registers as before. -/
def ChainEnds (i : Instr) (s : State) (p : Chain → Prop) : Prop :=
  ∃ t, exec i s = .next t ∧ VectorEnds s t 0 ∧ p t.hart.chain ∧ t.hart.dirtyv.getLsbD 40 = true ∧
    t.hart.v = s.hart.v ∧ t.hart.k = s.hart.k ∧ Kept s t (fun n => n = 40) ∧ OnlyChain s t

/-- Head h of a chain. -/
def headOf (c : Chain) (h : Nat) : Head := c.heads.toList.getD h Head.reset

/-- vexpm of one head (R336). -/
def Exponentiated (o n : Head) : Prop :=
  let sc (j : Nat) : Nat := (o.s.toList.getD j 0).toNat
  let m := (List.range 16).foldl (fun z j =>
    if o.valid.getLsbD j = true then (fp32.minmax true z (sc j)).code else z) o.m.toNat
  let a := if (fp32.decode m).cmp (fp32.decode o.m.toNat) = .eq then 0x3F800000 else expDiff o.m.toNat m
  let p (j : Nat) : Nat := if o.valid.getLsbD j = false ∨ sc j = 0xFF800000 then 0 else expDiff (sc j) m
  n.m.toNat = m % 2 ^ 32 ∧ n.alpha = BitVec.ofNat 32 (mul32 o.alpha.toNat a) ∧
  n.sigma = BitVec.ofNat 32 ((List.range 16).foldl (fun z j => add32 z (p j)) (mul32 o.sigma.toNat a)) ∧
  (∀ j, j < 16 → n.s.toList.getD j 0 = BitVec.ofNat 32 (p j)) ∧ n.valid = o.valid

/-- An output element of vaccv (R337). -/
def accumulated (s : State) (d : Reg) (o : Nat) (e : Nat) : Nat :=
  let hd := headOf s.hart.chain (e / headLen s)
  let x := mul32 (s.elem d.toNat 32 e) hd.alpha.toNat
  if hd.m = 0xFF800000 then 0
  else if s.hart.chain.buf = .weighted then
    (List.range 16).foldl (fun z j =>
      fma32 (hd.s.toList.getD j 0).toNat (scrWordAt s (o + 4 * (j * vl s + e))) z) x
  else x

/-- A chain instruction that writes vector registers. -/
def ChainGives (i : Instr) (s : State) (d : Reg) (P : Nat) (r : Nat → Nat) (p : State → Prop) : Prop :=
  ∃ t, exec i s = .next t ∧ VectorEnds s t 0 ∧ p t ∧ t.hart.dirtyv.getLsbD 40 = true ∧
    (vl s = 0 → t.hart.v = s.hart.v) ∧
    (vl s ≠ 0 → Written s t d.toNat (group s) 32 P r) ∧
    Kept s t (fun n => within d.toNat (group s) n ∨ n = 40) ∧ OnlyChain s t

end Sys2Proof.Claims

/-- The attention chain (R334 to R338): vscore forms the scores of 16 keys for every head and their valid
bits; vexpm turns a scored buffer into weights and moves each head's maximum, sum and rescale; vaccv rescales
the output and adds the weighted values; vsegmax and vsegsum write a field of each head, and vsegsum the
status mask, after which the chain is reset. The exact sums, e^x and the one rounding are the model's own
functions (VAttn.lean). -/
def Obligations.AttentionChain : Prop :=
  ∀ (s : State) (a d xb : Reg) (k ks : KReg), Issues s →
    let H := headCount s
    let o := (s.x xb).toNat
    let c := s.hart.chain
    (ChainFits s [a.toNat] → OffsetFits s o (64 * vl s) →
      ChainEnds (.vscore a xb k) s fun n => n.buf = .scored ∧ ∀ h, h < 64 →
        (headOf n h).m = (headOf c h).m ∧ (headOf n h).sigma = (headOf c h).sigma ∧
        (headOf n h).alpha = (headOf c h).alpha ∧
        (H ≤ h → headOf n h = headOf c h) ∧
        (h < H → ∀ j, j < 16 → (headOf n h).valid.getLsbD j = on s k (16 * h + j) ∧
          ((headOf n h).s.toList.getD j 0).toNat = sum32 ((headPart s h).map fun e =>
            ((fp32.decode (s.elem a.toNat 32 e)).mul (fp32.decode (scrWordAt s (o + 4 * (j * vl s + e))))).1)
              % 2 ^ 32)) ∧
    (ChainFits s [] → ChainEnds .vexpm s fun n =>
      (c.buf ≠ .scored → n = c) ∧
      (c.buf = .scored → n.buf = .weighted ∧ ∀ h, h < 64 →
        (H ≤ h → headOf n h = headOf c h) ∧ (h < H → Exponentiated (headOf c h) (headOf n h)))) ∧
    (ChainFits s [d.toNat] → OffsetFits s o (64 * vl s) →
      ChainGives (.vaccv d xb) s d (vl s) (accumulated s d o) fun t =>
        t.hart.k = s.hart.k ∧ (t.hart.chain.buf = if c.buf = .scored then .scored else .empty) ∧
        ∀ h, h < 64 → headOf t.hart.chain h =
          if h < H then { headOf c h with alpha := 0x3F800000 } else headOf c h) ∧
    (ChainFits s [d.toNat] →
      ChainGives (.vsegmax d) s d H (fun h => (headOf c h).m.toNat)
        (fun t => t.hart.k = s.hart.k ∧ t.hart.chain = c) ∧
      (ks ≠ 0 → ChainGives (.vsegsum d ks) s d H (fun h => (headOf c h).sigma.toNat) fun t =>
        t.hart.chain.buf = .empty ∧ (∀ q : KReg, q ≠ ks → t.mask q = s.mask q) ∧
        (∀ e, e < 65536 → (t.mask ks).getLsbD e = decide (e < H ∧ (headOf c e).m = 0xFF800000)) ∧
        ∀ h, h < 64 → (headOf t.hart.chain h).m = 0xFF800000 ∧ (headOf t.hart.chain h).sigma = 0 ∧
          (headOf t.hart.chain h).alpha = 0x3F800000 ∧ (headOf t.hart.chain h).valid = 0))

namespace Sys2Proof.Claims

/-- An element of f32 or bf16 as a number. -/
def numAt (s : State) (r : Reg) (e : Nat) : Machine.Num :=
  (ffmt (etype s)).decode (s.elem r.toNat (width s) e)

/-- Whether element j stands before element i in rank (R340): by value, NaN last, ties by the lower index. -/
def before (s : State) (a : Reg) (j i : Nat) : Bool :=
  let gt (x y : Machine.Num) : Bool := !x.isNan && (y.isNan || x.cmp y == .gt)
  gt (numAt s a j) (numAt s a i) || (!gt (numAt s a i) (numAt s a j) && decide (j < i))

/-- Some elements: active, below VL, of the segment from lo on. -/
def candidates (s : State) (k : KReg) (lo n : Nat) : List Nat :=
  (List.range (vl s)).filter fun e => decide (lo ≤ e ∧ e < lo + n) && on s k e

/-- The rank of an element among some. -/
def rankIn (s : State) (a : Reg) (l : List Nat) (e : Nat) : Nat := l.countP fun j => before s a j e

/-- The segments of vsamp and vargmax (R342). -/
def segLen (s : State) : Nat := if shape s = 0 then max 1 (vl s) else 2 ^ (shape s - 1)

/-- The weight of an element that counts (R342), as FP32. -/
def weightAt (s : State) (a : Reg) (k : KReg) (e : Nat) : Nat :=
  let x := numAt s a e
  if on s k e = true ∧ x.isNan = false ∧ x.isInf = false ∧ x.sign = false ∧ x.isZero = false then
    (fp32.convert (.mode .rne) x).code
  else 0

/-- The running sum of the first n + 1 weights of a segment (R342). -/
def runTo (w : Nat → Nat) : Nat → Nat
  | 0 => add32 0 (w 0)
  | n + 1 => add32 (runTo w n) (w (n + 1))

/-- One FP32 code stands above another as a value. -/
def greater (a b : Nat) : Bool := above32 a b

/-- The index a segment of n weights draws with a uniform u (R342): the least that passes u × C, else the
greatest with a weight; none where C is 0. -/
def Drawn (w : Nat → Nat) (n : Nat) (u : Machine.Num) (r : Nat) : Prop :=
  let C := runTo w (n - 1)
  let t := mul32 (uniform u) C
  let hit (e : Nat) : Prop := e < n ∧ w e ≠ 0 ∧ greater (runTo w e) t = true
  if (fp32.decode C).isZero = true then r = 0xFFFFFFFF
  else (hit r ∧ ∀ e, hit e → r ≤ e) ∨
    ((∀ e, ¬ hit e) ∧ ((r < n ∧ w r ≠ 0 ∧ ∀ e, e < n → w e ≠ 0 → e ≤ r) ∨ ((∀ e, e < n → w e = 0) ∧ r = 0xFFFFFFFF)))

end Sys2Proof.Claims

/-- Selection, draws and sampling (R339 to R344): vbound rounds the exact bound of each active block once;
vtopk writes the K first active elements by rank, 0xFFFF_FFFF where there are none; vrand writes the counter
generator's draws; vsamp draws an index per segment by its running sums; vargmax takes the first by rank of
each segment; vspeck counts the leading accepted drafts. No flag is set. -/
def Obligations.SelectionAndSampling : Prop :=
  ∀ (s : State) (d a b xa : Reg) (k : KReg), Issues s →
    let word (e : Nat) : Machine.Num := fp32.decode (s.elem a.toNat 32 e)
    (Fits s [d.toNat, a.toNat] → etype s = 0 →
      let v := (s.x b).toNat
      let o := v % 2 ^ 32
      let B := v / 2 ^ 32 % 2 ^ 16
      v / 2 ^ 48 = 0 → 1 ≤ B → B ≤ 1024 → B ≤ group s * perReg s 32 → OffsetFits s o (8 * vl s * B) →
      Whole (.vbound d a b k) s d 32 B 0 fun j =>
        let word (n : Nat) : Machine.Num := fp32.decode (scrWordAt s (o + 8 * vl s * j + 4 * n))
        if on s k j = true then
          sum32 ((List.range (vl s)).map fun e =>
            let x := ((fp32.decode (s.elem a.toNat 32 e)).mul (word e)).1
            let y := ((fp32.decode (s.elem a.toNat 32 e)).mul (word (vl s + e))).1
            if x.isNan = true ∨ y.isNan = true then .nan false else if x.cmp y = .lt then y else x)
        else 0xFF800000) ∧
    (Fits s [d.toNat, a.toNat] → etype s ≤ 1 → 1 ≤ (s.x b).toNat → (s.x b).toNat ≤ 64 →
      let l := candidates s k 0 (vl s)
      ∃ r : Nat → Nat, Whole (.vtopk d a b k) s d 32 (s.x b).toNat 0 r ∧
        (∀ e ∈ l, rankIn s a l e < (s.x b).toNat → r (rankIn s a l e) = e) ∧
        ∀ n, l.length ≤ n → n < (s.x b).toNat → r n = 0xFFFFFFFF) ∧
    (Fits s [d.toNat] → etype s = 0 → Whole (.vrand d xa b k) s d 32 (vl s) 0 fun e =>
      if on s k e = true then
        (philox s.hart.seed ((s.x xa).toNat % 2 ^ 32) (((s.x xa).toNat / 2 ^ 32 + e / 4) % 2 ^ 32)
          ((s.x b).toNat % 2 ^ 32) 0).getD (e % 4) 0
      else s.elem d.toNat 32 e) ∧
    (Fits s [d.toNat, a.toNat, b.toNat] → etype s ≤ 1 →
      let L := segLen s
      ∃ r : Nat → Nat, Whole (.vsamp d a b k) s d 32 ((vl s + L - 1) / L) 0 r ∧
        ∀ g, g < (vl s + L - 1) / L →
          Drawn (fun n => weightAt s a k (g * L + n)) (min L (vl s - g * L)) (numAt s b g) (r g)) ∧
    (Fits s [d.toNat, a.toNat] → etype s ≤ 1 →
      let L := segLen s
      ∃ r : Nat → Nat, Whole (.vargmax d a k) s d 32 ((vl s + L - 1) / L) 0 r ∧
        ∀ g, g < (vl s + L - 1) / L →
          (candidates s k (g * L) L = [] → r g = 0xFFFFFFFF) ∧
          ∀ e ∈ candidates s k (g * L) L, rankIn s a (candidates s k (g * L) L) e = 0 → r g = e - g * L) ∧
    (Fits s [d.toNat, a.toNat, b.toNat] → etype s = 0 →
      let ok (e : Nat) : Prop := on s k e = true ∧
        let x := ((fp32.decode (s.elem d.toNat 32 e)).mul (fp32.decode (s.elem b.toNat 32 e))).1
        x.isNan = false ∧ (word e).isNan = false ∧ x.cmp (word e) ≠ .gt
      ∃ n, n ≤ vl s ∧ (∀ e, e < n → ok e) ∧ (n < vl s → ¬ ok n) ∧
        Whole (.vspeck d a b k) s d 32 1 0 fun _ => n)

/-! ### Vector memory -/

namespace Sys2Proof.Claims

/-- The bytes of a unit: an element, or two 4-bit elements; and its elements (R294). -/
def unitSize (s : State) : Nat := max 1 (width s / 8)

/-- The elements of a unit. -/
def unitLen (s : State) : Nat := if width s = 4 then 2 else 1

/-- The active units from VSTART below VL, in ascending order (R294, R296). -/
def unitsOn (s : State) (k : KReg) : List Nat :=
  (List.range ((vl s + unitLen s - 1) / unitLen s)).filter fun u =>
    decide (vs s / unitLen s ≤ u) && on s k (u * unitLen s)

/-- The width and the grouping of an index operand (R293). -/
def idxWidth (s : State) : Nat := max 32 (width s)

/-- The grouping of an index operand. -/
def idxGroup (s : State) : Nat := group s * idxWidth s / max (width s) 8

/-- An index operand is legal (R233, R293). -/
def IndexFits (s : State) (r : Reg) : Prop :=
  idxGroup s ≤ 8 ∧ r.toNat % idxGroup s = 0 ∧ (idxGroup s = 0 ∨ r.toNat + idxGroup s ≤ s.hart.bounds.vregs)

/-- The address of unit u: unit stride, strided, indexed (R293). -/
def unitAddr (s : State) (base : Reg) (u : Nat) : Word := s.x base + BitVec.ofNat 64 (u * unitSize s)

/-- Strided. -/
def strideAddrOf (s : State) (base r : Reg) (u : Nat) : Word := s.x base + BitVec.ofNat 64 u * s.x r

/-- Indexed. -/
def indexAddrOf (s : State) (base r : Reg) (u : Nat) : Word :=
  s.x base + BitVec.ofInt 64 (sgn (idxWidth s) true (s.elem r.toNat (idxWidth s) u))

/-- The footprints of R82: unit stride, strided, indexed. -/
def footUnit (s : State) : Nat := (vl s * width s + 7) / 8

/-- Strided. -/
def footStride (s : State) (r : Reg) : Nat := (vl s - 1) * (s.x r).toInt.natAbs + unitSize s

/-- A hint or a footprint that keeps an access out of L1 (R83): stream, or the default above VALLOC. -/
def bypasses (s : State) (h : Hint) (foot : Nat) : Bool :=
  h == 2 || (h == 0 && decide (s.hart.csr.valloc.toNat < foot))

/-- The byte at a physical address as the core sees it: a dirty byte of its L1, a valid one unless the access
reads at L2, and else memory (R79, R113). -/
def seen (s : State) (far : Bool) (pa : Nat) : Byte :=
  match tget (s.core s.hart.core).l1 (pa / 256) with
  | some l =>
    if l.dirty.getLsbD (pa % 256) = true ∨ (far = false ∧ l.valid.getLsbD (pa % 256 / 32) = true) then
      l.byte (pa % 256)
    else cellGet s.mem pa
  | none => cellGet s.mem pa

/-- Nothing is wrong with the lines of n bytes (poison, errors), they were last written under the page's granule, and
a line of L1 that holds one of them has that granule and nothing wrong (R99, R101, R431). -/
def Quiet (s : State) (p : Xlat) (n : Nat) : Prop :=
  (∀ i k, i < n → k / 8 = (p.pa + i) / 256 → s.poison.contains k = false ∧ s.broken.contains k = false) ∧
  (∀ a i, i < n → a / 32 = (p.pa + i) / 32 → isHbm a = true → s.grainOf a = p.gran) ∧
  (p.lnk = false → ∀ i l, i < n → tget (s.core s.hart.core).l1 ((p.pa + i) / 256) = some l →
    l.poison = 0 ∧ l.broken = 0 ∧ l.gran = p.gran)

/-- n aligned bytes at an address can be read and hold b: the scratchpad's, a sequence page's committed bytes, a
domain window's at L2 (R105), or what the core sees (R296, R302); the pages share the granule gr. -/
def ReadsAs (s : State) (far : Xlat → Bool) (gr : BitVec 2) (va : Word) (n : Nat) (b : Nat → Byte) : Prop :=
  va.toNat % n = 0 ∧
  ((∃ off, InScratch s va n off ∧ s.hart.scrBad = [] ∧ ∀ i, i < n → b i = s.scrByte (off + i)) ∨
   ∃ p, inWindow va = false ∧ s.xlatVec true false va = .ok p ∧ p.mig = false ∧ NoStaleCopy s p ∧
     (p.seq = true → p.lnk = false → ∀ i, i < n → s.seqByte (p.pa + i) = (b i, .none)) ∧
     (p.lnk = true → Quiet s p n ∧ ∀ i, i < n → b i = cellGet s.mem (p.pa + i)) ∧
     (p.seq = false → p.lnk = false →
       p.gran = gr ∧ Quiet s p n ∧ ∀ i, i < n → b i = seen s (far p) (p.pa + i)))

/-- L1 takes n more lines without an eviction (R11, R78), or an eviction loses nothing: its clean bytes are those of
memory. -/
def EvictsNothing (s : State) (n : Nat) : Prop :=
  let k := s.core s.hart.core
  k.l1.length + k.gathered.length + n ≤ (8 - k.split) * 2048 ∨
  ∀ a l, tget k.l1 (a / 256) = some l → l.valid.getLsbD (a % 256 / 32) = true → l.dirty.getLsbD (a % 256) = false →
    l.byte (a % 256) = cellGet s.mem a

/-- The vector loads of R302: whether they read at L2, their addresses, and their footprints. -/
def vloads (s : State) (d base r : Reg) (k : KReg) (h : Hint) :
    List (Instr × (Xlat → Bool) × (Nat → Word)) :=
  let far (b : Bool) (p : Xlat) : Bool := b || decide (p.cache ≠ 0)
  [(.vld d base k h, far (bypasses s h (footUnit s)), unitAddr s base),
   (.vlds d base r k h, far (bypasses s h (footStride s r)), strideAddrOf s base r),
   (.vldx d base r k h, far (bypasses s h (vl s * 32)), indexAddrOf s base r),
   (.vldNc d base k, fun _ => true, unitAddr s base), (.vldsNc d base r k, fun _ => true, strideAddrOf s base r),
   (.vldxNc d base r k, fun _ => true, indexAddrOf s base r)]

/-- Whether a form has an index operand. -/
def indexed (i : Instr) : Bool :=
  match i with
  | .vldx .. => true
  | .vldxNc .. => true
  | .vstx .. => true
  | .vstxO .. => true
  | _ => false

/-- The memory side and the vector registers may change, with VSTART, the PC, the sample count and the free-value
counter; nothing else does. -/
def OnlyMemory (s t : State) : Prop :=
  memApart { t with
    free := s.free
    hart := { t.hart with
      v := s.hart.v, dirtyv := s.hart.dirtyv, pc := s.hart.pc, sample := s.hart.sample
      csr := { t.hart.csr with vstart := s.hart.csr.vstart } } } = memApart s ∧ OnlyOwnL1 s t

/-- The little-endian value of a loaded element: from its unit's bytes (R294). -/
def loadedAt (s : State) (b : Nat → Nat → Byte) (e : Nat) : Nat :=
  le (b (e / unitLen s)) (unitSize s) / 2 ^ (width s * (e % unitLen s)) % 2 ^ width s

end Sys2Proof.Claims

/-- Vector loads (R293, R294, R296, R302, R303): once every active unit passes the probe, each active element
takes the bytes at its address, masked-off elements keep theirs, and memory changes at most by the write-back
of dirty bytes; with VSTART at or above VL nothing is read. vldp loads the headers and planes of whole tiles; that
at VL = 0 it leaves both its destinations without defined elements is the model's choice (assumption log 5). -/
def Obligations.VectorLoads : Prop :=
  ∀ (s : State) (d base r : Reg) (k : KReg) (h : Hint) (gr : BitVec 2), Issues s → Canonical s →
    (Fits s [d.toNat] → etype s ≤ 15 → ∀ m ∈ vloads s d base r k h,
      (indexed m.1 = true → IndexFits s r) →
      (vl s ≤ vs s → VectorIdle m.1 s) ∧
      ∀ b : Nat → Nat → Byte, vs s < vl s →
        (∀ u ∈ unitsOn s k, ReadsAs s m.2.1 gr (m.2.2 u) (unitSize s) (b u)) →
        EvictsNothing s (unitsOn s k).length →
        ∃ t, exec m.1 s = .next t ∧ VectorEnds s t 0 ∧
          Written s t d.toNat (group s) (width s) (vl s) (fun e =>
            if e / unitLen s ∈ unitsOn s k then loadedAt s b e else s.elem d.toNat (width s) e) ∧
          Kept s t (within d.toNat (group s)) ∧ OnlyMemory s t ∧ WrittenBack s t s.hart.core) ∧
    (let g := group s
     let p := etype s - 14
     let T := (vl s + 1023) / 1024
     let t0 := vs s / 1024
     let far (x : Xlat) : Bool := bypasses s h (T * (32 + 128 * p)) || decide (x.cache ≠ 0)
     Fits s [d.toNat] → 16 ≤ etype s → etype s ≤ 22 → d.toNat + g ≤ 31 → d.toNat + g < s.hart.bounds.vregs →
     1024 ≤ g * perReg s 8 → (s.x base).toNat % 32 = 0 →
     (vl s = 0 → ∃ t, exec (.vldp d base h) s = .next t ∧ VectorEnds s t 0 ∧ Written s t d.toNat g 8 0 (fun _ => 0) ∧
       Written s t (d.toNat + g) 1 8 0 (fun _ => 0) ∧ Kept s t (within d.toNat (g + 1)) ∧ OnlyVector s t) ∧
     ∀ m : Nat → Byte, vl s ≠ 0 → EvictsNothing s (T * (4 * p + 1)) →
       (∀ t c, t0 ≤ t → t < T → c ≤ 4 * p →
         ReadsAs s far gr (s.x base + BitVec.ofNat 64 (1056 * t + 32 * c)) 32 fun i => m (1056 * t + 32 * c + i)) →
       ∃ t, exec (.vldp d base h) s = .next t ∧ VectorEnds s t 0 ∧
         Written s t d.toNat g 8 (1024 * T) (fun B =>
           if B / 1024 < t0 then s.elem d.toNat 8 B
           else if B % 1024 / 128 < p then (m (1056 * (B / 1024) + 32 + B % 1024)).toNat else 0) ∧
         Written s t (d.toNat + g) 1 8 (32 * T) (fun B =>
           if B / 32 < t0 then s.elem (d.toNat + g) 8 B else (m (1056 * (B / 32) + B % 32)).toNat) ∧
         Kept s t (within d.toNat (g + 1)) ∧ OnlyMemory s t ∧ WrittenBack s t s.hart.core)

namespace Sys2Proof.Claims

/-- A place of a byte: in the scratchpad, or in memory. -/
inductive Place where
  | scr (o : Nat)
  | mem (a : Nat)
deriving DecidableEq

/-- Byte i of a target. -/
def placeAt (t : Target) (i : Nat) : Place :=
  match t with
  | .window o => .scr (o + i)
  | .phys p => .mem (p.pa + i)

/-- A unit's address passes the checks of a write (R296) and names a target; `rd` for an atomic, which also needs
read permission and may not lie in a host window. The pages share the granule gr, and no line of L1 holds bytes of a
domain window. -/
def WritesTo (s : State) (rd : Bool) (gr : BitVec 2) (va : Word) (n : Nat) (t : Target) : Prop :=
  va.toNat % n = 0 ∧
  ((∃ off, InScratch s va n off ∧ (rd = true → s.hart.scrBad = []) ∧ t = .window off) ∨
   ∃ p, inWindow va = false ∧ s.xlatVec rd true va = .ok p ∧ p.mig = false ∧ p.seq = false ∧ p.gran = gr ∧
     NoStaleCopy s p ∧
     (∀ i l, i < n → tget (s.core s.hart.core).l1 ((p.pa + i) / 256) = some l → l.gran = gr ∧ p.lnk = false) ∧
     (rd = true → isHost p.pa = false ∧ Quiet s p n) ∧ t = .phys p)

/-- The value of a unit of the data register (R294). -/
def unitValue (s : State) (d : Reg) (u : Nat) : Nat :=
  if width s = 4 then s.elem d.toNat 4 (2 * u) + if 2 * u + 1 < vl s then 16 * s.elem d.toNat 4 (2 * u + 1) else 0
  else s.elem d.toNat (width s) u

/-- The vector stores (R304, R305): whether they write at L2, and their addresses. -/
def vstores (s : State) (d base r : Reg) (k : KReg) (h : Hint) : List (Instr × Bool × (Nat → Word)) :=
  [(.vst d base k h, s.hart.relVec || bypasses s h (footUnit s), unitAddr s base),
   (.vsts d base r k h, s.hart.relVec || bypasses s h (footStride s r), strideAddrOf s base r),
   (.vstx d base r k h, s.hart.relVec || bypasses s h (vl s * 32), indexAddrOf s base r),
   (.vstxO d base r k h, true, indexAddrOf s base r)]

/-- The unit whose value remains at a place: the highest active one that covers it (R304). -/
def Remains (tgt : Nat → Target) (l : List Nat) (n : Nat) (q : Place) (u i : Nat) : Prop :=
  u ∈ l ∧ i < n ∧ placeAt (tgt u) i = q ∧ ∀ v ∈ l, (∃ j, j < n ∧ placeAt (tgt v) j = q) → v ≤ u

/-- A unit covers a place. -/
def Covered (tgt : Nat → Target) (l : List Nat) (n : Nat) (q : Place) : Prop :=
  ∃ u ∈ l, ∃ i, i < n ∧ placeAt (tgt u) i = q

end Sys2Proof.Claims

/-- Vector stores (R293, R294, R296, R304, R305): once the probe passes, each active unit's bytes stand at its
address, the highest element's where several name one place; every other byte of the scratchpad and of memory
is as before, or a dirty byte written back, and no register changes. A store that goes around L1 or to a domain
window puts its bytes in memory; one that allocates, where L1 has room, leaves memory alone. The lines of L0 that a
unit overlaps go from every hart of the core (R76). -/
def Obligations.VectorStores : Prop :=
  ∀ (s : State) (d base r : Reg) (k : KReg) (h : Hint) (gr : BitVec 2) (tgt : Nat → Target),
    Issues s → Canonical s → Fits s [d.toNat] → etype s ≤ 15 → s.hart.delay = [] → ∀ m ∈ vstores s d base r k h,
    (indexed m.1 = true → IndexFits s r) →
    let n := unitSize s
    let l := unitsOn s k
    let far (p : Xlat) : Bool := m.2.1 || decide (p.cache ≠ 0) || p.lnk
    let c := s.core s.hart.core
    let roomy := c.l1.length + c.gathered.length + l.length ≤ (8 - c.split) * 2048
    (vl s ≤ vs s → VectorIdle m.1 s) ∧
    (vs s < vl s → (∀ u ∈ l, WritesTo s false gr (m.2.2 u) n (tgt u)) →
      ∃ t, exec m.1 s = .next t ∧ VectorEnds s t 0 ∧ t.hart.v = s.hart.v ∧ t.hart.dirtyv = s.hart.dirtyv ∧
        (∀ o, ¬ Covered tgt l n (.scr o) → t.scrByte o = s.scrByte o) ∧
        (∀ o u i, Remains tgt l n (.scr o) u i → t.scrByte o = byteOf (BitVec.ofNat 64 (unitValue s d u)) i) ∧
        (roomy → ∀ a, (∀ u ∈ l, ∀ p, tgt u = .phys p → far p = true → ¬ (p.pa ≤ a ∧ a < p.pa + n)) →
          cellGet t.mem a = cellGet s.mem a) ∧
        (∀ a, ¬ Covered tgt l n (.mem a) → cellGet t.mem a = cellGet s.mem a ∨
          ∃ e, tget (s.core s.hart.core).l1 (a / 256) = some e ∧ e.dirty.getLsbD (a % 256) = true ∧
            cellGet t.mem a = e.byte (a % 256)) ∧
        (∀ a u i, Remains tgt l n (.mem a) u i →
          seen t false a = byteOf (BitVec.ofNat 64 (unitValue s d u)) i ∧
          (∀ g ∈ t.harts, g.core = s.hart.core → tget g.l0 (a / 64) = none) ∧
          ∀ p, tgt u = .phys p → far p = true →
            cellGet t.mem a = byteOf (BitVec.ofNat 64 (unitValue s d u)) i) ∧
        (roomy → ∀ a e, ¬ Covered tgt l n (.mem a) → tget (s.core s.hart.core).l1 (a / 256) = some e →
          (e.valid.getLsbD (a % 256 / 32) = true ∨ e.dirty.getLsbD (a % 256) = true) →
          ∃ e', tget (t.core s.hart.core).l1 (a / 256) = some e' ∧ e'.byte (a % 256) = e.byte (a % 256) ∧
            e'.dirty.getLsbD (a % 256) = e.dirty.getLsbD (a % 256)) ∧
        OnlyMemory s { t with hart := { t.hart with scr := s.hart.scr, relVec := s.hart.relVec } })

namespace Sys2Proof.Claims

/-- The bytes after an indivisible step at a place: n bytes from it take a value. -/
def putAt (m : Place → Byte) (t : Target) (n v : Nat) (q : Place) : Byte :=
  match (List.range n).find? fun i => placeAt t i == q with
  | some i => byteOf (BitVec.ofNat 64 v) i
  | none => m q

/-- Indivisible steps one after another (R114, R308): the bytes they leave, and each unit's old value. -/
def steps (tgt : Nat → Target) (n : Nat) (f : Nat → Nat → Nat) : List Nat → (Place → Byte) →
    (Place → Byte) × (Nat → Nat)
  | [], m => (m, fun _ => 0)
  | u :: l, m =>
    let old := le (fun i => m (placeAt (tgt u) i)) n
    let r := steps tgt n f l (putAt m (tgt u) n (f u old))
    (r.1, fun v => if v = u then old else r.2 v)

/-- The bytes as an atomic finds them: the scratchpad's, and the core's dirty bytes or memory's (R95). -/
def found (s : State) (q : Place) : Byte :=
  match q with
  | .scr o => s.scrByte o
  | .mem a => seen s true a

/-- Vector atomics of R308 with their scopes and their operations. -/
def vamos (d base r : Reg) (k : KReg) (h : Hint) (aq rl o : Bool) (w : Nat) (sg : Bool) :
    List (Instr × Bool × (Nat → Nat → Nat)) :=
  let add (x v : Nat) : Nat := (x + v) % 2 ^ w
  let max_ (x v : Nat) : Nat := if sgn w sg x < sgn w sg v then v else x
  let min_ (x v : Nat) : Nat := if sgn w sg v < sgn w sg x then v else x
  let and_ (x v : Nat) : Nat := x &&& v
  let or_ (x v : Nat) : Nat := x ||| v
  let xor_ (x v : Nat) : Nat := x ^^^ v
  let swap (_ v : Nat) : Nat := v
  [(.vamoaddC d base r k h aq rl o, false, add), (.vamoaddD d base r k h aq rl o, true, add),
   (.vamoaddV d base r k h aq rl o, true, add), (.vamoaddX d base r k h aq rl o, true, add),
   (.vamoandC d base r k h aq rl o, false, and_), (.vamoandD d base r k h aq rl o, true, and_),
   (.vamoandV d base r k h aq rl o, true, and_), (.vamoandX d base r k h aq rl o, true, and_),
   (.vamoorC d base r k h aq rl o, false, or_), (.vamoorD d base r k h aq rl o, true, or_),
   (.vamoorV d base r k h aq rl o, true, or_), (.vamoorX d base r k h aq rl o, true, or_),
   (.vamoxorC d base r k h aq rl o, false, xor_), (.vamoxorD d base r k h aq rl o, true, xor_),
   (.vamoxorV d base r k h aq rl o, true, xor_), (.vamoxorX d base r k h aq rl o, true, xor_),
   (.vamomaxC d base r k h aq rl o, false, max_), (.vamomaxD d base r k h aq rl o, true, max_),
   (.vamomaxV d base r k h aq rl o, true, max_), (.vamomaxX d base r k h aq rl o, true, max_),
   (.vamominC d base r k h aq rl o, false, min_), (.vamominD d base r k h aq rl o, true, min_),
   (.vamominV d base r k h aq rl o, true, min_), (.vamominX d base r k h aq rl o, true, min_),
   (.vamoswapC d base r k h aq rl o, false, swap), (.vamoswapD d base r k h aq rl o, true, swap),
   (.vamoswapV d base r k h aq rl o, true, swap), (.vamoswapX d base r k h aq rl o, true, swap)]

/-- The bytes that units leave after their steps: at the places they cover, and every other byte as before or
written back. -/
def SteppedTo (s t : State) (tgt : Nat → Target) (n : Nat) (l : List Nat) (m : Place → Byte) : Prop :=
  (∀ o, t.scrByte o = m (.scr o)) ∧
  ∀ a, (Covered tgt l n (.mem a) → cellGet t.mem a = m (.mem a)) ∧
    (¬ Covered tgt l n (.mem a) → cellGet t.mem a = cellGet s.mem a ∨
      ∃ e, tget (s.core s.hart.core).l1 (a / 256) = some e ∧ e.dirty.getLsbD (a % 256) = true ∧
        cellGet t.mem a = e.byte (a % 256))

/-- The sum of a scatter-add (R306): integers modulo 2^w, f32 rounded to nearest even with every NaN canonical. -/
def addIn (s : State) (x y : Nat) : Nat := if etype s = 0 then add32 x y else (x + y) % 2 ^ width s

end Sys2Proof.Claims

/-- Vector atomics and the scatter-add (R114, R306, R308, R309): each active element takes one indivisible
step at its address, in ascending order, the destination receives the old values, and masked-off elements keep
theirs, as all do with VSTART at or above VL, where the progress index is VL's (the model's choice, assumption log 5);
vstx.add takes its steps in some order and writes no register, and under
DET it traps. With aq at a wide scope no line of a shared page stays in L1, and with rl nothing there is dirty
(R111). -/
def Obligations.VectorAtomics : Prop :=
  ∀ (s : State) (d base r : Reg) (k : KReg) (h : Hint) (aq rl o : Bool) (gr : BitVec 2) (tgt : Nat → Target),
    Issues s → Canonical s → Fits s [d.toNat] → IndexFits s r →
    let w := width s
    let n := unitSize s
    let l := unitsOn s k
    (etype s ∈ [10, 11, 14, 15] → ∀ m ∈ vamos d base r k h aq rl o w (decide (etype s ≤ 11)),
      (vl s ≤ vs s → VectorGives m.1 s d.toNat w (vl s) 0 (s.elem d.toNat w)) ∧
      (vs s < vl s → (∀ u ∈ l, WritesTo s true gr (indexAddrOf s base r u) n (tgt u)) →
        let res := steps tgt n (fun u old => m.2.2 old (s.elem d.toNat w u)) l (found s)
        ∃ t, exec m.1 s = .next t ∧ VectorEnds s t 0 ∧ SteppedTo s t tgt n l res.1 ∧
          Written s t d.toNat (group s) w (vl s) (fun e => if e ∈ l then res.2 e else s.elem d.toNat w e) ∧
          Kept s t (within d.toNat (group s)) ∧
          (aq = true → m.2.1 = true → ∀ n e, tget (t.core s.hart.core).l1 n = some e → e.shared = false) ∧
          (rl = true → m.2.1 = true → l ≠ [] → CleanWhere t s.hart.core fun e => e.shared = true) ∧
          OnlyOwnL1 s t ∧
          OnlyMemory (apart s) (apart { t with hart := { t.hart with scr := s.hart.scr } }))) ∧
    (etype s ∈ [0, 10, 11, 14, 15] →
      (s.hart.csr.det = true →
        Traps (.vstxAdd d base r k h) s 0x282 ((encode (.vstxAdd d base r k h)).setWidth 64) s.hart.pc) ∧
      (s.hart.csr.det = false →
        (vl s ≤ vs s → VectorIdle (.vstxAdd d base r k h) s) ∧
        (vs s < vl s → (∀ u ∈ l, WritesTo s true gr (indexAddrOf s base r u) n (tgt u)) →
          ∃ t order, order.Perm l ∧ exec (.vstxAdd d base r k h) s = .next t ∧ VectorEnds s t 0 ∧
            t.hart.v = s.hart.v ∧ t.hart.dirtyv = s.hart.dirtyv ∧
            SteppedTo s t tgt n l (steps tgt n (fun u old => addIn s old (s.elem d.toNat w u)) order (found s)).1 ∧
            OnlyOwnL1 s t ∧ OnlyMemory (apart s) (apart { t with hart := { t.hart with scr := s.hart.scr } }))))

/-- vwait.all and vwait.any (R310, R311): with no active element it ends at once; else one round reads every
active flag: where all, or any, hold their expected value the mask takes the flags met and x[d] takes 0; where
not and no time is left, x[d] takes 1; else the hart sleeps with no register written. A round that meets flags acts
as an acquire at the scope. -/
def Obligations.FlagWaits : Prop :=
  ∀ (s : State) (kd k : KReg) (d va ve : Reg) (sc : BitVec 2) (any : Bool) (gr : BitVec 2) (b : Nat → Nat → Byte),
    Issues s → Canonical s → kd ≠ 0 → etype s = 14 ∨ etype s = 15 →
    let w := width s
    let ga := group s * 64 / w
    Fits s [ve.toNat] → ga ≤ 8 → va.toNat % ga = 0 → va.toNat + ga ≤ s.hart.bounds.vregs →
    s.hart.status = .running → s.hart.wait = .none →
    let i := if any then Instr.vwaitAny kd d va ve k sc else .vwaitAll kd d va ve k sc
    let l := (List.range (vl s)).filter fun e => on s k e
    let addr (e : Nat) : Word := BitVec.ofNat 64 (s.elem va.toNat 64 e)
    let met (e : Nat) : Bool := decide (e ∈ l) && decide (le (b e) (w / 8) = s.elem ve.toNat w e)
    let ends (p : Nat → Bool) (v : Word) : Prop :=
      ∃ t, exec i s = .next t ∧ VectorEnds s t 0 ∧ XWritten s t d v ∧
        (∀ e, e < 65536 → (t.mask kd).getLsbD e = p e) ∧ (∀ q : KReg, q ≠ kd → t.mask q = s.mask q) ∧
        t.hart.v = s.hart.v ∧ WrittenBack s t s.hart.core ∧
        (sc ≠ 0 → (∃ e, p e = true) → ∀ n e, tget (t.core s.hart.core).l1 n = some e → e.shared = false) ∧
        OnlyOwnL1 s t ∧ OnlyMemory (apart s) (apart { t with hart := { t.hart with x := s.hart.x, k := s.hart.k } })
    (l = [] → ends (fun _ => false) (if any then 1 else 0)) ∧
    (l ≠ [] →
      (∀ e ∈ l, ReadsAs s (fun _ => true) gr (addr e) (w / 8) (b e) ∧
        ∀ p, s.xlatVec true false (addr e) = .ok p → isHost p.pa = false) →
      let ended := if any then ∃ e ∈ l, met e = true else ∀ e ∈ l, met e = true
      (ended → ends met 0) ∧
      (¬ ended → s.x d = 0 → ends met 1) ∧
      (¬ ended → s.x d ≠ 0 → ∃ t, exec i s = .next t ∧ t.hart.status = .sleeping ∧ t.hart.pc = s.hart.pc ∧
        SameRegs s t ∧ WrittenBack s t s.hart.core ∧
        (sc ≠ 0 → (∃ e, met e = true) → ∀ n e, tget (t.core s.hart.core).l1 n = some e → e.shared = false)))

/-! ### The matrix engine -/

namespace Sys2Proof.Claims

/-- Row r of an accumulator of the hart in focus, column n. -/
def accAt (s : State) (acc : AccReg) (row n : Nat) : Nat := (s.accRow acc row).toNat / 2 ^ (32 * n) % 2 ^ 32

/-- Everything is as before but accumulator rows, tile buffers, the use of pre-stages, dirty marks, the PC and
the sample count. -/
def OnlyMatrix (s t : State) : Prop :=
  { t with hart := { t.hart with
      acc := s.hart.acc, tb := s.hart.tb, adv := s.hart.adv, dirtyv := s.hart.dirtyv, pc := s.hart.pc } } = s ∧
  SameBytes s t

/-- The same for a tile fetch, which brings sectors into L2 (R93). -/
def OnlyTile (s t : State) : Prop :=
  { t with
    l2 := s.l2, poison := s.poison, l2Poison := s.l2Poison, broken := s.broken
    hart := { t.hart with tb := s.hart.tb, adv := s.hart.adv, dirtyv := s.hart.dirtyv, pc := s.hart.pc } } = s ∧
  SameBytes s t

/-- The accumulator rows other than one are as before. -/
def OtherRows (s t : State) (acc : AccReg) (p : Nat → Prop) : Prop :=
  ∀ (a : AccReg) (r n : Nat), r < 64 → ¬ (a = acc ∧ p r) → accAt t a r n = accAt s a r n

/-- The value of a row operand (R214). -/
def rowOf (s : State) (row : Row) : Nat :=
  match row with
  | .const r => r.toNat
  | .reg r => (s.x r).toNat

/-- A read of n bytes at L2 on the MTX path, which no core's L1 serves (R81, R322). -/
def L2Reads (s : State) (va : Word) (n : Nat) (b : Nat → Byte) : Prop :=
  ∃ p, inWindow va = false ∧ s.xlatVec true false va = .ok p ∧ p.mig = false ∧ isHost p.pa = false ∧
    (p.seq = true → p.lnk = false → ∀ i, i < n → s.seqByte (p.pa + i) = (b i, .none)) ∧
    (p.seq = false ∨ p.lnk = true → ∀ i, i < n → b i = cellGet s.mem (p.pa + i) ∧
      s.flaw (p.pa + i) = .none ∧ (isHbm (p.pa + i) = true → s.grainOf (p.pa + i) = p.gran))

/-- The pieces of a tile in memory (R148, R321): the sectors of its rows of 16 × width bytes and of the scale
storage after them; of a BPI tile, the header and the first planes of each of its BPI tiles. -/
def TilePiece (D : Desc) (K o len : Nat) : Prop :=
  if D.src2 = 10 then ∃ t c, t < K / 32 * 4 ∧ c ≤ 4 * (D.planes + 1) ∧ o = 1056 * t + 32 * c ∧ len = 32
  else
    let n := K * (16 * fmtWidth D.src2) +
      (if D.scale = 1 then (K + 31) / 32 * 128 else if D.scale = 2 then 4 else 0)
    ∃ c, o = 32 * c ∧ o < n ∧ len = min 32 (n - o)

/-- A row product is legal (R225, R227, R228, R233, R265, R320), with the staged tile T: the accumulator within
the bounds, the source aligned, the descriptor legal and equal to the tile's where R320 compares. -/
def ProductFits (s : State) (acc : AccReg) (row : Row) (va fd : Reg) (T : TileBuf) (extra : List Nat) : Prop :=
  let D := Desc.of (s.x fd)
  acc.toNat < s.hart.bounds.accs ∧ Fits s [va.toNat] ∧ (∀ f ∈ extra, f < s.hart.bounds.vregs) ∧
  fmtWidth D.src1 = width s ∧ D.check (dotAccept D) (s.x fd) = .ok () ∧ rowOf s row < 64 ∧
  D.src2 = T.format.src2 ∧ D.scale = T.format.scale ∧ (T.format.src2 = 10 → D.planes = T.format.planes)

/-- The tile of a buffer. -/
def tileIn (s : State) (tb : Bool) : Option TileBuf := s.hart.tb.get (if tb then 1 else 0)

/-- The place of element k among the set bits of its block's mask, in a compressed row (R325). -/
def placeOf (s : State) (va : Reg) (k : Nat) : Nat :=
  (List.range (k % 32)).countP fun i => (s.elem (va.toNat + group s) 32 (k / 32)).testBit i

/-- Whether a compressed row gives element k (R325): its bit is set, and its place is below N. -/
def givenAt (s : State) (va : Reg) (K k : Nat) : Bool :=
  (s.elem (va.toNat + group s) 32 (k / 32)).testBit (k % 32) && decide (placeOf s va k < vl s * 32 / K)

/-- The dense row a compressed row stands for (R325): element k takes the value at its place in its block's run of
N values, or is zero. -/
def dense (s : State) (va : Reg) (w K k : Nat) : Nat :=
  if givenAt s va K k = true then s.elem va.toNat w (k / 32 * (vl s * 32 / K) + placeOf s va k) else 0

/-- A row product adds to a row: each column, the other rows, and DIRTYV.ACC (R375). -/
def RowAdded (s t : State) (acc : AccReg) (row : Nat) (D : Desc) (T : TileBuf) (r : RowSrc) : Prop :=
  (∀ n, n < 128 → accAt t acc row n = rowColumn D T r n (accAt s acc row n) % 2 ^ 32) ∧
  OtherRows s t acc (fun q => q = row) ∧ t.hart.dirtyv.getLsbD (32 + acc.toNat) = true

/-- The code of column n that mepi stores, and the residual after it (R161, R328): y is the column, x what its block's
scale makes of it. A block of zeros takes a zero of each one's sign, and leaves the residual. -/
def epiStep (D : Desc) (ops : DrawOps) (y x : Nat → Machine.Num) (r : BitVec 32) (n : Nat) :
    Rounded × BitVec 32 :=
  if D.scale = 1 ∧ ∀ j, j < 32 → (y (n / 32 * 32 + j)).isZero = true then
    (⟨if isFloatFmt D.dst ∧ (y n).sign = true then 2 ^ (fmtWidth D.dst - 1) else 0, 0⟩, r)
  else convertRnd D.dst D.rnd D.flush ops r n (x n)

/-- The hart has no pre-stage of a tile buffer. -/
def NoStage (s : State) (tb : Bool) : Prop := ∀ p ∈ s.hart.adv.stages, p.tb ≠ tb

end Sys2Proof.Claims

/-- The matrix engine (R66, R161, R190, R209, R320 to R329): mtile stages the bytes that memory holds; mrow and mrow.sp
add the product of a row and the staged tile into one accumulator row; mread copies a row's words; mzero clears an
accumulator; mepi converts a row and stores it at L2; mrelease empties a buffer; mtile and mrelease discard the buffer's
pre-stage; mrow.p writes both partners' rows from the even partner's source, and where the other came too late raises
0x205 for the waiting one and waits itself. That mepi leaves EFR as it is for a block of zeros, and that the late
partner waits in its turn, are the model's choices (assumption logs 11 and 50). The sum of a column is the model's own
function (Matrix.lean). -/
def Obligations.MatrixResults : Prop :=
  ∀ (s : State) (acc : AccReg) (row : Row) (d va base fd : Reg) (tb : Bool), Issues s →
    let D := Desc.of (s.x fd)
    let r := rowOf s row
    let src : RowSrc := ⟨s.elem va.toNat (fmtWidth D.src1), scaleAt s D va.toNat D.src1, fun _ => true⟩
    -- mtile
    (∀ m : Nat → Byte, fmtWidth D.src2 = width s → D.check tileAccept (s.x fd) = .ok () →
      vl s ≤ group s * perReg s (width s) → tileKOk D.src2 (vl s) = true → (s.x base).toNat % 256 = 0 →
      inWindow (s.x base) = false →
      (∀ o n, TilePiece D (vl s) o n → L2Reads s (s.x base + BitVec.ofNat 64 o) n fun i => m (o + i)) →
      ∃ t T, exec (.mtile tb base fd) s = .next t ∧ t.hart.pc = s.hart.pc + 4 ∧ tileIn t tb = some T ∧
        T.base = s.x base ∧ T.desc = (s.x fd).setWidth 32 ∧ T.k = vl s ∧
        (∀ o n i, TilePiece D (vl s) o n → i < n → T.image.toNat / 256 ^ (o + i) % 256 = (m (o + i)).toNat) ∧
        tileIn t (!tb) = tileIn s (!tb) ∧ NoStage t tb ∧
        t.hart.dirtyv = s.hart.dirtyv ||| BitVec.ofNat 43 (2 ^ (if tb then 42 else 41)) ∧ OnlyTile s t) ∧
    -- mrow and mrow.sp
    (∀ T, tileIn s tb = some T →
      (ProductFits s acc row va fd T (scaleOfSrc s D va.toNat D.src1) → vl s = T.k →
        ∃ t, exec (.mrow acc row va tb fd) s = .next t ∧ t.hart.pc = s.hart.pc + 4 ∧
          RowAdded s t acc r D T src ∧ t.hart.tb = s.hart.tb ∧ OnlyMatrix s t) ∧
      (let N := vl s * 32 / T.k
       ProductFits s acc row va fd T
         ((va.toNat + group s) :: (scaleOfSrc s D va.toNat D.src1).map (· + 1)) →
       T.k % 32 = 0 → (N = 4 ∨ N = 8 ∨ N = 16) → vl s = N * (T.k / 32) →
        ∃ t, exec (.mrowSp acc row va tb fd) s = .next t ∧ t.hart.pc = s.hart.pc + 4 ∧
          RowAdded s t acc r D T
            ⟨dense s va (fmtWidth D.src1) T.k, scaleAt s D (va.toNat + 1) D.src1, givenAt s va T.k⟩ ∧
          t.hart.tb = s.hart.tb ∧ OnlyMatrix s t)) ∧
    -- mzero, mread, mrelease
    (acc.toNat < s.hart.bounds.accs →
      ∃ t, exec (.mzero acc) s = .next t ∧ t.hart.pc = s.hart.pc + 4 ∧ (∀ q n, q < 64 → accAt t acc q n = 0) ∧
        OtherRows s t acc (fun _ => True) ∧ t.hart.tb = s.hart.tb ∧ OnlyMatrix s t) ∧
    (acc.toNat < s.hart.bounds.accs → Fits s [d.toNat] → width s = 32 → vl s ≤ 128 → r < 64 →
      Whole (.mread d acc row) s d 32 (vl s) 0 fun n => accAt s acc r n) ∧
    (∃ t, exec (.mrelease tb) s = .next t ∧ t.hart.pc = s.hart.pc + 4 ∧ tileIn t tb = none ∧
      tileIn t (!tb) = tileIn s (!tb) ∧ t.hart.acc = s.hart.acc ∧ NoStage t tb ∧ OnlyMatrix s t) ∧
    -- mepi
    (let bytes := fmtWidth D.dst / 8
     let total := 128 * bytes + if D.scale = 1 then 4 else 0
     let y (n : Nat) : Machine.Num :=
       (if D.src1 = 11 then Machine.Num.ofInt (sgn 32 true (accAt s acc r n)) else fp32.decode (accAt s acc r n)).flushed
         D.flush
     let code (j : Nat) : Nat := blockScale D.dst ((List.range 32).map fun i => y (32 * j + i))
     let x (n : Nat) : Machine.Num := if D.scale = 1 then byBlockScale (code (n / 32)) (y n) else y n
     let step := epiStep D (draws s fd) y x
     let res := residual step (fun _ => true) s.hart.csr.efr
     let raw : Prop := D.src1 = 0 ∧ D.dst = 0
     ∀ p : Nat → Xlat, acc.toNat < s.hart.bounds.accs → width s = 32 → epiCheck D fd (s.x fd) = .ok () → r < 64 →
       (s.x base).toNat % 32 = 0 → inWindow (s.x base) = false →
       (∀ c, 32 * c < total → let va := s.x base + BitVec.ofNat 64 (32 * c)
         inWindow va = false ∧ s.xlatVec false true va = .ok (p c) ∧ (p c).mig = false ∧ (p c).seq = false ∧
         isHost (p c).pa = false) →
       (∀ c, tget s.hart.acc (64 * acc.toNat + r) = some c → rowPasses c (decide (D.src1 = 11)) = true) →
       ∃ t, exec (.mepi acc row base fd) s = .next t ∧ t.hart.pc = s.hart.pc + 4 ∧
         (raw → t.hart.csr.fcsr = s.hart.csr.fcsr ∧ t.hart.csr.efr = s.hart.csr.efr) ∧
         (¬ raw → t.hart.csr.efr = res 128 ∧
           t.hart.csr.fcsr = s.hart.csr.fcsr ||| orFlags 128 (fun _ => true) fun n => (step (res n) n).1.flags) ∧
         (∀ n i, n < 128 → i < bytes → cellGet t.mem ((p ((n * bytes + i) / 32)).pa + (n * bytes + i) % 32) =
           byteOf (BitVec.ofNat 64 (if D.src1 = 0 ∧ D.dst = 0 then accAt s acc r n else (step (res n) n).1.code)) i) ∧
         (D.scale = 1 → ∀ j, j < 4 → cellGet t.mem ((p ((128 * bytes + j) / 32)).pa + (128 * bytes + j) % 32) =
           BitVec.ofNat 8 (code j)) ∧
         (∀ a, (∀ o, o < total → a ≠ (p (o / 32)).pa + o % 32) → cellGet t.mem a = cellGet s.mem a) ∧
         { t with
           mem := s.mem, l2 := s.l2, posted := s.posted, poison := s.poison, l2Poison := s.l2Poison
           broken := s.broken, grain := s.grain, regions := s.regions
           hart := { t.hart with
             pc := s.hart.pc, csr := { t.hart.csr with fcsr := s.hart.csr.fcsr, efr := s.hart.csr.efr } } } = s) ∧
    -- mrow.p with its partner waiting, whatever other harts there are
    (∀ (u : State) (w : IWord) (pacc : AccReg) (prow : Nat) (pva : Reg) (ptb : Bool) (desc since : Word)
        (T T' : TileBuf),
      let even := s.hart.uid % 2 = 0
      s.focus (if s.hart.uid % 2 = 0 then s.hart.uid + 1 else s.hart.uid - 1) = some u → (∀ g ∈ s.others, g.uid ≠ s.hart.uid) →
      u.hart.wait = .pair w pacc prow pva ptb desc since → u.hart.pairs = s.hart.pairs →
      s.hart.bounds.paired = true → ProductFits s acc row va fd T (scaleOfSrc s D va.toNat D.src1) → vl s = T.k →
      tileIn s tb = some T → tileIn u ptb = some T' → T.k = T'.k → (s.x fd).setWidth 32 = desc.setWidth 32 →
      let from_ : RowSrc := if even then s.denseRow va D else u.denseRow pva D
      (u.hart.csr.pairto.toNat < s.laneCycles since →
        ∃ t v, exec (.mrowP acc row va tb fd) s = .next t ∧ t.focus u.hart.uid = some v ∧
          t.hart.wait = .pair (encode (.mrowP acc row va tb fd)) acc r va tb (s.x fd) s.time ∧
          t.hart.status = .sleeping ∧ t.hart.pc = s.hart.pc ∧ t.hart.acc = s.hart.acc ∧
          v.hart.trap.tcause = 0x205 ∧ v.hart.trap.tval = w.setWidth 64 ∧ v.hart.acc = u.hart.acc) ∧
      (s.laneCycles since ≤ u.hart.csr.pairto.toNat → ∃ t v, exec (.mrowP acc row va tb fd) s = .next t ∧ t.focus u.hart.uid = some v ∧
        t.hart.pc = s.hart.pc + 4 ∧ v.hart.pc = u.hart.pc + 4 ∧ v.hart.wait = .none ∧ v.hart.status = .running ∧
        t.hart.pairs = s.hart.pairs + 1 ∧ v.hart.pairs = u.hart.pairs + 1 ∧
        RowAdded s t acc r D T from_ ∧ RowAdded u v pacc prow D T' from_ ∧
        { t.hart with
          acc := s.hart.acc, pc := s.hart.pc, pairs := s.hart.pairs, dirtyv := s.hart.dirtyv, wait := s.hart.wait
          status := s.hart.status } = s.hart ∧
        (∀ g ∈ s.others, g.uid ≠ u.hart.uid → g ∈ t.others) ∧ SameBytes s t))

/-! ### Sequences -/

namespace Sys2Proof.Claims

/-- A handle register is bound, within the kernel's bound, to a live sequence: its arena index and record (R166 to
R169, R233). -/
def BoundTo (s : State) (r : SqReg) (b : SqBinding) (i : Nat) (q : Seq) : Prop :=
  r.toNat < s.hart.bounds.seqs ∧ s.sqReg r = some b ∧ b.handle.toNat % 2 ^ 20 = i ∧
  i < 2 ^ s.myCtx.arenaLog.toNat ∧ tget s.myCtx.seqs i = some q ∧ q.gen = b.handle.toNat / 2 ^ 20

/-- A slot is RESERVED by this hart through this register (R171, R315). -/
def Owns (s : State) (q : Seq) (r : SqReg) (slot : Nat) : Prop :=
  q.clen ≤ slot ∧ slot < q.rlen ∧ slot ∉ q.pending ∧
  ∃ v ∈ q.resv, v.first ≤ slot ∧ slot < v.first + v.count ∧ v.uid = s.hart.uid ∧ v.reg = r.toNat

/-- A slot is committed: VISIBLE or PENDING (R171). -/
def Committed (q : Seq) (slot : Nat) : Prop := slot < q.clen ∨ slot ∈ q.pending

/-- Everything is as before but the hart's x and handle registers and PC, and its context's record; `mem` also the
memory side. -/
def OnlySequences (s t : State) (mem : Bool) : Prop :=
  { t with
    hart := { t.hart with x := s.hart.x, pc := s.hart.pc, sq := s.hart.sq }
    ctxs := s.ctxs
    mem := if mem then s.mem else t.mem, l2 := if mem then s.l2 else t.l2
    posted := if mem then s.posted else t.posted, hostMem := if mem then s.hostMem else t.hostMem
    poison := if mem then s.poison else t.poison, l2Poison := if mem then s.l2Poison else t.l2Poison
    broken := if mem then s.broken else t.broken
    grain := if mem then s.grain else t.grain, regions := if mem then s.regions else t.regions } = s

/-- The other handle registers are as before. -/
def OtherHandles (s t : State) (d : SqReg) : Prop := ∀ r : SqReg, r ≠ d → t.sqReg r = s.sqReg r

/-- The other sequences of the context are as before. -/
def OtherSequences (s t : State) (l : List Nat) : Prop :=
  ∀ i, i ∉ l → tget t.myCtx.seqs i = tget s.myCtx.seqs i

/-- The physical address of a byte of a sequence (R170). -/
def seqPlace (q : Seq) (b : Nat) : Option Nat :=
  (tget q.blocks (b / (16 * q.slotSize))).map fun pa => pa + b % (16 * q.slotSize)

/-- The instruction enters its empty queue and stays there with its probe passed, the front end goes on, and nothing
else changes. -/
def StaysQueued (i : Instr) (s : State) : Prop :=
  ∃ t e, exec i s = .next t ∧ t.hart.queue = [e] ∧ e.word = encode i ∧ e.kind = .vmq ∧ e.pc = s.hart.pc ∧
    e.probe ≠ none ∧ e.interrupted = false ∧ t.hart.pc = s.hart.pc + 4 ∧
    { t with hart := { t.hart with queue := [], pc := s.hart.pc, sample := s.hart.sample } } = s ∧ SameBytes s t

/-- A block that is not in migration, where there is one (R412). -/
def Unheld (s : State) (pa : Option Nat) : Prop := ∀ a, pa = some a → s.blockParked a = none

/-- Pieces of HBM, each with its size, that do not overlap. -/
def PiecesApart (l : List (Nat × Nat)) : Prop :=
  (l.Pairwise fun a b => a.1 + a.2 ≤ b.1 ∨ b.1 + b.2 ≤ a.1) ∧
  ∀ p ∈ l, ∀ x, p.1 ≤ x → x < p.1 + p.2 → isHbm x = true

/-- The storage of a sequence: its tables and its blocks (R170). -/
def pieces (q : Seq) : List (Nat × Nat) :=
  q.tables.map (·, 2048) ++ q.blocks.map fun b => (b.2, max q.blockSize (16 * q.slotSize))

/-- Memory stands in its one form, and what the host's memory holds under a copy of L2 lies in host windows (R442). -/
def HostApart (s : State) : Prop := Canonical s ∧ ∀ c ∈ s.hostMem, isHost c.1 = true

/-- The entry of a block stands in the sequence's leaf table (R170). -/
def EntryStands (t : State) (q : Seq) (k : Nat) : Prop :=
  ∃ leaf pa, tget q.leaves (k / 256) = some leaf ∧ tget q.blocks k = some pa ∧
    ∀ j, j < 8 → cellGet t.mem (leaf + 8 * (k % 256) + j) = byteOf (BitVec.ofNat 64 pa) j

end Sys2Proof.Claims

/-- Sequence control (R168, R173, R174, R178, R179, R315): a reservation moves RLEN by n and answers its base,
or answers busy and changes nothing; a commit marks owned slots and moves CLEN across every committed slot; an
abandon moves RLEN down; lengths and handle numbers go to x[d], CLEN also to the shadow; a created sequence is
empty; a fork's child has the length asked for and counts as a reference to its parent; a drop empties the
register. A register that is not bound raises 0x1C5. The entry of a new block stands in its leaf table, and an abandon
and a creation write nothing but tables (R170). An operation that would write or copy a block in migration waits (R412;
DEDUCED, log 57). Which arena entry a new sequence takes is the model's choice (log 93). -/
def Obligations.SequenceControl : Prop :=
  ∀ (s : State) (r e : SqReg) (d a c : Reg) (b : SqBinding) (i : Nat) (q : Seq), s.hart.queue = [] →
    let n := (s.x c).toNat
    let first := (s.x a).toNat
    (BoundTo s r b i q →
      (∃ t, exec (.sqlen d r) s = .next t ∧ XWritten s t d (BitVec.ofNat 64 q.clen) ∧ t.hart.pc = s.hart.pc + 4 ∧
        t.sqReg r = some { b with shadow := BitVec.ofNat 64 q.clen } ∧ OtherHandles s t r ∧ t.ctxs = s.ctxs ∧
        OnlySequences s t false ∧ SameBytes s t) ∧
      GivesX (.sqlenH d r) s d (b.handle.setWidth 64) ∧
      -- sqres
      (n = 0 → GivesX (.sqres d r c) s d (BitVec.ofNat 64 q.rlen)) ∧
      (1024 < n → Traps (.sqres d r c) s 0x1C6 (b.handle.setWidth 64) s.hart.pc) ∧
      (n ≠ 0 → n ≤ 1024 → 2 ^ 20 < q.rlen + n → Traps (.sqres d r c) s 0x1C9 (b.handle.setWidth 64) s.hart.pc) ∧
      (n ≠ 0 → n ≤ 1024 → q.rlen + n ≤ 2 ^ 20 →
        let blocks := (List.range ((q.rlen + n + 15) / 16)).filter fun k => decide (q.rlen / 16 ≤ k)
        let busy := q.clen + 1024 < q.rlen + n ∨ q.resv.length = 64 ∨ s.myCtx.blocksFor q blocks = none
        (busy → GivesX (.sqres d r c) s d 0xFFFFFFFFFFFFFFFF) ∧
        (¬ busy → ∀ pa va, tget q.blocks (q.rlen / 16) = some pa → s.blockParked pa = some va →
          WaitsFor (.sqres d r c) s (.parked va true)) ∧
        (¬ busy → Unheld s (tget q.blocks (q.rlen / 16)) → ∃ t q', exec (.sqres d r c) s = .next t ∧ t.hart.pc = s.hart.pc + 4 ∧
          XWritten s t d (BitVec.ofNat 64 q.rlen) ∧ tget t.myCtx.seqs i = some q' ∧ q'.rlen = q.rlen + n ∧
          q'.clen = q.clen ∧ q'.pending = q.pending ∧ q'.resv = q.resv ++ [⟨q.rlen, n, s.hart.uid, r.toNat⟩] ∧
          (∀ k pa, tget q.blocks k = some pa → tget q'.blocks k = some pa) ∧
          (∀ k ∈ blocks, tget q'.blocks k ≠ none) ∧
          (∀ o, q.rlen * q.slotSize ≤ o → o < (q.rlen + n) * q.slotSize →
            ∃ pa, seqPlace q' o = some pa ∧ cellGet t.mem pa = Config.unlisted) ∧
          (HostApart s → PiecesApart (pieces q') →
            ∀ k ∈ blocks, tget q.blocks k = none → EntryStands t q' k) ∧
          OtherSequences s t [i] ∧ t.hart.sq = s.hart.sq ∧ OnlySequences s t true)) ∧
      -- sqcmt
      (n = 0 → ∃ t, exec (.sqcmt r a c) s = .next t ∧ t.hart.pc = s.hart.pc + 4 ∧ t.hart.x = s.hart.x ∧
        t.sqReg r = some { b with shadow := BitVec.ofNat 64 q.clen } ∧ OtherHandles s t r ∧ t.ctxs = s.ctxs ∧
        OnlySequences s t false) ∧
      (n ≠ 0 → (∀ k, k < n → Owns s q r (first + k)) →
        ∃ t q', exec (.sqcmt r a c) s = .next t ∧ t.hart.pc = s.hart.pc + 4 ∧ t.hart.x = s.hart.x ∧
          tget t.myCtx.seqs i = some q' ∧ q'.rlen = q.rlen ∧ q.clen ≤ q'.clen ∧ q'.clen ≤ q.rlen ∧
          (∀ k, k < q.rlen → (Committed q' k ↔ Committed q k ∨ (first ≤ k ∧ k < first + n))) ∧
          ¬ (q'.clen < q'.rlen ∧ q'.clen ∈ q'.pending) ∧ q'.blocks = q.blocks ∧
          t.sqReg r = some { b with shadow := BitVec.ofNat 64 q'.clen } ∧ OtherHandles s t r ∧
          OtherSequences s t [i] ∧ OnlySequences s t false ∧ SameBytes s t) ∧
      (n ≠ 0 → ¬ (∀ k, k < n → Owns s q r (first + k)) →
        Traps (.sqcmt r a c) s 0x1C2 (b.handle.setWidth 64) s.hart.pc) ∧
      -- sqabn
      (n ≠ 0 → first + n = q.rlen → (∀ k, k < n → Owns s q r (first + k)) →
        ∃ t q', exec (.sqabn r a c) s = .next t ∧ t.hart.pc = s.hart.pc + 4 ∧ SameRegs s t ∧
          tget t.myCtx.seqs i = some q' ∧ q'.rlen = first ∧ q'.clen = q.clen ∧ q'.pending = q.pending ∧
          (∀ k, 16 * k < first → tget q'.blocks k = tget q.blocks k) ∧
          (∀ k, first ≤ 16 * k → tget q'.blocks k = none) ∧
          (Canonical s → ∀ x, (∀ z ∈ q.tables, ¬ (z ≤ x ∧ x < z + 2056)) → cellGet t.mem x = cellGet s.mem x) ∧
          OtherSequences s t [i] ∧ OnlySequences s t true) ∧
      (n ≠ 0 → ¬ (first + n = q.rlen ∧ ∀ k, k < n → Owns s q r (first + k)) →
        Traps (.sqabn r a c) s 0x1C3 (b.handle.setWidth 64) s.hart.pc) ∧
      -- sqdrop
      (∃ t, exec (.sqdrop r) s = .next t ∧ t.hart.pc = s.hart.pc + 4 ∧ t.hart.x = s.hart.x ∧ t.sqReg r = none ∧
        OtherHandles s t r ∧ OnlySequences s t true ∧
        ((∀ v ∈ q.resv, ¬ (v.uid = s.hart.uid ∧ v.reg = r.toNat)) → 1 < q.refcnt →
          ∃ q', tget t.myCtx.seqs i = some q' ∧ q'.refcnt = q.refcnt - 1 ∧ OtherSequences s t [i]) ∧
        ((∀ v ∈ q.resv, ¬ (v.uid = s.hart.uid ∧ v.reg = r.toNat)) → q.refcnt = 1 → q.parent = none →
          (Tbl.rising s.myCtx.seqs = true → tget t.myCtx.seqs i = none) ∧ tget t.myCtx.gens i = some ((q.gen + 1) % 4096) ∧
          OtherSequences s t [i])) ∧
      -- sqfork
      (e.toNat < s.hart.bounds.seqs → s.sqReg e = none → s.myCtx.arenaEn = true → q.clen < n →
        Traps (.sqfork e r c) s 0x1C4 (b.handle.setWidth 64) s.hart.pc) ∧
      (e.toNat < s.hart.bounds.seqs → s.sqReg e = none → s.myCtx.arenaEn = true → n ≤ q.clen →
        ∀ j k1 child, s.freeEntry = some j →
        s.myCtx.forkStorage q ((tget s.myCtx.gens j).getD 0) n b.handle = some (k1, child) →
        (∀ pa va, n % 16 ≠ 0 → tget q.blocks (n / 16) = some pa → s.blockParked pa = some va →
          WaitsFor (.sqfork e r c) s (.parked va true)) ∧
        ((n % 16 ≠ 0 → Unheld s (tget q.blocks (n / 16))) →
        ∃ t, exec (.sqfork e r c) s = .next t ∧ t.hart.pc = s.hart.pc + 4 ∧ t.hart.x = s.hart.x ∧
          t.sqReg e = some ⟨child.handle j, BitVec.ofNat 64 n⟩ ∧ OtherHandles s t e ∧
          tget t.myCtx.seqs j = some child ∧ child.clen = n ∧ child.rlen = n ∧ child.parent = some b.handle ∧
          (j ≠ i → tget t.myCtx.seqs i = some { q with refcnt := q.refcnt + 1 }) ∧
          (∀ k, k < n / 16 → tget child.blocks k = tget q.blocks k) ∧ OnlySequences s t true))) ∧
    -- sqnew
    (∀ w : Word, s.x a = w → r.toNat < s.hart.bounds.seqs → s.sqReg r = none → s.myCtx.arenaEn = true →
      w.getLsbD 63 = false → ∀ cls j root k1, createClass w.toNat = some cls → s.freeEntry = some j →
      s.myCtx.alloc 2048 = some (root, k1) →
      ∃ t q', exec (.sqnew r a) s = .next t ∧ t.hart.pc = s.hart.pc + 4 ∧ t.hart.x = s.hart.x ∧
        tget t.myCtx.seqs j = some q' ∧ q'.clen = 0 ∧ q'.rlen = 0 ∧ q'.refcnt = 1 ∧ q'.cls = cls ∧
        q'.resv = [] ∧ q'.blocks = [] ∧ q'.root = root ∧ q'.gen = (tget s.myCtx.gens j).getD 0 ∧
        t.sqReg r = some ⟨q'.handle j, 0⟩ ∧ OtherHandles s t r ∧ OtherSequences s t [j] ∧
        (∀ x, root ≤ x → x < root + 2048 → cellGet t.mem x = Config.unlisted) ∧
        (HostApart s → PiecesApart [(root, 2048)] →
          ∀ x, (x < root ∨ root + 2048 ≤ x) → cellGet t.mem x = cellGet s.mem x) ∧
        OnlySequences s t true) ∧
    (∀ w : Word, s.x a = w → r.toNat < s.hart.bounds.seqs → s.sqReg r = none → s.myCtx.arenaEn = true →
      w.getLsbD 63 = true → w.toNat / 2 ^ 32 % 2 ^ 31 = 0 → i = w.toNat % 2 ^ 20 →
      i < 2 ^ s.myCtx.arenaLog.toNat → tget s.myCtx.seqs i = some q → q.gen = w.toNat % 2 ^ 32 / 2 ^ 20 →
      ∃ t, exec (.sqnew r a) s = .next t ∧ t.hart.pc = s.hart.pc + 4 ∧ t.hart.x = s.hart.x ∧
        tget t.myCtx.seqs i = some { q with refcnt := q.refcnt + 1 } ∧
        t.sqReg r = some ⟨w.setWidth 32, BitVec.ofNat 64 q.clen⟩ ∧ OtherHandles s t r ∧ OtherSequences s t [i] ∧
        OnlySequences s t false ∧ SameBytes s t) ∧
    (r.toNat < s.hart.bounds.seqs → s.sqReg r = none →
      ∀ x ∈ [Instr.sqlen d r, .sqlenH d r, .sqres d r c, .sqcmt r a c, .sqabn r a c, .sqdrop r],
        Traps x s 0x1C5 (BitVec.ofNat 64 (2 ^ 63 + r.toNat)) s.hart.pc)

/-- Sequence data (R42, R76, R175 to R177, R183, R294, R316, R317): sqst puts the active units' bytes at their slots
once every slot is owned, drops the lines of L0 they lie on, and else faults as a whole; sqld loads the bytes below the
committed length, zero above it, and its mask names the elements above it, at VL = 0 too; the compaction engine moves
a block without changing its bytes, writes its leaf entry, and gives its old storage back at once where no gather of the
context has begun; while one has not completed, the old counter stays odd. An access that touches a block in migration
waits in its queue (R412). That an access of a sequence finds its block in the mapping of the hart's own VTT is DEDUCED
(log 57); PIDX and kd of sqld at VL = 0 are the model's choice (log 5). -/
def Obligations.SequenceData : Prop :=
  ∀ (s : State) (r : SqReg) (d a : Reg) (k kd : KReg) (b : SqBinding) (i : Nat) (q : Seq),
    let n := unitSize s
    let at_ (u : Nat) : Nat := (s.x a).toNat * q.slotSize + u * n
    (Issues s → Fits s [d.toNat] → etype s ≤ 15 → BoundTo s r b i q →
      -- sqst
      (vl s ≤ vs s → VectorIdle (.sqst d r a k) s) ∧
      ((∀ u ∈ unitsOn s k, Owns s q r (at_ u / q.slotSize)) → vs s < vl s →
        (∀ u ∈ unitsOn s k, Unheld s (seqPlace q (at_ u))) →
        ∃ t, exec (.sqst d r a k) s = .next t ∧ VectorEnds s t 0 ∧ t.hart.v = s.hart.v ∧
          t.hart.dirtyv = s.hart.dirtyv ∧
          (∀ x, (∀ u ∈ unitsOn s k, ∀ pa, seqPlace q (at_ u) = some pa → ¬ (pa ≤ x ∧ x < pa + n)) →
            cellGet t.mem x = cellGet s.mem x) ∧
          (∀ u ∈ unitsOn s k, ∀ pa j, j < n → seqPlace q (at_ u) = some pa →
            (∀ v ∈ unitsOn s k, ∀ pb, u < v → seqPlace q (at_ v) = some pb → ¬ (pb ≤ pa + j ∧ pa + j < pb + n)) →
            cellGet t.mem (pa + j) = byteOf (BitVec.ofNat 64 (unitValue s d u)) j) ∧
          (∀ u ∈ unitsOn s k, ∀ pa j, j < n → seqPlace q (at_ u) = some pa →
            ∀ h ∈ t.hart :: t.others, h.core = s.hart.core → tget h.l0 ((pa + j) / 64) = none) ∧
          (∀ c, (t.core c).l1 = (s.core c).l1) ∧ t.ctxs = s.ctxs ∧ OnlyMemory s t) ∧
      ((∀ u ∈ unitsOn s k, Owns s q r (at_ u / q.slotSize)) → vs s < vl s →
        (∃ u ∈ unitsOn s k, ¬ Unheld s (seqPlace q (at_ u))) → StaysQueued (.sqst d r a k) s) ∧
      ((∃ u ∈ unitsOn s k, ¬ Owns s q r (at_ u / q.slotSize)) →
        ∃ t, exec (.sqst d r a k) s = .next t ∧
          TrapRegsTaken s t 0x1C1 (b.handle.setWidth 64) s.hart.pc ∧ SameRegs s t) ∧
      -- sqld
      ((∃ u, u < (vl s + unitLen s - 1) / unitLen s ∧ at_ u / q.slotSize < q.clen ∧
        ¬ Unheld s (seqPlace q (at_ u))) → StaysQueued (.sqld d kd r a) s) ∧
      (kd ≠ 0 →
        (∀ o pa, o < ((vl s + unitLen s - 1) / unitLen s) * n → seqPlace q (at_ 0 + o) = some pa →
          s.blockParked pa = none ∧ s.flaw pa = .none ∧ (isHbm pa = true → s.grainOf pa = 3)) →
        let seen_ (u : Nat) : Bool := decide (at_ u / q.slotSize < q.clen)
        let byte (u j : Nat) : Byte := match seqPlace q (at_ u) with
          | some pa => cellGet s.mem (pa + j)
          | none => 0
        ∃ t, exec (.sqld d kd r a) s = .next t ∧ VectorEnds s t 0 ∧
          (∀ e, e < 65536 → (t.mask kd).getLsbD e = (decide (e < vl s) && !seen_ (e / unitLen s))) ∧
          (∀ p : KReg, p ≠ kd → t.mask p = s.mask p) ∧
          Written s t d.toNat (group s) (width s) (vl s) (fun e =>
            if seen_ (e / unitLen s) = true then loadedAt s byte e else 0) ∧
          Kept s t (within d.toNat (group s)) ∧
          OnlyVector s { t with hart := { t.hart with k := s.hart.k } })) ∧
    -- the compaction engine
    (∀ (c x y z : Nat), tget (s.ctx c).seqs i = some q → tget q.blocks x = some y →
      (s.ctx c).movable q x y = true → (s.ctx c).allocAt q.blockSize z ≠ none → y % 32 = 0 → z % 32 = 0 →
      HostApart s →
      (∀ leaf, tget q.leaves (x / 256) = some leaf → PiecesApart [(y, q.blockSize), (z, q.blockSize), (leaf, 2048)]) →
      (tget q.leaves (x / 256) = none → PiecesApart [(y, q.blockSize), (z, q.blockSize)]) →
      ∃ t q', exec (.compactionMove c i x z) s = .next t ∧ tget (t.ctx c).seqs i = some q' ∧
        tget q'.blocks x = some z ∧ { q' with blocks := q.blocks } = q ∧
        (∀ o, o < q.blockSize → cellGet t.mem (z + o) = cellGet s.mem (y + o)) ∧
        (∀ leaf, tget q.leaves (x / 256) = some leaf → ∀ j, j < 8 →
          cellGet t.mem (leaf + 8 * (x % 256) + j) = byteOf (BitVec.ofNat 64 z) j) ∧
        (∀ p, (p < z ∨ z + q.blockSize ≤ p) →
          (∀ leaf, tget q.leaves (x / 256) = some leaf → ¬ (leaf ≤ p ∧ p < leaf + 2048)) →
          cellGet t.mem p = cellGet s.mem p) ∧ t.hart = s.hart ∧
        (s.gathering c = [] → (q.blockSize, y) ∈ (t.ctx c).freeList) ∧
        (∀ g l, s.hart.ctx = c → s.hart.copyq = g :: l → copyKind g.word = .gather →
          (∀ m ∈ (s.ctx c).moved, m.addr ≠ y) → ∃ v, tget (t.ctx c).blocks y = some v ∧ v.version.getLsbD 0 = true))

/-! ### The copy engine and the scheduler's instructions -/

namespace Sys2Proof.Claims

/-- A completion offset that passes: none, or an aligned one below the declared scratchpad (R90, R346). -/
def OffsetOk (s : State) (v : Word) : Prop :=
  v = 0xFFFFFFFFFFFFFFFF ∨ (v.toNat % 8 = 0 ∧ v.toNat < s.hart.bounds.scratch)

/-- The command stands at the end of the copy queue with what it captured and nothing done, marked where it names bytes
of a domain window or a SEQ page, and the hart goes on. -/
def Queued (i : Instr) (s : State) (ops : List Word) (desc : List Byte) (clen block : Nat) : Prop :=
  ∃ t lnk seq, exec i s = .next t ∧
    t.hart.copyq = s.hart.copyq ++ [⟨.queued, encode i, ops, desc, clen, block, s.time, lnk, seq, none, [], 0⟩] ∧
    t.hart.journal = [] ∧ t.hart.pc = s.hart.pc + 4 ∧
    { t with hart := { t.hart with
        copyq := s.hart.copyq, journal := s.hart.journal, pc := s.hart.pc, tlb := s.hart.tlb } } = s ∧
    SameBytes s t

/-- The bytes of a descriptor in the hart's scratchpad. -/
def descAt (s : State) (off : Nat) : List Byte := (List.range 64).map fun i => s.scrByte (off + i)

/-- A byte of the scratchpad after a command: its completion word, else its data, else the old byte. -/
def afterCopy (s : State) (c : CopyCmd) (at_ : Nat) (data : List Byte) (j : Nat) : Byte :=
  if c.cwOffset ≠ 0xFFFFFFFFFFFFFFFF ∧ c.cwOffset.toNat ≤ j ∧ j < c.cwOffset.toNat + 8 then
    byteOf c.cwValue (j - c.cwOffset.toNat)
  else if at_ ≤ j ∧ j < at_ + data.length then data.getD (j - at_) 0
  else s.scrByte j

/-- The head command is done: it has left the queue, and but for the scratchpad, the free-value counter and moved
blocks of sequences whose storage goes back (R183) everything else is as before. -/
def HeadDone (s t : State) : Prop :=
  t.hart.copyq = s.hart.copyq.drop 1 ∧
  { t with
    free := s.free, ctxs := s.ctxs, hart := { t.hart with scr := s.hart.scr, copyq := s.hart.copyq } } = s ∧
  ((s.ctx s.hart.ctx).moved = [] → t.ctxs = s.ctxs) ∧ SameBytes s t

/-- The engine may work on the head command: the hart is not in its save area, and no read of an instruction before
the command has still to return (R103, R116). -/
def EngineFree (s : State) : Prop :=
  s.hart.saved = false ∧ ∀ e ∈ s.hart.queue, e.reads = true → e.rhold = true

/-- The device number of a rank in a group table at an offset of the scratchpad (R350). -/
def rankDevice (s : State) (g r : Nat) : Nat := bytesVal [s.scrByte (g + 2 * r), s.scrByte (g + 2 * r + 1)]

/-- Some rank that a collective waits for has not issued its command (R350). -/
def RankMissing (s : State) (C : Coll) (g : Nat) : Prop :=
  (C.op < 3 ∧ ∃ r, r < C.nrank ∧ r ≠ C.myrank ∧
    ∀ p ∈ s.peers, ¬ (p.rank = r ∧ p.device = rankDevice s g r ∧ p.ctl.toNat % 16 < 3)) ∨
  (3 ≤ C.op ∧ ∀ p ∈ s.peers,
    ¬ (p.rank = C.peer ∧ p.device = rankDevice s g C.peer ∧ p.ctl.toNat % 16 = 7 - C.op ∧ p.peer = C.myrank))

/-- The step ends the collective at the head with status 2, its destination left open (R350, R446). -/
def CollFails (i : Instr) (s : State) (c : CopyCmd) (dst record : Nat) : Prop :=
  ∃ t, exec i s = .next t ∧ HeadDone s t ∧
    ∀ j, ¬ (dst ≤ j ∧ j < dst + (Coll.of c.desc).dstCount * (Coll.of c.desc).esize) ∨
        (record ≤ j ∧ j < record + 16) →
      t.scrByte j = afterCopy s c record (valBytes 8 2 ++ valBytes 8 0) j

/-- A collective whose ranges lie in the scratchpad, at the head of a hart's queue (R350). -/
def CollAt (s : State) (c : CopyCmd) (dst record : Nat) : Prop :=
  s.hart.saved = false ∧ copyKind c.word = .coll ∧ s.hart.bounds.scratch ≤ 3670016 ∧ s.hart.scrBad = [] ∧
  InScratch s (Coll.of c.desc).dst ((Coll.of c.desc).dstCount * (Coll.of c.desc).esize) dst ∧
  InScratch s (Coll.of c.desc).record 16 record ∧ (Coll.of c.desc).record ≠ 0

/-- An attempt of a gather failed (R184): its counter has changed since it began, or was odd. -/
def FailedAttempt (s : State) (c : CopyCmd) (a : Attempt) : Prop :=
  c.attempt = some a ∧ (s.version a.addr ≠ a.version ∨ a.version.getLsbD 0 = true)

end Sys2Proof.Claims

/-- Copy commands at their issue (R346 to R350): with the queue full the front end waits; with every check
passed the command enters the queue with its word, its captured operands and its descriptor; the first check
that fails traps. A range within the declared scratchpad passes its check. -/
def Obligations.CopyCommands : Prop :=
  ∀ (s s1 s2 : State) (d a b m e : Reg) (off : Nat),
    let nG := (s.x b).toNat / 2 ^ 32 % 128
    let X := CopyX.of (descAt s off)
    let C := Coll.of (descAt s off)
    (∀ (k : Kind) (n : Nat), InScratch s (s.x a) n off → s.hart.bounds.scratch ≤ 3670016 →
      s.checkRange k (s.x a) n = .ok s) ∧
    (16 ≤ s.hart.copyq.length →
      WaitsFor (.cpy d a b m e) s .copyRoom ∧ WaitsFor (.cpyG d a b m e) s .copyRoom ∧
      WaitsFor (.cpyX a b m) s .copyRoom ∧ WaitsFor (.cpySum d a b m) s .copyRoom ∧
      WaitsFor (.coll a b m) s .copyRoom) ∧
    (s.hart.copyq.length < 16 →
      (2 ^ 40 < (s.x b).toNat → Traps (.cpy d a b m e) s 0x20D (s.x b) s.hart.pc ∧
        Traps (.cpySum d a b m) s 0x20D (s.x b) s.hart.pc) ∧
      ((s.x b).toNat ≤ 2 ^ 40 → s.x m ≠ 0xFFFFFFFFFFFFFFFF → (s.x m).toNat % 8 ≠ 0 →
        Traps (.cpy d a b m e) s 0x0C8 (s.x m) s.hart.pc) ∧
      ((s.x b).toNat ≤ 2 ^ 40 → s.x m ≠ 0xFFFFFFFFFFFFFFFF → (s.x m).toNat % 8 = 0 →
        s.hart.bounds.scratch ≤ (s.x m).toNat → Traps (.cpy d a b m e) s 0x082 (s.x m) s.hart.pc) ∧
      ((s.x b).toNat ≤ 2 ^ 40 → OffsetOk s (s.x m) → s.checkRange .read (s.x a) (s.x b).toNat = .ok s1 →
        (s1.checkRange .write (s.x d) (s.x b).toNat = .ok s2 →
          Queued (.cpy d a b m e) s [s.x d, s.x a, s.x b, s.x m, s.x e] [] 0 0) ∧
        ((s.x d).toNat % 8 = 0 → s1.checkRange .write (s.x d) 16 = .ok s2 →
          Queued (.cpySum d a b m) s [s.x d, s.x a, s.x b, s.x m, 0] [] 0 0)) ∧
      (¬ (1 ≤ nG ∧ nG ≤ 64 ∧ (s.x b).toNat < 2 ^ 39) → Traps (.cpyG d a b m e) s 0x20D (s.x b) s.hart.pc) ∧
      (∀ r, 1 ≤ nG → nG ≤ 64 → (s.x b).toNat < 2 ^ 39 → OffsetOk s (s.x m) →
        s.seqOf ((s.x b).setWidth 32) = .ok r → s.checkRange .read (s.x a) (4 * nG) = .ok s1 →
        s1.checkRange .write (s.x d) (nG * (16 * r.2.slotSize)) = .ok s2 →
        Queued (.cpyG d a b m e) s [s.x d, s.x a, s.x b, s.x m, s.x e] [] r.2.clen (16 * r.2.slotSize)) ∧
      (OffsetOk s (s.x b) → InScratch s (s.x a) 64 off → s.hart.bounds.scratch ≤ 3670016 → off % 8 = 0 →
        s.hart.scrBad = [] →
        (X.flags.toNat < 64 → X.flags.toNat / 8 % 4 ≠ 3 → X.flags.getLsbD 0 = false → X.rest = 0 →
          s.checkRows .read X.rowb ((List.range X.rows).map X.srcRow) = .ok s1 →
          s1.checkRows .write X.rowb ((List.range X.rows).map X.dstRow) = .ok s2 →
          X.record = 0 →
          Queued (.cpyX a b m) s [0, s.x a, s.x b, s.x m, 0] (descAt s off) 0 0) ∧
        (X.rest ≠ 0 → X.flags.getLsbD 0 = false → Traps (.cpyX a b m) s 0x20D (s.x a) s.hart.pc) ∧
        (X.flags.getLsbD 0 = true → s.hart.trap.priv = false →
          Traps (.cpyX a b m) s 0x20E (s.x a) s.hart.pc) ∧
        (C.op ≤ 4 → C.type ≤ 3 → C.rop ≤ 2 → C.ctl.toNat < 2 ^ 13 → 1 ≤ C.count → C.count < 2 ^ 32 →
          2 ≤ C.nrank → C.nrank ≤ 1024 → C.myrank < C.nrank → (C.op < 3 ∨ C.peer < C.nrank) → C.resv = 0 →
          (C.op ≠ 0 ∧ C.op ≠ 2 ∨ C.ordered = true ∨ s.hart.csr.det = false) →
          (∀ s3, s.checkRange .read C.src (C.srcCount * C.esize) = .ok s1 →
            s1.checkRange .read C.group (2 * C.nrank) = .ok s2 →
            s2.checkRange .write C.dst (C.dstCount * C.esize) = .ok s3 → C.record = 0 →
            Queued (.coll a b m) s [0, s.x a, s.x b, s.x m, 0] (descAt s off) 0 0)) ∧
        (4 < C.op → Traps (.coll a b m) s 0x20D (s.x a) s.hart.pc)))

/-- The copy engine's steps: a cpy and a cpy.sum whose ranges lie in the scratchpad move their bytes or write
their record, then write their completion word (R90, R346 to R348); a gather whose attempt failed tries again, and
the eighth failure at one block is an engine fault 0x1C7 that names the block (R184), which cancels the later commands,
journals them and traps (R351); a collective of which some rank did not issue in time records status 2, and one whose
ranks have all issued does not end so (R446). That TVAL of 0x1C7 is the block's physical address is the model's choice
(log 54). -/
def Obligations.CopyEngineSteps : Prop :=
  ∀ (s : State) (c : CopyCmd) (rest : List CopyCmd) (n src_ dst_ : Nat),
    s.hart.copyq = c :: rest →
    (EngineFree s → s.hart.bounds.scratch ≤ 3670016 → InScratch s (c.op 1) n src_ → c.done = 0 →
      c.attempt = none → s.hart.scrBad = [] →
      n = (c.op 2).toNat →
      (copyKind c.word = .cpy → InScratch s (c.op 0) n dst_ → (src_ + n ≤ dst_ ∨ dst_ + n ≤ src_) →
        ∃ t, exec (.copyCommandComplete s.hart.uid) s = .next t ∧ HeadDone s t ∧
          ∀ j, t.scrByte j = afterCopy s c dst_ ((List.range n).map fun i => s.scrByte (src_ + i)) j) ∧
      (copyKind c.word = .sum → InScratch s (c.op 0) 16 dst_ →
        ∃ t, exec (.copyCommandComplete s.hart.uid) s = .next t ∧ HeadDone s t ∧
          ∀ j, t.scrByte j = afterCopy s c dst_
            (valBytes 8 (crc64 ((List.range n).map fun i => s.scrByte (src_ + i))).toNat ++ valBytes 8 n) j)) ∧
    (∀ (tval : Word) (p : Attempt), EngineFree s → copyKind c.word = .gather → FailedAttempt s c p →
      let fails := (tget c.failed p.place).getD 0
      (fails ≠ 7 → ∃ t, exec (.copyCommandComplete s.hart.uid) s = .next t ∧
        t.hart.copyq = { c with attempt := none, failed := tset c.failed p.place (fails + 1) } :: rest ∧
        { t with hart := { t.hart with copyq := s.hart.copyq } } = s ∧ SameBytes s t) ∧
      (fails = 7 → s.hart.status = .running → s.hart.wait = .none →
        ∀ i ∈ [Instr.copyCommandComplete s.hart.uid, .copyEngineFault s.hart.uid 0x1C7 tval],
          ∃ t, exec i s = .next t ∧
            TrapRegsTaken s t 0x1C7 (BitVec.ofNat 64 p.addr) s.hart.pc ∧ t.hart.copyq = [] ∧
            t.hart.journal = { c with status := .faulted } :: rest.map (fun r => { r with status := .cancelled }) ∧
            (∀ r, t.x r = s.x r) ∧ t.hart.f = s.hart.f ∧ t.hart.v = s.hart.v ∧ t.hart.scr = s.hart.scr)) ∧
    (CollAt s c src_ dst_ → s.mgmt.collNs ≤ (s.time - c.issued).toNat →
      ∀ g, InScratch s (Coll.of c.desc).group (2 * (Coll.of c.desc).nrank) g →
      (3 ≤ (Coll.of c.desc).op → (Coll.of c.desc).peer < (Coll.of c.desc).nrank) →
      (¬ RankMissing s (Coll.of c.desc) g → ∃ t, exec (.collRankTimeout s.hart.uid) s = .next t ∧
        t.hart = s.hart ∧ t.peers = s.peers ∧ SameBytes s t) ∧
      (RankMissing s (Coll.of c.desc) g → CollFails (.collRankTimeout s.hart.uid) s c src_ dst_))

namespace Sys2Proof.Claims

/-- Word j of a launch descriptor in the scratchpad (R353). -/
def launchWord (s : State) (off j : Nat) : Word := BitVec.ofNat 64 (le (fun i => s.scrByte (off + 8 * j + i)) 8)

/-- CTL's reserved bits are 0 and its cores per die at most 64 (R353). -/
def ControlFits (ctl : Word) : Prop :=
  ctl.getLsbD 7 = false ∧ ctl.toNat / 2 ^ 12 % 16 = 0 ∧ ctl.toNat < 2 ^ 24 ∧ ctl.toNat / 2 ^ 16 ≤ 64

/-- Everything but the x registers, the PC and the memory side, which a write-back changes, is as before; the hart's
L1 holds no dirty byte. -/
def OnlyFlush (s t : State) : Prop :=
  memApart { t with hart := { t.hart with x := s.hart.x, pc := s.hart.pc }, free := s.free } = memApart s ∧
  OnlyOwnL1 s t ∧ NothingDirty t s.hart.core

/-- The record of an accepted launch (R53): what its descriptor, its context and its issuing hart fix. -/
def RecordOf (s : State) (l : Launch) (k : Kernel) (w : Nat → Word) : Prop :=
  l.ctx = s.hart.ctx ∧ l.die = dieOf s.hart.core ∧ l.kzhdr = (w 0).toNat ∧ l.kernel = k ∧ l.args = w 1 ∧
  l.prio = (w 2).toNat % 64 ∧ l.det = (s.hart.csr.det || (w 2).getLsbD 6) ∧
  l.dieMask = (w 2).extractLsb' 8 4 ∧ l.perDie = (w 2).toNat / 2 ^ 16 ∧ l.after = (w 3).toNat ∧
  l.seed = s.myCtx.seed ∧ l.brim = s.myCtx.vlcap.toNat ∧ l.parent = some s.hart.uid ∧ l.hostq = none ∧
  l.place = .queue ∧ l.eligible = false ∧ l.started = [] ∧ l.exits = 0 ∧ l.status = none

end Sys2Proof.Claims

/-- launch, join, yield, exit and mark (R53 to R62, R188, R353, R354, R394, R412): a launch waits where a trip count's
page is in migration, else writes back, and answers a new handle with its record or the code of what stands against
it; a join saves its hart until the child has completed, and a child that already has gives the time from which its
hart is ready; a yield changes nothing where no candidate stands at its priority, and else asks for a save; an exit
ends its hart, and the last one completes the launch; a mark raises PMARK and takes the snapshot. That the offer of a
yield is always used (log 30), that a join whose child has completed is ready from the child's end (log 82), that a launch
waits for a trip count's page (logs 58 and 60), the order of its refusals (log 60) and the number of a new handle (log 93)
are the model's choices. -/
def Obligations.SchedulingInstructions : Prop :=
  ∀ (s : State) (d a : Reg) (off : Nat),
    let w := launchWord s off
    let u := s.writeBackAll s.hart.core false
    let own := launchOf s.hart.uid
    ((s.x a).toNat % 8 ≠ 0 → Traps (.launch d a) s 0x0C8 (s.x a) s.hart.pc) ∧
    (InScratch s (s.x a) 32 off → off % 8 = 0 → s.hart.bounds.scratch ≤ 3670016 → s.hart.scrBad = [] →
      (∀ k va, tget s.myCtx.kernels (w 0).toNat = some k → s.tripParks s.hart.ctx k (w 1) = some va →
        WaitsFor (.launch d a) s (.parked va false)) ∧
      ((∀ k, tget s.myCtx.kernels (w 0).toNat = some k → s.tripParks s.hart.ctx k (w 1) = none) →
      (tget s.myCtx.kernels (w 0).toNat = none ∨ ¬ ControlFits (w 2) ∨ (w 3 ≠ 0 ∧ s.handleOf s.hart.ctx (w 3) = none) →
        ∃ t, exec (.launch d a) s = .next t ∧ XWritten s t d 0xFFFFFFFFFFFFFFFD ∧ t.hart.pc = s.hart.pc + 4 ∧
          OnlyFlush s t) ∧
      (∀ k, tget s.myCtx.kernels (w 0).toNat = some k → ControlFits (w 2) →
        (w 3 = 0 ∨ (s.handleOf s.hart.ctx (w 3)).isSome = true) →
        let trips := u.tripsOf s.hart.ctx k (w 1)
        (tripsOk k.bounds.paired trips = false →
          ∃ t, exec (.launch d a) s = .next t ∧ XWritten s t d 0xFFFFFFFFFFFFFFFE ∧ t.hart.pc = s.hart.pc + 4 ∧
            OnlyFlush s t) ∧
        (tripsOk k.bounds.paired trips = true → s.queueRoom (dieOf s.hart.core) s.hart.ctx = false →
          s.myCtx.ringBase = 0 →
          ∃ t, exec (.launch d a) s = .next t ∧ XWritten s t d 0xFFFFFFFFFFFFFFFF ∧ t.hart.pc = s.hart.pc + 4 ∧
            OnlyFlush s t) ∧
        (tripsOk k.bounds.paired trips = true → s.queueRoom (dieOf s.hart.core) s.hart.ctx = true →
          s.myCtx.ringUsed = 0 →
          ∃ t l, exec (.launch d a) s = .next t ∧ XWritten s t d (BitVec.ofNat 64 s.nextLaunch) ∧
            t.hart.pc = s.hart.pc + 4 ∧ t.nextLaunch = s.nextLaunch + 1 ∧
            tget t.launches s.nextLaunch = some l ∧ RecordOf s l k w ∧ l.trips = trips ∧
            l.count = instanceCount trips ∧ (∀ h, h ≠ s.nextLaunch → tget t.launches h = tget s.launches h) ∧
            OnlyFlush s { t with launches := s.launches, nextLaunch := s.nextLaunch, ctxs := s.ctxs })))) ∧
    (s.handleOf s.hart.ctx (s.x a) = none → Traps (.join d a) s 0x243 (s.x a) s.hart.pc) ∧
    (∀ h l, s.handleOf s.hart.ctx (s.x a) = some (h, l) →
      (h = own → Traps (.join d a) s 0x242 (s.x a) s.hart.pc) ∧
      (h ≠ own → s.hart.queue ≠ [] → WaitsFor (.join d a) s .held) ∧
      (h ≠ own → s.hart.queue = [] → s.hart.reclaimed = false →
        ∃ t, exec (.join d a) s = .next t ∧
          t.hart.status = (if s.hart.holdReq then .held else if l.status.isSome then .ready else .joinSleep) ∧
          t.hart.readyAt = (if l.status.isSome then l.doneAt else s.time) ∧ t.hart.saved = true ∧
          t.hart.holds = false ∧ t.hart.wait = .join h d ∧ t.hart.reason = .join ∧
          t.hart = { t.hart with
            pc := s.hart.pc, x := s.hart.x, f := s.hart.f, k := s.hart.k, v := s.hart.v, sq := s.hart.sq
            csr := s.hart.csr, trap := s.hart.trap, acc := s.hart.acc, scr := s.hart.scr, copyq := s.hart.copyq } ∧
          NothingDirty t s.hart.core)) ∧
    ((∀ c ∈ s.advance.cands s.hart.core, c.prio < s.advance.priority s.advance.hart) →
      OnlyJumps .yield s (s.hart.pc + 4)) ∧
    (s.hart.status = .running → (∃ c ∈ s.advance.cands s.hart.core, s.advance.priority s.advance.hart ≤ c.prio) →
      ∃ t, exec .yield s = .next t ∧
        t.hart.saveReq = (if s.hart.saveReq = none then some .yield else s.hart.saveReq) ∧
        { t.hart with saveReq := s.hart.saveReq, saveFrom := s.hart.saveFrom, pc := s.hart.pc } = s.hart ∧ t.hart.pc = s.hart.pc + 4 ∧
        SameBytes s t) ∧
    (s.hart.queue ≠ [] → WaitsFor .exit s .held) ∧
    (s.hart.queue = [] → s.hart.copyq ≠ [] → WaitsFor .exit s .copyDrain) ∧
    (∀ l, s.hart.queue = [] → s.hart.copyq = [] → tget s.launches own = some l → l.status = none →
      ∃ t m, exec .exit s = .next t ∧ t.hart.status = .exited ∧ t.hart.holds = false ∧ t.hart.saveIdx = none ∧
        (∀ n, t.hart.sq.get n = none) ∧ tget t.launches own = some m ∧ m.exits = l.exits + 1 ∧
        m.status = (if l.exits + 1 = l.count then some 0 else none) ∧
        (l.exits + 1 ≠ l.count → ∀ h, h ≠ own → tget t.launches h = tget s.launches h)) ∧
    (∃ t, exec .mark s = .next t ∧ t.hart.csr.pmark = s.hart.csr.pmark + 1 ∧
      t.hart.adv.snapMark = s.hart.csr.pmark + 1 ∧ t.hart.pc = s.hart.pc + 4 ∧
      (∀ i : Fin 8, t.hart.adv.snap.get i =
        if h : (s.hart.bounds.marks.get i).toNat < 32 then s.x (BitVec.ofFin ⟨_, h⟩) else 0) ∧
      { t with hart := { t.hart with
          pc := s.hart.pc, csr := { t.hart.csr with pmark := s.hart.csr.pmark }
          adv := { t.hart.adv with snap := s.hart.adv.snap, snapMark := s.hart.adv.snapMark } } } = s ∧ SameBytes s t)

/-! ### Advice -/

namespace Sys2Proof.Claims

/-- Everything but the advice context of the hart in focus and the lines that L2 holds, with the poison and the errors of
those that make room, is as before (R190, R208). -/
def OnlyAdvice (s t : State) : Prop :=
  { t with
    hart := { t.hart with adv := s.hart.adv }
    l2 := s.l2, poison := s.poison, l2Poison := s.l2Poison, broken := s.broken } = s ∧ SameBytes s t

/-- The word leaves the advice context as adv, and nothing else changes. -/
def AdviceGives (i : Instr) (s : State) (adv : Adv) : Prop :=
  exec i s = .next { s with hart := { s.hart with adv := adv } }

/-- The word writes v to g[d] and goes on at APC + 4. -/
def GivesG (i : Instr) (s : State) (d : GReg) (v : Word) : Prop :=
  AdviceGives i s { s.hart.adv with g := s.hart.adv.g.set d.toNat v d.isLt, apc := s.hart.adv.apc + 4 }

/-- The word sends the context on to an address. -/
def AdviceJumps (i : Instr) (s : State) (apc : Word) : Prop := AdviceGives i s { s.hart.adv with apc := apc }

/-- The context goes on at APC + 4 with a counter one higher, at most 0xFFFF (R199). -/
def CountsDrop (i : Instr) (s : State) (f : Adv → BitVec 16 → Adv) (c : Adv → BitVec 16) : Prop :=
  AdviceGives i s { f s.hart.adv (if c s.hart.adv = 0xFFFF then 0xFFFF else c s.hart.adv + 1) with
    apc := s.hart.adv.apc + 4 }

/-- The hint is stale: marks since the latest await lie above ALEAD (R192). -/
def Stale (s : State) : Prop := s.hart.csr.alead.toNat < (s.hart.csr.pmark - s.hart.adv.amark).toNat

/-- The views that aread gives (R189). -/
def viewAt (s : State) (n : BitVec 12) : Word :=
  if h : n.toNat < 8 then s.hart.adv.snap.get ⟨n.toNat, h⟩
  else if n = 8 then s.hart.adv.snapMark.setWidth 64
  else if n = 9 then s.hart.csr.vl.setWidth 64
  else if n = 10 then BitVec.ofNat 64 (if s.hart.holds then s.hart.grant.lanes else 0)
  else if n = 11 then s.hart.csr.pmark.setWidth 64
  else 0

end Sys2Proof.Claims

/-- Advice never reaches the semantic half (R190): every advice word completes, and changes nothing but its
own advice context and which lines L2 holds (R208). -/
def Obligations.AdviceStaysApart : Prop :=
  ∀ (s : State) (i : Instr), i.wordClass = .advice → ∃ t, exec i s = .next t ∧ OnlyAdvice s t

/-- The advice words that compute, branch, set and halt (R189, R206, R211): their registers, their targets and
the await on a mark number. That aprio and aorder act where the context is stale (log 25) and that ahalt leaves APC at its
word (log 64) are the model's choices. -/
def Obligations.AdviceResults : Prop :=
  ∀ (s : State) (d a b : GReg) (c : BitVec 12) (l : BitVec 18) (h : BitVec 6),
    let x := s.g a
    let y := s.g b
    let adv := s.hart.adv
    let go (p : Prop) [Decidable p] : Word := if p then adv.apc + BitVec.ofInt 64 (4 * c.toInt) else adv.apc + 4
    GivesG (.aread d c) s d (viewAt s c) ∧ GivesG (.ali d l) s d (BitVec.ofInt 64 l.toInt) ∧
    GivesG (.aaddi d a c) s d (x + BitVec.ofInt 64 c.toInt) ∧ GivesG (.aadd d a b) s d (x + y) ∧
    GivesG (.asub d a b) s d (x - y) ∧ GivesG (.aand d a b) s d (x &&& y) ∧ GivesG (.aor d a b) s d (x ||| y) ∧
    GivesG (.asll d a b) s d (BitVec.ofNat 64 (x.toNat * 2 ^ (y.toNat % 64))) ∧
    GivesG (.asrl d a b) s d (BitVec.ofNat 64 (x.toNat / 2 ^ (y.toNat % 64))) ∧
    GivesG (.amul d a b) s d (BitVec.ofNat 64 (x.toNat * y.toNat)) ∧
    GivesG (.aslli d a h) s d (BitVec.ofNat 64 (x.toNat * 2 ^ h.toNat)) ∧
    GivesG (.asrli d a h) s d (BitVec.ofNat 64 (x.toNat / 2 ^ h.toNat)) ∧
    AdviceJumps (.abeq a b c) s (go (x = y)) ∧ AdviceJumps (.abne a b c) s (go (x ≠ y)) ∧
    AdviceJumps (.ablt a b c) s (go (x.toInt < y.toInt)) ∧ AdviceJumps (.abltu a b c) s (go (x.toNat < y.toNat)) ∧
    AdviceJumps (.aj l) s (adv.apc + BitVec.ofInt 64 (4 * l.toInt)) ∧
    AdviceGives .ahalt s { adv with st := .halted } ∧
    (∀ p : BitVec 2, AdviceGives (.aprio p) s { adv with aprio := p, apc := adv.apc + 4 }) ∧
    (∀ o : BitVec 3, AdviceGives (.aorder o) s { adv with aorder := o, apc := adv.apc + 4 }) ∧
    ((s.hart.csr.pmark - x.setWidth 32).toNat < 2 ^ 31 →
      AdviceGives (.await a) s { adv with amark := x.setWidth 32, st := .running, apc := adv.apc + 4 }) ∧
    (2 ^ 31 ≤ (s.hart.csr.pmark - x.setWidth 32).toNat → AdviceGives (.await a) s { adv with st := .waiting })


/-! ### The steps of a hart without a word -/

namespace Sys2Proof.Claims

/-- The event completes and leaves exactly this state. -/
def Leaves (i : Instr) (s t : State) : Prop := exec i s = .next t

/-- The hart runs again, past its instruction, with v in x[d]; but for its wait nothing else changes. -/
def WakesWith (i : Instr) (s : State) (d : Reg) (v : Word) : Prop :=
  ∃ t, exec i s = .next t ∧ t.hart.status = .running ∧ t.hart.wait = .none ∧ t.hart.pc = s.hart.pc + 4 ∧
    XWritten s t d v ∧
    memApart { t with hart := { t.hart with
        x := s.hart.x, pc := s.hart.pc, wait := s.hart.wait, status := s.hart.status, tlb := s.hart.tlb } } = memApart s ∧
    t.cores = s.cores ∧ SameBytes s t

/-- Everything but the fills in flight and the memory side is as before. -/
def OnlyFills (s t : State) (fills : List Fill) : Prop :=
  t.hart.adv.fills = fills ∧
  memApart { t with hart := { t.hart with adv := { t.hart.adv with fills := s.hart.adv.fills } } } = memApart s

/-- The line of n bytes is whole in the hart's L1 (R83); but for the fills in flight and what the line that makes room
for it writes back nothing changes. -/
def Filled (s t : State) (fills : List Fill) (pa n : Nat) : Prop :=
  (∀ i, i < n → ∃ l, tget (t.core s.hart.core).l1 ((pa + i) / 256) = some l ∧
    l.valid = 0xFF) ∧
  OnlyFills s t fills ∧ OnlyOwnL1 s t ∧ WrittenBack s t s.hart.core ∧
  (tget (s.core s.hart.core).l1 (pa / 256) ≠ none ∨ RoomInL1 s s.hart.core → SameBytes s t)

/-- A save is asked for, for a reason, unless one already is, and the hart is otherwise as before. -/
def AsksSave (s t : State) (r : SaveReason) : Prop :=
  t.hart.saveReq = (if s.hart.saveReq = none then some r else s.hart.saveReq) ∧
  { t.hart with saveReq := s.hart.saveReq, saveFrom := s.hart.saveFrom } = s.hart ∧ SameBytes s t

/-- The place of the address among the operands that a queued mepi captured: after the row's register, where it has
one. -/
def epiPlace (e : QEntry) : Nat := if e.word.getLsbD 6 then 1 else 0

/-- The row, the accumulator and the descriptor of a queued mepi, and its bytes as they convert (R320, R328). -/
def epiRow (e : QEntry) : Nat := if e.word.getLsbD 6 then (e.ops.getD 0 0).toNat else e.word.toNat / 2 ^ 7 % 64
def epiAcc (e : QEntry) : AccReg := e.word.extractLsb' 13 3
def epiDesc (e : QEntry) : Desc := Desc.of (e.ops.getD (epiPlace e + 1) 0)
def epiBytes (s : State) (e : QEntry) : List Byte :=
  let u := (e.ops.getD (epiPlace e + 2) 0).toNat
  (epiCodes (epiDesc e) (s.accRow (epiAcc e) (epiRow e))
    ⟨s.hart.seed, u % 2 ^ 32, u / 2 ^ 32 % 2 ^ 32, (e.ops.getD (epiPlace e + 3) 0).toNat % 2 ^ 32⟩ s.hart.csr.efr).1

/-- The physical targets that a queued entry reads: those of its probe, or the blocks' of an sqld. -/
def readTargets (s : State) (e : QEntry) : List (Nat × Target) :=
  if major e.word = 0x36 then s.sqldTargets e else e.probe.getD []

/-- What an entry that stops where it stands puts in TVAL (R422): 0x301 of a vector instruction its word; 0x302 of an
mepi whose row fails its check, the row's address (R429), and 0x303 of one whose held bytes have another checksum, the
destination (R430); 0x300 of one that reads a poisoned sector, an address in it (R431). -/
def StopsAt (s : State) (e : QEntry) (cause : BitVec 10) (v tval : Word) : Prop :=
  (cause = 0x301 ∧ e.kind ≠ .mq ∧ major e.word ≠ 0x37 ∧ tval = e.word.setWidth 64) ∨
  (cause = 0x302 ∧ isMepi e.word = true ∧ s.rowFails (epiAcc e) (epiRow e) (epiDesc e) = true ∧
    tval = accStoreAddr (epiAcc e) (epiRow e)) ∨
  (cause = 0x303 ∧ isMepi e.word = true ∧ s.rowFails (epiAcc e) (epiRow e) (epiDesc e) = false ∧
    codeSum (epiDesc e) (s.heldRow (epiBytes s e)) ≠ codeSum (epiDesc e) (epiBytes s e) ∧
    tval = e.ops.getD (epiPlace e) 0) ∨
  (cause = 0x300 ∧ e.reads = true ∧ s.poison.contains (v.toNat / 32) = true ∧
    (∃ u ∈ readTargets s e, ∃ p, u.2 = .phys p ∧ p.pa / 32 ≤ v.toNat / 32 ∧
      v.toNat / 32 ≤ (p.pa + e.unit - 1) / 32) ∧ tval = v)

/-- What the writable context registers but VTTB store of a value (R373, R374, R376): their fields, of which lane
depths, logarithms and the pool's count have largest values. -/
def contextStores : List (BitVec 12 × (Word → Word)) :=
  [(0x807, fun v => BitVec.ofNat 64 (max 1 (min 16 (v.toNat % 32)))),
   (0x809, fun v => v &&& 0x800FFFFFFFFFF000), (0x80B, fun v => v &&& 0xFFFFFF0000000000), (0x80D, fun v => v),
   (0x80F, fun v => v &&& 0x800FFFFFFFFFF000 ||| BitVec.ofNat 64 (min 16 (v.toNat % 32))),
   (0x810, fun v => v &&& 0xFFFFFFFF),
   (0x812, fun v => v &&& 0x800FFFFFFFFFF000 ||| BitVec.ofNat 64 (min 20 (v.toNat % 32))),
   (0x813, fun v => v &&& 0x000FFFFFFFFFF000 ||| BitVec.ofNat 64 (min 1024 (v.toNat / 2 ^ 52 % 2 ^ 11) * 2 ^ 52)),
   (0x816, fun v => v &&& 0xFFFFFFFFFFFF0000)]

/-- A way of L2 takes a line, or it stands there (R92). -/
def Takes (s : State) (line : Nat) : Prop :=
  tget s.l2 line ≠ none ∨
  (isDomain (256 * line) = false ∧ ∃ w, w < 16 ∧ (s.l2Ways line).getLsbD w = true ∧
    ∀ n l, (n, l) ∈ s.l2 → sameSet line n = true → l.way ≠ w)

/-- The word leaves the advice context as adv, and but for the lines that L2 holds nothing else changes. -/
def AdviceHolds (i : Instr) (s : State) (adv : Adv) (l2 : State → Prop) : Prop :=
  ∃ t, exec i s = .next t ∧ t.hart.adv = adv ∧ OnlyAdvice s t ∧ l2 t

end Sys2Proof.Claims

/-- What ends a hart's waits and takes its lanes (R37, R46 to R49, R66, R249, R262, R311, R312): room in a
queue; a free target block; a satisfied word, a passed deadline; a pending interrupt; a late partner. A hold
beyond the quantum asks for a save; a sleeper beyond it gives its lanes back and sleeps on. -/
def Obligations.WaitingHarts : Prop :=
  ∀ (s : State), let id := s.hart.uid
    (∀ q, s.hart.wait = .room q →
      (s.hart.hasRoom q = true → Leaves (.queueRoomResume id) s (s.setWait .none)) ∧
      (s.hart.hasRoom q = false → Leaves (.queueRoomResume id) s s)) ∧
    (s.hart.wait = .lanes → s.hart.reclaimed = false → s.hart.holds = false → s.hart.target.lanes ≠ 0 →
      s.hart.required ≤ s.hart.target.lanes →
      let blocked := ∃ h ∈ s.others, h.core = s.hart.core ∧ h.holds = true ∧
        h.grant.base < s.hart.target.base + s.hart.target.lanes ∧
        s.hart.target.base < h.grant.base + h.grant.lanes
      (blocked → Leaves (.laneBlockTaken id) s s) ∧
      (¬ blocked → ∃ t, exec (.laneBlockTaken id) s = .next t ∧ t.hart.grant = s.hart.target ∧
        t.hart.holds = true ∧ t.hart.status = .running ∧ t.hart.wait = .none ∧ t.hart.required = 0 ∧
        (∀ q, q < 32 → (t.vreg q).pidx = min (s.vreg q).pidx (s.hart.target.lanes * min 16 s.hart.brim * 32)) ∧
        { t with
          free := s.free
          hart := { t.hart with
            v := s.hart.v, grant := s.hart.grant, holds := s.hart.holds, required := s.hart.required
            status := s.hart.status, wait := s.hart.wait, qwait := s.hart.qwait } } = s)) ∧
    (s.hart.status = .running → s.hart.holds = true → s.hart.grant.lanes ≠ 0 →
      (s.hart.grant.base < s.hart.target.base ∨
        s.hart.target.base + s.hart.target.lanes < s.hart.grant.base + s.hart.grant.lanes) →
      (s.mgmt.quantumUs * 1000 ≤ (s.time - s.hart.targetAt).toNat →
        ∃ t, exec (.laneHoldTimeout id) s = .next t ∧ AsksSave s t .preempt) ∧
      ((s.time - s.hart.targetAt).toNat < s.mgmt.quantumUs * 1000 → Leaves (.laneHoldTimeout id) s s)) ∧
    (s.hart.status = .sleeping → s.hart.holds = true → s.hart.grant.lanes ≠ 0 →
      (s.mgmt.quantumUs * 1000 < (s.time - s.hart.sleepAt).toNat →
        ∃ t, exec (.laneReclaim id) s = .next t ∧ t.hart.holds = false ∧ t.hart.reclaimed = true ∧
          t.hart.status = .sleeping ∧ t.hart.wait = s.hart.wait ∧ t.hart.pc = s.hart.pc ∧ SameRegs s t) ∧
      ((s.time - s.hart.sleepAt).toNat ≤ s.mgmt.quantumUs * 1000 → Leaves (.laneReclaim id) s s)) ∧
    (∀ (c : WCond) (n : Nat) (d : Reg) (addr want : Word) (start left : Word) (v : Nat) (s1 : State),
      s.hart.wait = .waita c n d addr want .core start left → s.hart.status = .sleeping → n = 4 ∨ n = 8 →
      WordAt s addr n v s1 → Canonical s →
      let late := left ≠ 0xFFFFFFFFFFFFFFFF ∧ left.toNat ≤ (s.time - start).toNat
      (c.met n v want.toNat = true → WakesWith (.waitaWake id) s d 0) ∧
      (c.met n v want.toNat = false → late → WakesWith (.waitaTimeout id) s d 1) ∧
      (c.met n v want.toNat = false → ¬ late →
        ∃ t, exec (.waitaWake id) s = .next t ∧ t.hart.status = .sleeping ∧ t.hart.wait = s.hart.wait ∧
          t.hart.pc = s.hart.pc ∧ SameRegs s t ∧ SameBytes s t) ∧
      (¬ late → Leaves (.waitaTimeout id) s s)) ∧
    (∀ (word : IWord) (any : Bool) (kd : KReg) (xs ve : Reg) (start left : Word) (es : List (Nat × Nat)),
      let w := width s
      let flags := es.map fun p => (p.1, Target.window p.2)
      s.hart.wait = .vwait word any kd xs ve 0 start left flags → s.hart.status = .sleeping → kd ≠ 0 → es ≠ [] →
      (∀ p ∈ es, p.1 < 65536) → w = 32 ∨ w = 64 → s.hart.queue = [] → s.hart.replay = none → s.hart.holds = true →
      s.hart.scrBad = [] →
      let hit (p : Nat × Nat) : Prop := le (fun i => s.scrByte (p.2 + i)) (w / 8) = s.elem ve.toNat w p.1
      let ended := if any then ∃ p ∈ es, hit p else ∀ p ∈ es, hit p
      let late := left ≠ 0xFFFFFFFFFFFFFFFF ∧ left.toNat ≤ (s.time - start).toNat
      let ends (i : Instr) (v : Word) : Prop := ∃ t, exec i s = .next t ∧ t.hart.status = .running ∧
        t.hart.wait = .none ∧ t.hart.pc = s.hart.pc + 4 ∧ XWritten s t xs v ∧ t.hart.csr.vstart = 0 ∧
        (∀ e, e < 65536 → ((t.mask kd).getLsbD e = true ↔ ∃ p ∈ es, p.1 = e ∧ hit p)) ∧
        (∀ q : KReg, q ≠ kd → t.mask q = s.mask q) ∧ t.hart.v = s.hart.v ∧ SameBytes s t
      (ended → ends (.vwaitRound id) 0) ∧
      (¬ ended → ¬ late → Leaves (.vwaitRound id) s s ∧ Leaves (.vwaitTimeout id) s s) ∧
      (¬ ended → late → ends (.vwaitTimeout id) 1)) ∧
    (s.hart.wait = .wfi →
      (s.hart.irqSoft ≠ none ∨ s.hart.irqMail ≠ none → WakesWith (.wfiWake id) s 0 0) ∧
      (s.hart.irqSoft = none → s.hart.irqMail = none → Leaves (.wfiWake id) s s)) ∧
    (∀ word acc row va tb desc since, s.hart.wait = .pair word acc row va tb desc since →
      let mhz := (s.hamlet (hamletOf s.hart.core)).lane
      let cycles := (since.toNat + (s.time - since).toNat) * mhz / 1000 - since.toNat * mhz / 1000
      (s.hart.csr.pairto.toNat < cycles → ∃ t, exec (.pairTimeout id) s = .next t ∧
        TrapRegsTaken s t 0x205 (word.setWidth 64) s.hart.pc ∧ SameRegs s t) ∧
      (cycles ≤ s.hart.csr.pairto.toNat → Leaves (.pairTimeout id) s s))

/-- Interrupts, reliability causes of queued work, context registers and parked accesses (R371, R373, R374, R376, R407,
R413, R420, R423, R428): the pending interrupt of the lowest detail is taken at a boundary with IE = 1, and cleared; a
cause stops the oldest released entry that it arises in, which is held with the younger ones, and no other; a context
register takes its value, and VTTB first loads the tables of the cores that hold the context, or raises 0x305 at poison;
a parked access, of the front end or of the oldest entry, translates again. In which instructions a cause can arise and
that it strikes the oldest released entry (log 48), and the address of an accumulator's row (log 9), are the model's
choices. -/
def Obligations.DeliveredToHarts : Prop :=
  ∀ (s : State), let id := s.hart.uid
    (s.hart.status = .running → s.hart.wait = .none →
      (∀ v, s.hart.trap.ie = true → s.hart.irqSoft = some v →
        ∃ t, exec (.interruptTake id) s = .next t ∧ TrapRegsTaken s t 0x3C0 v s.hart.pc ∧ SameRegs s t ∧
          t.hart.irqMail = s.hart.irqMail ∧ t.hart.irqSoft = none ∧ SameBytes s t) ∧
      (∀ v, s.hart.trap.ie = true → s.hart.irqSoft = none → s.hart.irqMail = some v →
        ∃ t, exec (.interruptTake id) s = .next t ∧ TrapRegsTaken s t 0x3C1 v s.hart.pc ∧ SameRegs s t ∧
          t.hart.irqMail = none ∧ SameBytes s t) ∧
      (∀ (cause : BitVec 10) (v tval : Word) (e : QEntry) (rest : List QEntry), s.hart.queue = e :: rest →
        e.rhold = false → s.hart.qwait = .none → StopsAt s e cause v tval →
        ∃ t, exec (.reliabilityQueuedTrap id cause v) s = .next t ∧ TrapRegsTaken s t cause tval s.hart.pc ∧
          SameRegs s t ∧ t.hart.queue = { e with interrupted := true, rhold := true, data := [] } :: rest)) ∧
    (∀ (cause : BitVec 10) (v : Word),
      (s.hart.queue = [] ∨ ∃ e rest, s.hart.queue = e :: rest ∧ (e.rhold = true ∨ ∀ tval, ¬ StopsAt s e cause v tval)) →
      Leaves (.reliabilityQueuedTrap id cause v) s s) ∧
    (s.hart.trap.ie = false → Leaves (.interruptTake id) s s) ∧
    (∀ (keep set : Word), s.hart.wait = .ctxWrite 0x80A keep set → Canonical s →
      let v := (s.csrRead 0x80A &&& keep ||| set) &&& 0x800FFFFFFFFE0000
      let base := v.toNat % 2 ^ 52
      let bad (p : Nat) : Prop := p ∈ s.poison ∧ base ≤ 32 * p + 31 ∧ 32 * p < base + 131072
      ((∃ p, bad p) → ∃ t p, exec (.contextRegisterWriteComplete id) s = .next t ∧ bad p ∧
        TrapRegsTaken s t 0x305 (BitVec.ofNat 64 (max base (32 * p))) s.hart.pc ∧ SameRegs s t ∧ t.ctxs = s.ctxs) ∧
      ((∀ p, ¬ bad p) → ∃ t, exec (.contextRegisterWriteComplete id) s = .next t ∧ t.csrRead 0x80A = v ∧
        (∀ q, q ≠ s.hart.ctx → t.ctx q = s.ctx q) ∧ t.hart.status = .running ∧ t.hart.wait = .none ∧
        t.hart.pc = s.hart.pc + 4 ∧
        (∀ c, { t.core c with vtt := (s.core c).vtt } = s.core c) ∧
        (∀ c o, o < 131072 → cellGet (t.core c).vtt o =
          if (s.core c).vttCtx = some s.hart.ctx then cellGet s.mem (base + o) else cellGet (s.core c).vtt o) ∧
        { t with
          ctxs := s.ctxs, cores := s.cores
          hart := { t.hart with pc := s.hart.pc, wait := s.hart.wait, status := s.hart.status } } = s)) ∧
    (∀ (keep set : Word), ∀ p ∈ contextStores, s.hart.wait = .ctxWrite p.1 keep set →
      ∃ t, exec (.contextRegisterWriteComplete id) s = .next t ∧
        t.csrRead p.1 = p.2 (s.csrRead p.1 &&& keep ||| set) ∧
        (∀ q, q ≠ s.hart.ctx → t.ctx q = s.ctx q) ∧
        t.hart.status = .running ∧ t.hart.wait = .none ∧ t.hart.pc = s.hart.pc + 4 ∧
        { t with
          ctxs := s.ctxs
          hart := { t.hart with pc := s.hart.pc, wait := s.hart.wait, status := s.hart.status } } = s) ∧
    (∀ va, s.hart.wait = .none → s.hart.qwait = .parked va false →
      ∃ t, exec (.parkedAccessRetranslate id) s = .next t ∧ t.hart.qwait = .none ∧
        (∀ e ∈ t.hart.tlb, e.covers s.hart.trap.ctxid va = false) ∧
        { t with hart := { t.hart with tlb := s.hart.tlb, qwait := s.hart.qwait } } = s) ∧
    (∀ va i, s.hart.wait = .none → s.hart.qwait = .parked va true → s.myCtx.vttIndex va = some i → s.poison = [] →
      Canonical s → ∃ t, exec (.parkedAccessRetranslate id) s = .next t ∧ t.hart.qwait = .none ∧
        (∀ o, cellGet (t.core s.hart.core).vtt o = if 8 * i ≤ o ∧ o < 8 * i + 8
          then cellGet s.mem (s.myCtx.vttb.toNat * 2 ^ 17 + o) else cellGet (s.core s.hart.core).vtt o) ∧
        (∀ c, c ≠ s.hart.core → t.core c = s.core c) ∧
        { t with cores := s.cores, hart := { t.hart with qwait := s.hart.qwait } } = s) ∧
    (∀ va, s.hart.wait = .parked va false → (∀ v b, s.hart.qwait ≠ .parked v b) →
      ∃ t, exec (.parkedAccessRetranslate id) s = .next t ∧ t.hart.status = .running ∧ t.hart.wait = .none ∧
        t.hart.pc = s.hart.pc ∧ (∀ e ∈ t.hart.tlb, e.covers s.hart.trap.ctxid va = false) ∧
        (∀ e ∈ s.hart.tlb, e.covers s.hart.trap.ctxid va = false → e ∈ t.hart.tlb) ∧
        { t with hart := { t.hart with tlb := s.hart.tlb, wait := s.hart.wait, status := s.hart.status } } = s) ∧
    (∀ u i, u ≠ id → (∀ h ∈ s.others, h.uid ≠ u) →
      i ∈ [Instr.queueRoomResume u, .laneBlockTaken u, .laneHoldTimeout u, .laneReclaim u, .waitaWake u,
        .waitaTimeout u, .vwaitRound u, .vwaitTimeout u, .wfiWake u, .pairTimeout u, .interruptTake u,
        .contextRegisterWriteComplete u, .parkedAccessRetranslate u, .copyCommandComplete u, .collRankTimeout u,
        .adviceAwaitWake u, .advicePinExpire u, .adviceFillComplete u, .hartRestore u] →
      Leaves i s s)

/-- The advice hints (R192, R193, R207 to R210): a stale hint counts DROPS and does nothing; a prefetch whose
pieces may be read asks for its fills, and one over the queue's room counts DROPQ; a range that may not be
read counts DROPX; a pin within the limits fills its line in L2 and holds it for 2^16 lane cycles, one beyond them counts
DROPX, and its release ends it; a raised priority is kept with the line that L2 holds; a hint that meets a full port
counts DROPQ (whether the pin or the pre-stage port is full is a free value, log 66); that a pre-stage takes the place of
the buffer's earlier one is the model's choice (log 66). The later steps of
advice and of the prefetcher (R194, R202, R206): an await completes once the marks have reached its number;
spent pins lapse; a fill makes its line valid in L1, or its sectors in L2, where a line that makes room is written back;
the prefetcher serves a hart without running advice, and fills only what the hart could read. -/
def Obligations.AdviceEffects : Prop :=
  (∀ (s : State) (l2 tb : Bool) (a b d : GReg) (n : BitVec 12) (e : BitVec 2),
    let adv := s.hart.adv
    let dropS (i : Instr) : Prop := CountsDrop i s (fun v c => { v with drops := c }) Adv.drops
    let dropX (i : Instr) : Prop := CountsDrop i s (fun v c => { v with dropx := c }) Adv.dropx
    let dropQ (i : Instr) : Prop := CountsDrop i s (fun v c => { v with dropq := c }) Adv.dropq
    let up (c : BitVec 16) : BitVec 16 := if c = 0xFFFF then 0xFFFF else c + 1
    let asked : Adv := { adv with asks := adv.asks + 1, apc := adv.apc + 4 }
    let full (i : Instr) (port : Nat) : Prop :=
      s.portFull port = true → AdviceGives i s { asked with dropq := up adv.dropq }
    let one := (s.g a).toNat % 256 + n.toNat ≤ 256 ∧ n ≠ 0
    (Stale s → dropS (.apinPri a b) ∧ dropS (.apinPin a b) ∧ dropS (.apinOff a b) ∧ dropS (.atile tb a b d) ∧
      (n ≠ 0 ∨ s.g b ≠ 0 → dropS (.apf l2 a b n)) ∧ (s.g d ≠ 0 → dropS (.apfv l2 a b d e))) ∧
    (n = 0 → s.g b = 0 → AdviceJumps (.apf l2 a b n) s (adv.apc + 4)) ∧
    (s.g d = 0 → AdviceJumps (.apfv l2 a b d e) s (adv.apc + 4)) ∧
    (¬ Stale s →
      (one → s.hintXlat false ((s.g a).toNat, n.toNat) = none → dropX (.apf l2 a b n)) ∧
      (∀ t, one → s.hintXlat false ((s.g a).toNat, n.toNat) = some t →
        (adv.fills.length < Config.hintQueue →
          AdviceGives (.apf l2 a b n) s { adv with
            apc := adv.apc + 4
            fills := adv.fills ++ [⟨l2 || t.seq || t.cache != 0, false, s.g a, n.toNat⟩] }) ∧
        (Config.hintQueue ≤ adv.fills.length → dropQ (.apf l2 a b n))) ∧
      (∀ t, s.g d = 1 → (s.g a).toNat % 256 + 2 ^ e.toNat ≤ 256 →
        s.hintXlat true ((s.g a).toNat, 2 ^ e.toNat) = some t → adv.fills.length < Config.hintQueue →
        AdviceGives (.apfv l2 a b d e) s { adv with
          apc := adv.apc + 4
          fills := adv.fills ++ [⟨l2 || t.seq || t.cache != 0, true, s.g a, 2 ^ e.toNat⟩] }) ∧
      (∀ t, (s.g a).toNat % 256 + (s.g b).toNat ≤ 256 → s.g b ≠ 0 →
        s.hintXlat false ((s.g a).toNat, (s.g b).toNat) = some t → isHbm t.pa = true →
        let line := t.pa / 256
        let mine := ∃ n, tget adv.pins line = some n ∧ n ≠ 0
        let room := (line :: adv.held).eraseDups.length ≤ 4096 ∧ s.pinLines [line] ≠ []
        full (.apinPri a b) 1 ∧ full (.apinOff a b) 1 ∧ (mine ∨ room → full (.apinPin a b) 1) ∧
        (¬ mine → ¬ room → dropX (.apinPin a b)) ∧
        (s.portFull 1 = false →
          AdviceHolds (.apinPri a b) s asked (fun u =>
            (∀ l, tget s.l2 line = some l → tget u.l2 line = some { l with keep := true }) ∧
            (tget s.l2 line = none → tget u.l2 line = none) ∧ ∀ m, m ≠ line → tget u.l2 m = tget s.l2 m) ∧
          AdviceGives (.apinOff a b) s { asked with pins := tdel adv.pins line } ∧
          (mine ∨ room → AdviceHolds (.apinPin a b) s { asked with pins := tset adv.pins line 65536 } fun u =>
            Takes s line → ∃ l, tget u.l2 line = some l ∧ l.valid = 0xFF))) ∧
      ((s.g a).toNat % 256 + (s.g b).toNat ≤ 256 → s.g b ≠ 0 →
        s.hintXlat false ((s.g a).toNat, (s.g b).toNat) = none →
        dropX (.apinPri a b) ∧ dropX (.apinPin a b) ∧ dropX (.apinOff a b)) ∧
      (s.g b = 0 → AdviceJumps (.apinPri a b) s (adv.apc + 4) ∧ AdviceJumps (.apinPin a b) s (adv.apc + 4) ∧
        AdviceJumps (.apinOff a b) s (adv.apc + 4)) ∧
      (s.stageLines (s.g a) (((s.g b).setWidth 32).setWidth 64) (s.g d).toNat = none → dropX (.atile tb a b d)) ∧
      (∀ ls, s.stageLines (s.g a) (((s.g b).setWidth 32).setWidth 64) (s.g d).toNat = some ls →
        (s.tile tb ≠ none → dropX (.atile tb a b d)) ∧
        (tileKOk (Desc.of (((s.g b).setWidth 32).setWidth 64)).src2 (s.g d).toNat = false → dropX (.atile tb a b d)) ∧
        (let u := s.dropStage tb
         s.tile tb = none → tileKOk (Desc.of (((s.g b).setWidth 32).setWidth 64)).src2 (s.g d).toNat = true →
          let limit := (u.hart.adv.held ++ u.pinLines ls).eraseDups.length ≤ 4096
          (¬ limit → dropX (.atile tb a b d)) ∧
          (limit → full (.atile tb a b d) 2) ∧
          (limit → s.portFull 2 = false →
            AdviceGives (.atile tb a b d) s { asked with
              stages := (adv.stages.filter fun p => p.tb != tb) ++
                [⟨tb, s.g a, (s.g b).setWidth 32, (s.g d).toNat, u.pinLines ls⟩] }))))) ∧
  (∀ (s : State), let id := s.hart.uid
    let adv := s.hart.adv
    (∀ (a : GReg) (t : State), adv.st = .waiting → s.hart.status = .running →
      s.fetchAdvice = some (encode (.await a), t) →
      let mark := (s.g a).setWidth 32
      ((s.hart.csr.pmark - mark).toNat < 2 ^ 31 →
        AdviceGives (.adviceAwaitWake id) s { adv with amark := mark, st := .running, apc := adv.apc + 4 }) ∧
      (2 ^ 31 ≤ (s.hart.csr.pmark - mark).toNat → Leaves (.adviceAwaitWake id) s s)) ∧
    AdviceGives (.advicePinExpire id) s { adv with pins := adv.pins.filter fun p => p.2 != 0 } ∧
    (∀ (f : Fill) (rest : List Fill), adv.fills = f :: rest →
      (f.l2 = true → ∃ u, exec (.adviceFillComplete id) s = .next u ∧ OnlyFills s u rest ∧ u.cores = s.cores ∧
        SameBytes s u ∧ ∀ t, s.hintXlat f.vec (f.va.toNat, f.n) = some t → t.pa % 256 + f.n ≤ 256 →
          Takes s (t.pa / 256) → ∀ i, i < f.n → ∃ l, tget u.l2 (t.pa / 256) = some l ∧
            l.valid.getLsbD ((t.pa % 256 + i) / 32) = true) ∧
      (∀ t, f.l2 = false → s.hintXlat f.vec (f.va.toNat, f.n) = some t → t.seq = false → t.cache = 0 → f.n ≠ 0 →
        t.pa % 256 + f.n ≤ 256 → ∃ u, exec (.adviceFillComplete id) s = .next u ∧ Filled s u rest t.pa f.n)) ∧
    (∀ (va : Word) (n : Nat), n ≠ 0 → va.toNat % 256 + n ≤ 256 → s.hart.status = .running →
      (adv.st ≠ .unbound → adv.st ≠ .stopped → Leaves (.hardwarePrefetch id va n) s s) ∧
      (s.hintXlat false (va.toNat, n) = none → Leaves (.hardwarePrefetch id va n) s s) ∧
      (∀ t, adv.st = .unbound ∨ adv.st = .stopped → s.hintXlat false (va.toNat, n) = some t → t.seq = false →
        t.cache = 0 → ∃ u, exec (.hardwarePrefetch id va n) s = .next u ∧ Filled s u adv.fills t.pa n)))

/-! ### The dispatcher and host queues -/

namespace Sys2Proof.Claims

/-- The record of one launch becomes l, and the others stay as they are. -/
def LaunchIs (s t : State) (h : Nat) (l : Launch) : Prop :=
  tget t.launches h = some l ∧ ∀ g, g ≠ h → tget t.launches g = tget s.launches g

/-- A hart as an instance starts it (R54): at the kernel's text with sp, kp and hp set, at the user level with
interrupts enabled, and every other register 0. -/
def StartsAs (h : Hart) (l : Launch) (k : Ctx) (uid core slot area : Nat) : Prop :=
  let hp := k.hlbase.setWidth 64 * 65536 + BitVec.ofNat 64 (65536 * area)
  h.uid = uid ∧ h.ctx = l.ctx ∧ h.core = core ∧ h.slot = slot ∧ h.status = .running ∧ h.saveIdx = some area ∧
  h.pc = l.kernel.text ∧
  (∀ r : Fin 32, h.x.get r = if r = 2 then hp + 65536 else if r = 3 then l.args else if r = 4 then hp else 0) ∧
  (∀ r, h.f.get r = 0) ∧ (∀ r, h.k.get r = 0) ∧ (∀ r, (h.v.get r).pidx = 0) ∧ (∀ r, h.sq.get r = none) ∧
  h.csr.vl = 0 ∧ h.csr.vt = 0 ∧ h.csr.vstart = 0 ∧ h.csr.fcsr = 0 ∧ h.csr.det = l.det ∧ h.csr.pmark = 0 ∧
  h.trap.priv = false ∧ h.trap.ie = true ∧ h.trap.tvec.setWidth 64 <<< 2 = k.tvec &&& ~~~3 ∧
  h.bounds = l.kernel.bounds ∧ h.seed = l.seed ∧ h.brim = l.brim ∧ h.acc = [] ∧ h.scr = [] ∧ h.queue = []

/-- The response to a command entry (R385): both indices one on, and its 16 bytes in the response ring; every other
byte as before. -/
def Responds (s t : State) (q : Nat) (k : HostQueue) (e : HqEntry) (result : Word) : Prop :=
  let a := k.cfg.respBase + 16 * (k.respIdx % 2 ^ k.cfg.respLog)
  let bytes := valBytes 8 result.toNat ++ valBytes 2 e.tag ++ valBytes 2 e.op ++ valBytes 4 0
  (∃ h, tget t.hqs q = some { k with cmdIdx := k.cmdIdx + 1, respIdx := k.respIdx + 1, handles := h }) ∧
  ∀ p, cellGet t.mem p = if a ≤ p ∧ p < a + 16 then bytes.getD (p - a) 0 else cellGet s.mem p

/-- The response with its queue's handles, and the harts, launches and contexts as before. -/
def Answers (i : Instr) (s : State) (q : Nat) (k : HostQueue) (e : HqEntry) (result : Word) (handles : List Nat) :
    Prop :=
  ∃ t, exec i s = .next t ∧ Responds s t q k e result ∧ (tget t.hqs q).map HostQueue.handles = some handles ∧
    { t with
      mem := s.mem, l2 := s.l2, posted := s.posted, poison := s.poison, l2Poison := s.l2Poison, broken := s.broken
      grain := s.grain, regions := s.regions, hqs := s.hqs } = s

/-- A launch that waits in its die's queue for its dependences (R388). -/
def Waiting (l : Launch) : Prop := l.status = none ∧ l.eligible = false ∧ l.place = .queue

/-- The six command steps of a queue with their OPs (R385, R386). -/
noncomputable def queueSteps (q : Nat) : List (Nat × Instr) :=
  [(0, .hqLaunch q), (1, .hqHoldHart q), (2, .hqReleaseHart q), (3, .hqRetireHandle q), (4, .hqMigrateHart q),
   (5, .hqSetOverflowRing q)]

end Sys2Proof.Claims

/-- The dispatcher's choices (R50 to R54, R70, R387 to R394, R412): an entry returns from the overflow ring where
its queue has room; a launch whose dependences are met becomes eligible with its placement, in the cores of
its partition (a word in a page in migration is not read yet); a free slot goes to the best candidate that fits, whose
hart starts as its launch record says; with no slot free the occupant that the best candidate may displace is asked to
leave; priorities age by a level each 2 ms. That ages count from eligibility (log 62), that a hart takes the lowest free
save area (log 63), that a launch of no instances ends with 0 before the other statuses (log 60) and that the dispatcher
reads by virtual addresses of the context (log 58) are the model's choices. -/
def Obligations.DispatcherSteps : Prop :=
  ∀ (s : State) (c h : Nat) (l : Launch),
    (s.ringHead c = some (h, l) →
      (s.queueRoom l.die c = true → ∃ t, exec (.overflowRingReturn c) s = .next t ∧
        LaunchIs s t h { l with place := .queue } ∧ (t.ctx c).ringHead = (s.ctx c).ringHead + 1 ∧
        { t with launches := s.launches, ctxs := s.ctxs } = s) ∧
      (s.queueRoom l.die c = false → Leaves (.overflowRingReturn c) s s)) ∧
    (s.ringHead c = none → Leaves (.overflowRingReturn c) s s) ∧
    (tget s.launches h = some l →
      (Waiting l → (∀ g m, g ≠ h → tget s.launches g = some m → ¬ Waiting m) →
        let met := (∀ a, tget s.launches l.after = some a → a.status ≠ none) ∧
          (l.waitAddr = 0 ∨ (s.dispParks l.ctx .read (BitVec.ofNat 64 l.waitAddr) = false ∧
            l.waitVal ≤ s.dispRead l.ctx (BitVec.ofNat 64 l.waitAddr) 8))
        let placed := { l with eligible := true, eligAt := s.time, waitFrom := s.time, cores := s.placement l }
        (¬ met → Leaves (.launchEligible h) s s) ∧
        (met → l.count ≠ 0 → s.placement l ≠ [] → ∃ t, exec (.launchEligible h) s = .next t ∧
          LaunchIs s t h placed ∧ { t with launches := s.launches } = s) ∧
        (met → l.count = 0 ∨ s.placement l = [] → ∃ t, exec (.launchEligible h) s = .next t ∧
          LaunchIs s t h { placed with status := some (if l.count = 0 then 0 else 3), doneAt := s.time })) ∧
      (∀ p, s.partition l.ctx = some p → ∀ d ∈ s.placement l, ∀ k ∈ d, p.hamlets.getLsbD (hamletOf k) = true) ∧
      (s.launches = [(h, l)] → exec .waitaddrPoll s = exec (.launchEligible h) s ∧
        ∃ t, exec .waitaddrPoll s = .next t) ∧
      ((∀ g m, tget s.launches g = some m → ¬ Waiting m) → Leaves .waitaddrPoll s s) ∧
      (∀ due : Prop, (due ↔ l.eligible = true ∧ l.status = none ∧ l.boost < 8 ∧
          2000000 * (l.boost + 1) ≤ (s.time - l.waitFrom).toNat ∧
          ∀ g ∈ s.harts, launchOf g.uid = h → g.inSlot = false) →
        (due → ∃ t, exec (.priorityAging h) s = .next t ∧ LaunchIs s t h { l with boost := l.boost + 1 } ∧
          { t with launches := s.launches } = s) ∧
        (¬ due → Leaves (.priorityAging h) s s))) ∧
    (∀ core, s.cands core = [] → Leaves (.hartIssue core) s s ∧
      ((∀ g m, tget s.launches g = some m → ¬ Waiting m) → (∀ g ∈ s.occupants core, g.wantsLanes = false) →
      (s.mgmt.quantumUs * 1000 / 2 ≤ (s.time - (s.core core).tickAt).toNat →
        Leaves (.dispatchTick core) s (s.setCore core { s.core core with tickAt := s.time }))) ∧
      ((s.time - (s.core core).tickAt).toNat < s.mgmt.quantumUs * 1000 / 2 → Leaves (.dispatchTick core) s s)) ∧
    (∀ core cand slot area, Canonical s → s.pick core = some cand → cand.saved = false →
      cand.paired = false → cand.handle = h → cand.inst < 2 ^ 32 → s.freeSlot [core] = some slot → tget s.launches h = some l →
      l.coreOf cand.inst = some core → (s.ctx l.ctx).freeArea = some area →
      (∀ g ∈ s.harts, g.uid ≠ h * 2 ^ 32 + cand.inst) → s.loadTrouble core l.ctx = none →
      ∃ t g, exec (.hartIssue core) s = .next t ∧ g ∈ t.harts ∧
        StartsAs g l (s.ctx l.ctx) (h * 2 ^ 32 + cand.inst) core slot area ∧
        LaunchIs s t h { l with started := cand.inst :: l.started, boost := 0 } ∧
        area ∈ (t.ctx l.ctx).areas ∧ NothingDirty t core) ∧
    (∀ core cand, s.pick core = none → s.nextCand core = some cand → s.freeSlot (cand.cores core) = none →
      s.victims core cand false = [s.hart.uid] → s.hart.inSlot = true →
      ∃ t, exec (.hartIssue core) s = .next t ∧ AsksSave s t .preempt)

/-- Save and restore (R5, R65, R377, R379, R380, R382): a save that was asked for leaves the hart out of its slot,
with its PC and its registers in its save area and STATE 1; a restore puts it into the lowest free slot with
the registers that its area holds, reserved bits as they read; an area whose version is not 1, or whose BRIM lies above
16, is refused, and the hart is held. That L1 is written back and dropped where the core's split changes (log 29) and the
details of the area (log 63) are the model's choices. -/
def Obligations.SaveAndRestore : Prop :=
  ∀ (s : State) (i : Nat), Canonical s → s.hart.saveIdx = some i →
    let base := s.myCtx.areaBase i
    let id := s.hart.uid
    (∀ r, s.hart.saveReq = some r → s.hart.saved = false → s.pairedHart id = false → s.hart.wait = .none →
      s.hart.reclaimed = false →
      ∃ t, exec (.hartSave id r) s = .next t ∧ t.hart.saved = true ∧ t.hart.holds = false ∧ t.hart.saveReq = none ∧
        t.hart.status = (if s.hart.holdReq = true then .held else .ready) ∧
        t.hart.reason = r ∧ t.hart.pc = s.hart.pc ∧ SameRegs s t ∧ NothingDirty t s.hart.core ∧
        (∀ j, j < 8 → cellGet t.mem (base + 8 + j) = byteOf s.hart.pc j) ∧
        (∀ j, j < 4 → cellGet t.mem (base + 4 + j) = byteOf 1 j) ∧
        (∀ (g : Reg) (j : Nat), g ≠ 0 → j < 8 → cellGet t.mem (base + 0x100 + 8 * g.toNat + j) = byteOf (s.x g) j) ∧
        ∀ (g : Reg) (j : Nat), j < 8 → cellGet t.mem (base + 0x200 + 8 * g.toNat + j) = byteOf (s.f g) j) ∧
    (s.hart.saveReq = none → ∀ r, Leaves (.hartSave id r) s s) ∧
    (∀ c slot, s.pick s.hart.core = some c → c.saved = true → c.paired = false →
      c.uids = [id] → s.freeSlot [s.hart.core] = some slot →
      let u := s.readyCore s.hart.core s.hart.ctx id s.hart.bounds.scratch
      (s.areaVal 0 4 = 1 → s.areaVal 0x15 1 ≤ 16 → s.hart.wait = .none → s.loadTrouble s.hart.core s.hart.ctx = none →
        ∃ t, exec (.hartRestore id) s = .next t ∧ t.hart.status = .running ∧ t.hart.slot = slot ∧
          t.hart.saved = false ∧ t.hart.dirtyv = 0 ∧ t.hart.pc = u.areaWord 8 ∧
          (∀ g : Reg, g ≠ 0 → t.x g = u.areaWord (0x100 + 8 * g.toNat)) ∧
          (∀ g : Reg, t.f g = u.areaWord (0x200 + 8 * g.toNat)) ∧
          t.hart.csr.vt = (u.areaWord 0x308).setWidth 16 &&& 0xFF7F ∧ NothingDirty t s.hart.core) ∧
      (s.areaVal 0 4 ≠ 1 ∨ 16 < s.areaVal 0x15 1 → ∃ t, exec (.hartRestore id) s = .next t ∧ t.hart.status = .held ∧ SameRegs s t)) ∧
    (∀ c, s.pick s.hart.core = some c → id ∉ c.uids → Leaves (.hartRestore id) s s)

/-- Host queue commands (R384 to R386): an unbound queue, and one whose entries the host's doorbell has not posted, has
no step; a step leaves another command to its own; an OP of 6 or more and arguments that name nothing, a release of a
hart that is not held and a migrate that R386 does not allow are answered by their codes; launch, hold, release, retire,
migrate and the overflow ring have their effects and answer. That a launch waits while its overflow ring holds entries,
and the codes of a release and a migrate, are the model's choices (log 59). -/
def Obligations.HostQueueCommands : Prop :=
  ∀ (s : State) (q : Nat), Canonical s →
    (tget s.hqs q = none → ∀ p ∈ queueSteps q, Leaves p.2 s s) ∧
    ∀ k, tget s.hqs q = some k →
      (k.produced ≤ k.cmdIdx → ∀ p ∈ queueSteps q, Leaves p.2 s s) ∧
      (k.cmdIdx < k.produced →
      let e := s.hqEntry k
      let hart := s.hartAt k.cfg.ctx (e.word 0)
      (6 ≤ e.op → ∀ p ∈ queueSteps q, Answers p.2 s q k e 0xFFFFFFFFFFFFFFFC k.handles) ∧
      (e.op < 6 → ∀ p ∈ queueSteps q, p.1 ≠ e.op → Leaves p.2 s s) ∧
      (e.op = 0 →
        (s.queueRoom k.cfg.die k.cfg.ctx = false ∨ (s.ctx k.cfg.ctx).ringUsed ≠ 0 ∨
          (∃ n, tget (s.ctx k.cfg.ctx).kernels (e.word 0).toNat = some n ∧
            s.tripParks k.cfg.ctx n (e.word 1) ≠ none) → Leaves (.hqLaunch q) s s) ∧
        (s.queueRoom k.cfg.die k.cfg.ctx = true → (s.ctx k.cfg.ctx).ringUsed = 0 →
          (tget (s.ctx k.cfg.ctx).kernels (e.word 0).toNat = none →
            ∃ t, exec (.hqLaunch q) s = .next t ∧ Responds s t q k e 0xFFFFFFFFFFFFFFFD ∧ t.launches = s.launches) ∧
          (∀ n, tget (s.ctx k.cfg.ctx).kernels (e.word 0).toNat = some n → ControlFits (e.word 2) → e.word 3 = 0 →
            e.cwAddr.toNat % 8 = 0 → e.waitAddr.toNat % 8 = 0 →
            s.tripParks k.cfg.ctx n (e.word 1) = none →
            tripsOk n.bounds.paired (s.tripsOf k.cfg.ctx n (e.word 1)) = false →
            ∃ t, exec (.hqLaunch q) s = .next t ∧ Responds s t q k e 0xFFFFFFFFFFFFFFFE ∧ t.launches = s.launches) ∧
          (∀ n, tget (s.ctx k.cfg.ctx).kernels (e.word 0).toNat = some n → ControlFits (e.word 2) → e.word 3 = 0 →
            e.cwAddr.toNat % 8 = 0 → e.waitAddr.toNat % 8 = 0 →
            s.tripParks k.cfg.ctx n (e.word 1) = none →
            tripsOk n.bounds.paired (s.tripsOf k.cfg.ctx n (e.word 1)) = true → s.nextLaunch < 2 ^ 63 →
            ∃ t l, exec (.hqLaunch q) s = .next t ∧ Responds s t q k e (BitVec.ofNat 64 s.nextLaunch) ∧
              LaunchIs s t s.nextLaunch l ∧ l.hostq = some q ∧ l.parent = none ∧ l.args = e.word 1 ∧ l.kernel = n ∧
              l.cwAddr = e.cwAddr.toNat ∧ l.cwVal = e.cwVal ∧ l.waitAddr = e.waitAddr.toNat ∧ l.waitVal = e.waitVal ∧
              (tget t.hqs q).map HostQueue.handles = some (k.handles ++ [s.nextLaunch])))) ∧
      (hart = none →
        (e.op = 1 → Answers (.hqHoldHart q) s q k e 0xFFFFFFFFFFFFFFFD k.handles) ∧
        (e.op = 2 → Answers (.hqReleaseHart q) s q k e 0xFFFFFFFFFFFFFFFD k.handles) ∧
        (e.op = 4 → Answers (.hqMigrateHart q) s q k e 0xFFFFFFFFFFFFFFFD k.handles)) ∧
      (hart = some s.hart →
        (e.op = 1 → s.hart.saved = true → ∃ t, exec (.hqHoldHart q) s = .next t ∧ Responds s t q k e 0 ∧
          t.hart = { s.hart with status := .held }) ∧
        (e.op = 1 → s.hart.saved = false → s.hart.inSlot = true → ∃ t, exec (.hqHoldHart q) s = .next t ∧
          Responds s t q k e 0 ∧ t.hart = { s.hart with
            saveReq := some .preempt, holdReq := true
            saveFrom := if s.hart.saveReq = none then s.time else s.hart.saveFrom }) ∧
        (e.op = 2 → s.hart.status = .held → ∃ t, exec (.hqReleaseHart q) s = .next t ∧
          Responds s t q k e 0 ∧ t.hart = { s.hart with status := .ready, readyAt := s.time }) ∧
        (e.op = 2 → s.hart.status ≠ .held → Answers (.hqReleaseHart q) s q k e 0xFFFFFFFFFFFFFFFD k.handles) ∧
        let mayMove := s.hart.status = .held ∧ s.hart.saved = true ∧ s.hart.bounds.scratch = 0 ∧
          s.hart.bounds.barriers = 0 ∧ s.hart.bounds.paired = false ∧
          ∃ l, tget s.launches (launchOf s.hart.uid) = some l ∧ ∃ p ∈ l.cores, (e.word 1).toNat ∈ p
        (e.op = 4 → mayMove → ∃ t, exec (.hqMigrateHart q) s = .next t ∧
          Responds s t q k e 0 ∧ t.hart = { s.hart with core := (e.word 1).toNat }) ∧
        (e.op = 4 → ¬ mayMove →
          Answers (.hqMigrateHart q) s q k e 0xFFFFFFFFFFFFFFFD k.handles)) ∧
      (e.op = 3 →
        let status := (tget s.launches (e.word 0).toNat).bind (·.status)
        (∀ v, status = some v → (e.word 0).toNat ∈ k.handles →
          Answers (.hqRetireHandle q) s q k e (BitVec.ofNat 64 v)
            (k.handles.filter fun x => x != (e.word 0).toNat)) ∧
        (status = none ∨ (e.word 0).toNat ∉ k.handles →
          Answers (.hqRetireHandle q) s q k e 0xFFFFFFFFFFFFFFFD k.handles)) ∧
      (e.op = 5 →
        let c := s.ctx k.cfg.ctx
        let n := (e.word 1).toNat % 32
        let bad := c.ringUsed ≠ 0 ∨ (e.word 0 ≠ 0 ∧ (n < 4 ∨ 16 < n))
        (bad → Answers (.hqSetOverflowRing q) s q k e 0xFFFFFFFFFFFFFFFD k.handles) ∧
        (¬ bad → ∃ t, exec (.hqSetOverflowRing q) s = .next t ∧ Responds s t q k e 0 ∧
          t.ctx k.cfg.ctx = { c with
            ringBase := (e.word 0).toNat, ringLog := if e.word 0 = 0 then 0 else n, ringHead := 0, ringTail := 0 } ∧
          ∀ p, p ≠ k.cfg.ctx → t.ctx p = s.ctx p)))

/-! ### The host, links, power, storage errors and hash trees -/

namespace Sys2Proof.Claims

/-- The function reaches an HBM address: the physical function all of it, a virtual one its partition's (R439). -/
def Reaches (s : State) (fn pa : Nat) : Prop :=
  pa < 2 ^ 39 ∧ (fn = 0 ∨ ∃ p, s.mgmt.parts[fn - 1]? = some p ∧ ∃ r ∈ p.ranges, r.1 ≤ pa ∧ pa < r.1 + r.2)

/-- A sector that n bytes touch. -/
def Touches (pa n sec : Nat) : Prop := ∃ i, i < n ∧ (pa + i) / 32 = sec

/-- Everything but memory, the lines of L2 and what goes with them is as before. -/
def OnlyMem (s t : State) : Prop :=
  { t with
    mem := s.mem, l2 := s.l2, posted := s.posted, hostMem := s.hostMem, poison := s.poison
    l2Poison := s.l2Poison, broken := s.broken, grain := s.grain, regions := s.regions } = s

/-- The master that a function is (R449). -/
def masterOf (fn : Nat) : Nat := if fn = 0 then 1 else fn + 15

/-- An entry stands last in a die's error log (R432). -/
def Logged (s t : State) (die kind pa : Nat) : Prop :=
  ∃ d e, tget t.dieLogs die = some d ∧ d.log.getLast? = some e ∧ e.time = s.time ∧ e.kind = kind ∧ e.pa = pa

/-- A byte once L2 holds no copy of its line: the host's own, where a clean copy differed from it (R442). -/
def homeByte (s : State) (a : Nat) : Byte :=
  match tget s.l2 (a / 256), tget s.hostMem a with
  | some l, some b => if l.dirty.getLsbD (a % 256 / 32) = true then cellGet s.mem a else b
  | _, _ => cellGet s.mem a

/-- Bytes written to host or remote memory that the target dropped: as they were before the write, as far as the
model holds it, and logged, with no copy of their lines left in L2 (R432, R441, R446). -/
def Dropped (s t : State) (pa n : Nat) : Prop :=
  Logged s t 0 3 pa ∧
  (∀ a, pa ≤ a → a < pa + n → cellGet t.mem a = (tget s.posted a).getD (homeByte s a)) ∧
  (∀ a, a < pa ∨ pa + n ≤ a → cellGet t.mem a =
    if 256 * (a / 256) < pa + n ∧ pa < 256 * (a / 256) + 256 then homeByte s a else cellGet s.mem a) ∧
  OnlyMem s { t with dieLogs := s.dieLogs }

/-- The sectors of a range are poisoned, and nothing else changes (R431). -/
def RangePoisoned (i : Instr) (s : State) (pa n : Nat) : Prop :=
  ∃ t, exec i s = .next t ∧ (∀ sec, sec ∈ t.poison ↔ sec ∈ s.poison ∨ Touches pa n sec) ∧
    { t with poison := s.poison } = s

/-- The CRC of a flit holds (R443). -/
def FlitHolds (f : List Byte) : Prop := f.length = 256 ∧ (crc64 (f.take 248)).toNat = bytesVal (f.drop 248)

/-- The frequencies a clock domain takes: steps of 100 MHz in its range (R453). -/
def ClockFits (d : ClockDomain) (mhz : Nat) : Prop :=
  mhz % 100 = 0 ∧ match d with
  | .scalar => 1200 ≤ mhz ∧ mhz ≤ 3600
  | .lane => 600 ≤ mhz ∧ mhz ≤ 1800
  | .vmu => 800 ≤ mhz ∧ mhz ≤ 2400

/-- A notification stands in its ring and pends at the hart (R376, R420, R423, R456). -/
def Notified (s t : State) (c : Nat) (kind detail a1 a2 : Nat) : Prop :=
  let k := s.ctx c
  let a := k.notify.toNat * 4096 + 32 * (k.ntail.toNat % 2 ^ k.notLog.toNat)
  t.hart.irqSoft = some ((k.ntail + 1).setWidth 64) ∧ (t.ctx c).ntail = k.ntail + 1 ∧
  (∀ j, j < 8 → cellGet t.mem (a + j) = byteOf s.time j) ∧
  (∀ j, j < 2 → cellGet t.mem (a + 8 + j) = byteOf (BitVec.ofNat 64 kind) j) ∧
  (∀ j, j < 4 → cellGet t.mem (a + 12 + j) = byteOf (BitVec.ofNat 64 detail) j) ∧
  (∀ j, j < 8 → cellGet t.mem (a + 16 + j) = byteOf (BitVec.ofNat 64 a1) j) ∧
  (∀ j, j < 8 → cellGet t.mem (a + 24 + j) = byteOf (BitVec.ofNat 64 a2) j) ∧
  ∀ p, p < a ∨ a + 32 ≤ p → cellGet t.mem p = cellGet s.mem p

end Sys2Proof.Claims

/-- The host's windows and failing requests (R431, R438 to R442, R446). Window D: reads see memory and writes change
it at the addresses the function reaches, and nowhere else. Window M: the 64 entry bytes, the completion bit, and the
producer index in a queue's doorbell page (its place in the page is the model's choice, log 32, and so is the zero that
a read outside a function's ranges gives, log 68). A function above 16 reaches neither. A read without its data poisons
its sectors; a dropped write leaves the bytes as they were and is logged (what it restores, and the record's die, are
the model's choices, log 71); a snoop, with the CXL option, ends or cleans L2's copy of a line taken under CACHE 0; a
collective without a path ends with status 2 after 10 ms. A link port (R443, R444): a flit whose CRC holds and whose
number is the expected one is accepted, with what it acknowledges; one that fails asks for a replay, and the sixteenth
failed replay sends the port into retraining; the port is up again within 100 ms, or after them down, and then a port of
the same neighbour takes over what it had to send. How replays count and that a flit of another number is passed over are
the model's choices (log 72). -/
def Obligations.HostAndLinks : Prop :=
  (∀ (s : State) (fn pa n : Nat) (data : List Byte), Canonical s →
    (16 < fn → ∀ sp, Leaves (.hostWindowRead fn sp pa n) s s ∧ Leaves (.hostWindowWrite fn sp pa data) s s) ∧
    (fn ≤ 16 →
    (s.poison = [] → ∃ t, exec (.hostWindowRead fn .d pa n) s = .next t ∧ t.hostOut.length = n ∧
      (∀ i, i < n → (s.boot = .done → Reaches s fn (pa + i) → t.hostOut.getD i 0 = cellGet s.mem (pa + i)) ∧
        (s.boot ≠ .done ∨ ¬ Reaches s fn (pa + i) → t.hostOut.getD i 0 = 0)) ∧
      { t with hostOut := s.hostOut, free := s.free } = s) ∧
    (s.boot ≠ .done → ∀ sp, Leaves (.hostWindowWrite fn sp pa data) s s) ∧
    (s.boot ≠ .done → Leaves (.hostWindowRead fn .m pa n) s { s with hostOut := List.replicate n 0 }) ∧
    (s.boot = .done →
      let b := s.mailbox (masterOf fn)
      Leaves (.hostWindowRead fn .m 0xC0 1) s { s with hostOut := [if b.done then 1 else 0] } ∧
      Leaves (.hostWindowRead fn .m 0 64) s
        { s with hostOut := (List.range 64).map fun i => b.entry.getD i 0 } ∧
      (data.length = 64 → Leaves (.hostWindowWrite fn .m 0 data) s (s.setMailbox (masterOf fn) { b with entry := data })) ∧
      ∀ q, q < 64 → data.length = 8 →
        (∀ k, tget s.hqs q = some k →
          (fn = 0 ∨ (s.ctx k.cfg.ctx).part = fn - 1 → Leaves (.hostWindowWrite fn .m (0x100000 + 4096 * q) data) s
            { s with hqs := tset s.hqs q { k with produced := le (fun i => data.getD i 0) 8 } }) ∧
          (fn ≠ 0 → (s.ctx k.cfg.ctx).part ≠ fn - 1 →
            Leaves (.hostWindowWrite fn .m (0x100000 + 4096 * q) data) s s)) ∧
        (tget s.hqs q = none → Leaves (.hostWindowWrite fn .m (0x100000 + 4096 * q) data) s s)) ∧
    (s.boot = .done → ∃ t, exec (.hostWindowWrite fn .d pa data) s = .next t ∧ OnlyMem s t ∧
      (∀ a, pa ≤ a → a < pa + data.length → Reaches s fn a → cellGet t.mem a = data.getD (a - pa) 0) ∧
      (∀ a, a < pa ∨ pa + data.length ≤ a ∨ ¬ Reaches s fn a → cellGet t.mem a = cellGet s.mem a) ∧
      ∀ a, t.grainOf a = s.grainOf a)) ∧
    (isHost pa = true →
      RangePoisoned (.hostRequestError pa n false) s pa n ∧ RangePoisoned (.hostReadTimeout pa n) s pa n ∧
      (Machine.Tbl.rising s.hostMem = true → ∃ t, exec (.hostRequestError pa n true) s = .next t ∧ Dropped s t pa n)) ∧
    (isHost pa = false → ∀ w, Leaves (.hostRequestError pa n w) s s ∧ Leaves (.hostReadTimeout pa n) s s) ∧
    (∀ take, Config.cxl = false ∨ isHost pa = false ∨ (∀ l, tget s.l2 (pa / 256) = some l → l.snoop = false) →
      Leaves (.hostSnoop pa take) s s) ∧
    (∀ l, Config.cxl = true → isHost pa = true → tget s.l2 (pa / 256) = some l → l.snoop = true →
      Leaves (.hostSnoop pa false) s { s with
        l2 := tset s.l2 (pa / 256) { l with dirty := 0 }
        hostMem := s.hostMem.filter fun c => c.1 / 256 != pa / 256 || !l.dirty.getLsbD (c.1 % 256 / 32) } ∧
      (Machine.Tbl.rising s.hostMem = true → ∃ t, exec (.hostSnoop pa true) s = .next t ∧
        (∀ a, cellGet t.mem a = if a / 256 = pa / 256 then homeByte s a else cellGet s.mem a) ∧
        (s.l2.rising = true → tget t.l2 (pa / 256) = none) ∧ (∀ m, m ≠ pa / 256 → tget t.l2 m = tget s.l2 m) ∧
        { t with
          mem := s.mem, hostMem := s.hostMem, l2 := s.l2, poison := s.poison, l2Poison := s.l2Poison
          broken := s.broken } = s)) ∧
    (isDomain pa = true → ∀ u, RangePoisoned (.remoteRequestTimeout .read pa n u) s pa n ∧
      (Machine.Tbl.rising s.hostMem = true → ∃ t, exec (.remoteRequestTimeout .write pa n u) s = .next t ∧ Dropped s t pa n)) ∧
    (isDomain pa = false → ∀ u, Leaves (.remoteRequestTimeout .read pa n u) s s ∧
      Leaves (.remoteRequestTimeout .write pa n u) s s) ∧
    (∀ c rest dst record, s.hart.copyq = c :: rest → CollAt s c dst record →
      (10000000 ≤ (s.time - c.issued).toNat →
        CollFails (.remoteRequestTimeout .coll pa n s.hart.uid) s c dst record) ∧
      ((s.time - c.issued).toNat < 10000000 → Leaves (.remoteRequestTimeout .coll pa n s.hart.uid) s s))) ∧
  (∀ (s : State) (n : Nat) (f : List Byte), n < 18 →
    let p := s.port n
    (p.st = .up →
      (FlitHolds f → Config.flitSeq f = p.expected →
        let left := match p.retry.findIdx? (fun g => Config.flitSeq g == Config.flitAck f) with
          | some i => p.retry.drop (i + 1)
          | none => p.retry
        Leaves (.linkFlitReceive n f) s (s.setPort n { p with
          expected := p.expected + 1, retries := 0, replay := false, flits := p.flits ++ [f]
          retry := left ++ p.sendq.take (512 - left.length), sendq := p.sendq.drop (512 - left.length) })) ∧
      (FlitHolds f → Config.flitSeq f ≠ p.expected → ∃ t, exec (.linkFlitReceive n f) s = .next t ∧ t.port n = p ∧
        { t with ports := s.ports } = s) ∧
      (¬ FlitHolds f → Leaves (.linkFlitReceive n f) s (s.setPort n
        (if p.replay = false then { p with replay := true, retries := 0 }
         else if p.retries + 1 = 16 then { p with st := .retraining, since := s.time, retries := 0 }
         else { p with retries := p.retries + 1 })))) ∧
    (p.st ≠ .up → Leaves (.linkFlitReceive n f) s s) ∧
    (p.st = .retraining →
      let heir (m : Nat) : Prop := m < 18 ∧ m ≠ n ∧ Config.neighbour m = Config.neighbour n ∧ (s.port m).st = .up
      ((s.time - p.since).toNat < 100000000 →
        Leaves (.linkPortRetrained n) s (s.setPort n { p with
          st := .up, retries := 0
          retry := p.retry ++ p.sendq.take (512 - p.retry.length), sendq := p.sendq.drop (512 - p.retry.length) }) ∧
        Leaves (.linkPortDown n) s s) ∧
      (100000000 ≤ (s.time - p.since).toNat →
        Leaves (.linkPortRetrained n) s s ∧
        ((∀ m, ¬ heir m) → Leaves (.linkPortDown n) s (s.setPort n { p with st := .down })) ∧
        (∀ m, heir m → (∀ j, j < m → ¬ heir j) →
          let q := s.port m
          let all := q.sendq ++ p.retry ++ p.sendq
          ∃ t, exec (.linkPortDown n) s = .next t ∧ t.port n = { p with st := .down, retry := [], sendq := [] } ∧
            t.port m = { q with
              retry := q.retry ++ all.take (512 - q.retry.length), sendq := all.drop (512 - q.retry.length) } ∧
            (∀ j, j ≠ n → j ≠ m → t.port j = s.port j) ∧ { t with ports := s.ports } = s))) ∧
    (p.st ≠ .retraining → Leaves (.linkPortRetrained n) s s ∧ Leaves (.linkPortDown n) s s))

/-- Clocks, throttle, limits, bring-up and storage errors (R431, R453 to R457): a change of clock or throttle
is recorded and notified to the hamlet's residents, a limit to its own; bring-up from a verified slot clears
HBM and opens the device, and without one the boot ROM halts; an uncorrectable error poisons dirty data and
leaves clean data to be fetched again; a word of the scratchpad is marked. Hash trees (R435, R436): at its interval,
and not before, EPOCH rises, in the region's descriptor too, and the dirty leaf of a region of one leaf is hashed into
its root. That a clock already at its frequency makes no record and that a limit notifies every context with a resident
hart (log 73), that bring-up runs only from power-on (log 74), when a tree is hashed again (log 70) and what becomes of
clean data and of a scratchpad word in error (log 42) are the model's choices. -/
def Obligations.DeviceSteps : Prop :=
  (∀ (s : State) (n : Nat), Canonical s →
    (∀ d mhz r, n < 32 → ClockFits d mhz → (s.hamlet n).clock d ≠ mhz →
      ∃ t, exec (.clockChange n d mhz r) s = .next t ∧ (t.hamlet n).clock d = mhz ∧
        (∀ e, e ≠ d → (t.hamlet n).clock e = (s.hamlet n).clock e) ∧ (∀ m, m ≠ n → t.hamlet m = s.hamlet m) ∧
        (t.hamlet n).trace = (if (s.hamlet n).trace.length < 256 then (s.hamlet n).trace
          else (s.hamlet n).trace.drop 1) ++ [⟨s.time, d, r, mhz⟩] ∧ SameRegs s t) ∧
    (∀ d mhz r, 32 ≤ n ∨ ¬ ClockFits d mhz ∨ (s.hamlet n).clock d = mhz → Leaves (.clockChange n d mhz r) s s) ∧
    (∀ l, n < 32 → l ≤ 6 → l ≠ (s.hamlet n).throttle →
      ∃ t, exec (.throttleLevelChange n l) s = .next t ∧ t.hamlet n = { s.hamlet n with throttle := l } ∧ SameRegs s t) ∧
    (∀ l, 32 ≤ n ∨ 6 < l ∨ l = (s.hamlet n).throttle → Leaves (.throttleLevelChange n l) s s) ∧
    (∀ w l, l ≠ s.mgmt.powerLimit → Leaves (.powerLimitReached w l) s s ∧ Leaves (.powerBackWithinLimit w l) s s) ∧
    (∀ c k w tenths, s.ctxs = [(c, k)] → s.hart.ctx = c → s.others = [] → s.hart.inSlot = true → k.notifyEn = true →
      k.ntail - k.nhead ≠ BitVec.ofNat 32 (2 ^ k.notLog.toNat) → k.notLog.toNat ≤ 16 →
      (∃ t, exec (.powerLimitReached w s.mgmt.powerLimit) s = .next t ∧ Notified s t c 3 0 w s.mgmt.powerLimit) ∧
      (∃ t, exec (.powerBackWithinLimit w s.mgmt.powerLimit) s = .next t ∧
        Notified s t c 5 0 w s.mgmt.powerLimit) ∧
      (hamletOf s.hart.core = n → n < 32 →
        ∃ t, exec (.thermalLimitReached n tenths) s = .next t ∧ Notified s t c 4 0 n tenths) ∧
      (hamletOf s.hart.core ≠ n → Leaves (.thermalLimitReached n tenths) s s)) ∧
    (∀ a b, s.boot = .off →
      (a = true ∨ b = true → ∃ t, exec (.powerOnBringUp a b) s = .next t ∧ t.boot = .done ∧ t.grain = [] ∧
        (∀ p, p < 2 ^ 39 → cellGet t.mem p = 0) ∧
        (Machine.Tbl.rising s.hostMem = true → ∀ p, 2 ^ 39 ≤ p → cellGet t.mem p = (tget s.hostMem p).getD (cellGet s.mem p)) ∧
        (∀ c, t.core c = Core.reset) ∧ t.l2 = [] ∧ t.broken = [] ∧ t.hostMem = [] ∧ t.l2Poison = [] ∧
        (∀ sec, sec ∈ t.poison ↔ sec ∈ s.poison ∧ 2 ^ 39 ≤ 32 * sec ∧ sec ∉ s.l2Poison) ∧
        t.mgmt = { s.mgmt with slotB := !a } ∧
        { t with
          boot := s.boot, mem := s.mem, poison := s.poison, grain := s.grain, cores := s.cores, l2 := s.l2
          broken := s.broken, hostMem := s.hostMem, l2Poison := s.l2Poison, mgmt := s.mgmt } = s) ∧
      (a = false → b = false → Leaves (.powerOnBringUp a b) s { s with boot := .halted })) ∧
    (∀ a b, s.boot ≠ .off → Leaves (.powerOnBringUp a b) s s) ∧
    (∀ core pa,
      (tget s.l2 (pa / 256) = none → Leaves (.uncorrectableStorageError .l2 pa) s s) ∧
      (∀ l, tget s.l2 (pa / 256) = some l →
        ∃ t, exec (.uncorrectableStorageError .l2 pa) s = .next t ∧ Logged s t (l2Slice (pa / 256) / 64) 1 pa ∧
          (∀ sec, sec ∈ t.poison ↔ sec ∈ s.poison ∨ (sec / 8 = pa / 256 ∧ l.dirty.getLsbD (sec % 8) = true)) ∧
          (∀ sec, sec ∈ t.broken ↔ sec ∈ s.broken ∨ (sec / 8 = pa / 256 ∧ l.valid.getLsbD (sec % 8) = true ∧
            l.dirty.getLsbD (sec % 8) = false)) ∧
          { t with dieLogs := s.dieLogs, poison := s.poison, broken := s.broken } = s) ∧
      ((∀ h ∈ s.others, h.uid ≠ s.hart.uid) → ∃ t, exec (.uncorrectableStorageError (.scratchpad s.hart.uid) pa) s = .next t ∧
        (∀ w, w ∈ t.hart.scrBad ↔ w ∈ s.hart.scrBad ∨ w = pa / 4) ∧
        { t with hart := { t.hart with scrBad := s.hart.scrBad } } = s) ∧
      (tget (s.core core).l1 (pa / 256) = none →
        Leaves (.uncorrectableStorageError (.coreArray core) pa) s s) ∧
      (∀ l, tget (s.core core).l1 (pa / 256) = some l →
        ∃ t, exec (.uncorrectableStorageError (.coreArray core) pa) s = .next t ∧ Logged s t (dieOf core) 1 pa ∧
          t.core core = { s.core core with
            l1 := tset (s.core core).l1 (pa / 256) { l with broken := l.valid, poison := l.poison ||| l.dirty } } ∧
          (∀ c, c ≠ core → t.core c = s.core c) ∧ { t with dieLogs := s.dieLogs, cores := s.cores } = s))) ∧
  (∀ (s : State) (n : Nat), Canonical s →
    (tget s.regions n = none → Leaves (.hashTreeUpdate n) s s) ∧
    ∀ r, tget s.regions n = some r →
      (r.interval = 0 ∨ (s.time - r.updated).toNat < r.interval * 1000000 → Leaves (.hashTreeUpdate n) s s) ∧
      (r.interval ≠ 0 → r.interval * 1000000 ≤ (s.time - r.updated).toNat →
        ((r.dirty = [] ∨ (r.depth = 0 ∧ r.size = 65536 ∧ r.dirty = [0] ∧
            (r.desc + 40 ≤ r.tree + 32 ∨ r.tree + 64 ≤ r.desc + 28))) →
          ∃ t, exec (.hashTreeUpdate n) s = .next t ∧
            tget t.regions n = some { r with dirty := [], epoch := r.epoch + 1, updated := s.time } ∧
            (∀ j, j < 4 → cellGet t.mem (r.desc + 28 + j) = BitVec.ofNat 8 (r.depth / 256 ^ j)) ∧
            (∀ j, j < 8 → cellGet t.mem (r.desc + 32 + j) = BitVec.ofNat 8 ((r.epoch + 1) / 256 ^ j)) ∧
            (r.dirty = [0] → ∀ j, j < 32 →
              cellGet t.mem (r.tree + 32 + j) = (sha256 (cellsGet s.mem r.base 65536)).getD j 0) ∧
            (∀ a, a < r.desc + 28 ∨ r.desc + 40 ≤ a → r.dirty = [] ∨ a < r.tree + 32 ∨ r.tree + 64 ≤ a →
              cellGet t.mem a = cellGet s.mem a) ∧ OnlyMem s t)))

/-! ### The management mailbox -/

namespace Sys2Proof.Claims

/-- The state with an answer in a master's mailbox: a status, a result and the completion bit (R451). -/
def answered (s : State) (m status : Nat) (result : List Word) : State :=
  s.setMailbox m { s.mailbox m with op := none, status := status, result := result, done := true }

/-- A master's command of an OP is under way: by its mailbox's doorbell, or, of the board controller and the fabric
manager, by their own links (R451; log 67). -/
def Started (s : State) (m op : Nat) : Prop := m = 2 ∨ m = 3 ∨ (s.mailbox m).op = some op

/-- The management masters (R449). -/
def Master (m : Nat) : Prop := m = 1 ∨ m = 2 ∨ m = 3 ∨ (0x10 ≤ m ∧ m < 0x20)

/-- The master owns the device: its lease has not lapsed (R450). -/
def Owner (s : State) (m : Nat) : Prop := s.mgmt.owner = m ∧ m ≠ 0 ∧ s.time.toNat < s.mgmt.leaseEnd.toNat

/-- A virtual function names only its own partition (R451). -/
def Names (m part : Nat) : Prop := m < 0x10 ∨ m = 0x10 + part

/-- The command of an OP, once it is under way, is served: status 0 and its result, on a changed state. -/
def Served (op : Nat) (i : Instr) (s : State) (m : Nat) (u : State) (result : List Word) : Prop :=
  Started s m op → exec i s = .next (answered u m 0 result)

/-- The command of an OP, once it is under way, is refused with a status, and nothing else changes. -/
def RefusedWith (op : Nat) (i : Instr) (s : State) (m status : Nat) : Prop :=
  Started s m op → exec i s = .next (answered s m status [])

/-- Management settings changed. -/
def managed (s : State) (g : Mgmt) : State := { s with mgmt := g }

/-- The commands of the owner with their OPs (R450, R451), some of their arguments at random. -/
noncomputable def ownerCommands (m a b : Nat) (l : List Partition) (t : BitVec 1024) (r : List MemRange)
    (x : CtxInit) (q : QueueInit) (k : KernelInit) : List (Nat × Instr) :=
  [(1, .createContext m x), (2, .destroyContext m a), (3, .bindHostQueue m a q), (4, .setSchedulingQuantum m a),
   (5, .endLaunch m a), (6, .hashRegionRegister m a), (6, .hashRegionRemove m a), (6, .hashRegionSeal m a),
   (7, .clearErrorLog m a), (9, .setPartitionTable m l), (10, .setDomainTable m a t), (11, .setHostApertures m a r),
   (11, .setCollectiveTimeout m a), (11, .setPowerLimit m a), (14, .handover m a), (15, .heartbeat m),
   (16, .registerKernel m k), (16, .unregisterKernel m a b)]

/-- The commands of any master with their OPs. -/
noncomputable def openCommands (m a : Nat) (n : BitVec 256) : List (Nat × Instr) :=
  [(13, .mailboxClaim m), (7, .readErrorLog m a), (8, .readTraceBuffer m a), (12, .attestationQuote m n)]

end Sys2Proof.Claims

/-- The mailbox commands of the owner (R235, R384, R393, R435, R436, R445 to R447, R451 to R453), once their doorbell has
rung: each has its effect on legal arguments, and answers 1 and changes nothing on others; an ended launch completes with
status 4. That a bound queue starts again (log 59), that a registration waits for a page in migration (log 60), what a
virtual function may name (log 68), that a context in use is kept (log 69), and the number, the leaves and the descriptor
of a new region (log 70) are the model's choices. -/
def Obligations.OwnerCommands : Prop :=
  ∀ (s : State) (m a b : Nat), s.boot = .done → Master m → Owner s m →
    (∀ x : CtxInit,
      let ok := x.id < 65536 ∧ tget s.ctxs x.id = none ∧ x.part < s.mgmt.parts.length ∧ Names m x.part
      (ok → Started s m 1 → ∃ t, exec (.createContext m x) s = .next (answered t m 0 []) ∧
        (t.ctx x.id).part = x.part ∧ (t.ctx x.id).tvec = x.tvec ∧
        (t.ctx x.id).vwbase.setWidth 64 <<< 40 = x.vwbase &&& 0xFFFFFF0000000000 ∧
        (t.ctx x.id).seqs = [] ∧ (t.ctx x.id).kernels = [] ∧ (t.ctx x.id).vlcap = 16 ∧
        (∀ c, c ≠ x.id → tget t.ctxs c = tget s.ctxs c) ∧ { t with ctxs := s.ctxs } = s) ∧
      (¬ ok → RefusedWith 1 (.createContext m x) s m 1)) ∧
    (let named := ∃ k, tget s.ctxs a = some k ∧ Names m k.part
     let busy := (∃ h ∈ s.harts, h.ctx = a ∧ h.status ≠ .exited) ∨ ∃ p ∈ s.launches, p.2.ctx = a ∧ p.2.status = none
     (named ∧ ¬ busy → Tbl.rising s.ctxs = true → Started s m 2 → ∃ t, exec (.destroyContext m a) s = .next (answered t m 0 []) ∧
        tget t.ctxs a = none ∧ (∀ c, c ≠ a → tget t.ctxs c = tget s.ctxs c) ∧
        (∀ p ∈ t.hqs, p.2.cfg.ctx ≠ a) ∧ SameBytes s t) ∧
     (¬ named ∨ busy → RefusedWith 2 (.destroyContext m a) s m 1)) ∧
    (∀ q : QueueInit, (a < 64 → q.die < 4 → (∃ k, tget s.ctxs q.ctx = some k ∧ Names m k.part) →
        Served 3 (.bindHostQueue m a q) s m { s with hqs := tset s.hqs a ⟨q, 0, 0, 0, []⟩ } []) ∧
      (64 ≤ a ∨ 4 ≤ q.die ∨ ¬ (∃ k, tget s.ctxs q.ctx = some k ∧ Names m k.part) → RefusedWith 3 (.bindHostQueue m a q) s m 1)) ∧
    (40 ≤ a ∧ a ≤ 10000 → Served 4 (.setSchedulingQuantum m a) s m (managed s { s.mgmt with quantumUs := a }) []) ∧
    (a < 40 ∨ 10000 < a → RefusedWith 4 (.setSchedulingQuantum m a) s m 1) ∧
    (1000000 ≤ a ∧ a ≤ 60000000000 → Served 11 (.setCollectiveTimeout m a) s m (managed s { s.mgmt with collNs := a }) []) ∧
    (a < 1000000 ∨ 60000000000 < a → RefusedWith 11 (.setCollectiveTimeout m a) s m 1) ∧
    (a ≤ 2400 → Served 11 (.setPowerLimit m a) s m (managed s { s.mgmt with powerLimit := a }) []) ∧
    (2400 < a → RefusedWith 11 (.setPowerLimit m a) s m 1) ∧
    (∀ t, (a < 1024 → Served 10 (.setDomainTable m a t) s m
        (managed s { s.mgmt with ownDevice := a, present := t }) []) ∧
      (1024 ≤ a → RefusedWith 10 (.setDomainTable m a t) s m 1)) ∧
    (∀ r : List MemRange, let ok := a < s.mgmt.parts.length ∧ r.length ≤ 8 ∧ Names m a ∧
        ∀ p ∈ r, p.base % 4096 = 0 ∧ p.size % 4096 = 0 ∧ p.base + p.size ≤ 2 ^ 48
      (ok → Served 11 (.setHostApertures m a r) s m
        (managed s { s.mgmt with apertures := tset s.mgmt.apertures a r }) []) ∧
      (¬ ok → RefusedWith 11 (.setHostApertures m a r) s m 1)) ∧
    (∀ l : List Partition, s.ctxs = [] → m < 0x10 →
      let ok := l.length ≤ 16 ∧ (∀ p ∈ l, p.hamlets ≠ 0 ∧ p.ways ≠ 0 ∧ p.ranges.length ≤ 4 ∧
          ∀ r ∈ p.ranges, r.1 % 2 ^ 30 = 0 ∧ r.2 % 2 ^ 30 = 0 ∧ r.1 + r.2 ≤ 2 ^ 39) ∧
        l.Pairwise fun p q => p.hamlets &&& q.hamlets = 0 ∧ p.ways &&& q.ways = 0 ∧
          ∀ x ∈ p.ranges, ∀ y ∈ q.ranges, ¬ (x.1 < y.1 + y.2 ∧ y.1 < x.1 + x.2)
      (ok → Served 9 (.setPartitionTable m l) s m (managed s { s.mgmt with parts := l }) []) ∧
      (¬ ok → RefusedWith 9 (.setPartitionTable m l) s m 1)) ∧
    (a < 4 → Served 7 (.clearErrorLog m a) s m { s with dieLogs := tset s.dieLogs a ⟨[], 0⟩ } []) ∧
    (4 ≤ a → RefusedWith 7 (.clearErrorLog m a) s m 1) ∧
    (∀ l, tget s.launches a = some l → l.status = none → (∃ k, tget s.ctxs l.ctx = some k ∧ Names m k.part) → Started s m 5 →
      ∃ t, exec (.endLaunch m a) s = .next (answered t m 0 []) ∧ (tget t.launches a).bind (·.status) = some 4) ∧
    (∀ l, tget s.launches a = some l → l.status ≠ none → RefusedWith 5 (.endLaunch m a) s m 1) ∧
    (tget s.launches a = none → RefusedWith 5 (.endLaunch m a) s m 1) ∧
    (Canonical s → s.regions = [] → s.poison = [] → s.grain = [] → s.l2 = [] → s.broken = [] →
      let fld (o n : Nat) : Nat := le (fun i => cellGet s.mem (a + o + i)) n
      let ok := a + 63 < 2 ^ 39 ∧ fld 0 8 % 65536 = 0 ∧ fld 8 8 % 65536 = 0 ∧ 65536 ≤ fld 8 8 ∧ fld 8 8 ≤ 2 ^ 36 ∧
        fld 0 8 + fld 8 8 ≤ 2 ^ 39 ∧ fld 16 8 % 32 = 0 ∧ fld 16 8 + 32 * 2 ^ (treeDepth (fld 8 8) + 1) ≤ 2 ^ 52 ∧
        fld 24 4 ≤ 60000 ∧ fld 40 24 = 0
      (ok → ∃ r u, Served 6 (.hashRegionRegister m a) s m u [0] ∧ u.regions = [(0, r)] ∧
        r.base = fld 0 8 ∧ r.size = fld 8 8 ∧ r.tree = fld 16 8 ∧ r.interval = fld 24 4 ∧ r.epoch = 0 ∧ r.desc = a ∧
        r.dirty = List.range (2 ^ r.depth) ∧ r.size ≤ 65536 * 2 ^ r.depth ∧
        (r.depth ≠ 0 → 65536 * 2 ^ (r.depth - 1) < r.size) ∧
        (∀ j, j < 4 → cellGet u.mem (a + 28 + j) = BitVec.ofNat 8 (r.depth / 256 ^ j)) ∧
        (∀ j, j < 8 → cellGet u.mem (a + 32 + j) = 0) ∧
        (∀ p, p < a + 28 ∨ a + 40 ≤ p → cellGet u.mem p = cellGet s.mem p) ∧ OnlyMem s u) ∧
      (¬ ok → RefusedWith 6 (.hashRegionRegister m a) s m 1)) ∧
    (∀ r, tget s.regions a = some r →
      Served 6 (.hashRegionRemove m a) s m { s with regions := tdel s.regions a } [] ∧
      Served 6 (.hashRegionSeal m a) s m (s.hashUpdate a) []) ∧
    (tget s.regions a = none → RefusedWith 6 (.hashRegionRemove m a) s m 1 ∧ RefusedWith 6 (.hashRegionSeal m a) s m 1) ∧
    (∀ k : KernelInit,
      (s.registerParks k = true → Leaves (.registerKernel m k) s s) ∧
      (s.registerParks k = false → s.kernelOf k = none → RefusedWith 16 (.registerKernel m k) s m 1) ∧
      ∀ n, s.registerParks k = false → s.kernelOf k = some n → (∃ c, tget s.ctxs k.ctx = some c ∧ Names m c.part) →
        Served 16 (.registerKernel m k) s m
          (s.setCtx k.ctx { s.ctx k.ctx with kernels := tset (s.ctx k.ctx).kernels k.kzhdr.toNat n }) []) ∧
    (let live := ∃ p ∈ s.launches, p.2.ctx = a ∧ p.2.kzhdr = b ∧ p.2.status = none
     let found := (∃ k, tget s.ctxs a = some k ∧ Names m k.part) ∧ tget (s.ctx a).kernels b ≠ none
     (found → ¬ live → Served 16 (.unregisterKernel m a b) s m
        (s.setCtx a { s.ctx a with kernels := tdel (s.ctx a).kernels b }) []) ∧
     (¬ found ∨ live → RefusedWith 16 (.unregisterKernel m a b) s m 1))

/-- Ownership (R449 to R451, R457): the doorbell starts the command of the entry's OP, and an unknown OP is answered 3;
commands before bring-up, from no master or not started have no effect; a command of the owner from another master answers
2; a claim succeeds with no owner or a lapsed lease, and in a handover window for its target only; a heartbeat renews the
lease; lapse and expiry end what they name. The mailbox commands of any master (R420, R423, R432, R454, R458): logs and
traces are read with their overflow counts; a quote binds the nonce and is counted; a message pends at its hart. What
starts a command of the board controller or the fabric manager, CLAIM's status and a handover's target (log 67), the
unit of the lease's count (log 94), the layouts of results (log 8), which harts a message reaches (log 69) and that the
count takes in the quote itself (log 74) are the model's choices. -/
def Obligations.MailboxCommands : Prop :=
  (∀ (s : State) (m : Nat),
    (∀ a b l t r x q k n msg,
      (∀ c ∈ ownerCommands m a b l t r x q k ++ openCommands m a n,
        s.boot ≠ .done ∨ ¬ Master m ∨ ¬ Started s m c.1 → Leaves c.2 s s) ∧
      (s.boot ≠ .done ∨ ¬ Master m → Leaves (.mailboxMessageToHart m a msg) s s) ∧
      (s.boot = .done → Master m → ¬ Owner s m →
        ∀ c ∈ ownerCommands m a b l t r x q k, RefusedWith c.1 c.2 s m 2)) ∧
    (∀ fn data, fn ≤ 16 → m = masterOf fn → s.boot = .done → data.length = 1 → (s.mailbox m).entry.length = 64 →
      let b := s.mailbox m
      let op := le (fun i => b.entry.getD i 0) 2
      (1 ≤ op ∧ op ≤ 16 →
        Leaves (.hostWindowWrite fn .m 0x40 data) s (s.setMailbox m { b with done := false, op := some op })) ∧
      (op = 0 ∨ 16 < op → Leaves (.hostWindowWrite fn .m 0x40 data) s (answered s m 3 []))) ∧
    (s.boot = .done → Master m →
      let open_ := s.mgmt.handTo ≠ 0 ∧ s.time.toNat < s.mgmt.handEnd.toNat
      let free := s.mgmt.owner = 0 ∨ s.mgmt.leaseEnd.toNat ≤ s.time.toNat
      ((open_ ∧ s.mgmt.handTo = m) ∨ (¬ open_ ∧ free) →
        Served 13 (.mailboxClaim m) s m (managed s { s.mgmt with
          owner := m, leaseEnd := s.time + 5000000000, lease := 5000, handTo := 0, handEnd := 0 })
          [BitVec.ofNat 64 m]) ∧
      ((open_ ∧ s.mgmt.handTo ≠ m) ∨ (¬ open_ ∧ ¬ free) →
        Served 13 (.mailboxClaim m) s m s [BitVec.ofNat 64 s.mgmt.owner]) ∧
      (Owner s m →
        Served 15 (.heartbeat m) s m (managed s { s.mgmt with leaseEnd := s.time + 5000000000, lease := 5000 }) [] ∧
        ∀ g, (Master g → Served 14 (.handover m g) s m
            (managed s { s.mgmt with handTo := g, handEnd := s.time + 1000000000 }) []) ∧
          (¬ Master g → RefusedWith 14 (.handover m g) s m 1))) ∧
    (s.mgmt.owner ≠ 0 → s.mgmt.leaseEnd.toNat ≤ s.time.toNat →
      Leaves .leaseLapse s (managed s { s.mgmt with owner := 0, lease := 0 })) ∧
    (s.mgmt.owner = 0 ∨ s.time.toNat < s.mgmt.leaseEnd.toNat → Leaves .leaseLapse s s) ∧
    (s.mgmt.handTo ≠ 0 → s.mgmt.handEnd.toNat ≤ s.time.toNat →
      Leaves .handoverExpire s (managed s { s.mgmt with handTo := 0, handEnd := 0 })) ∧
    (s.mgmt.handTo = 0 ∨ s.time.toNat < s.mgmt.handEnd.toNat → Leaves .handoverExpire s s)) ∧
  (∀ (s : State) (m a : Nat), s.boot = .done → Master m →
    (∀ d, a < 4 → tget s.dieLogs a = some d →
      ∃ res, Served 7 (.readErrorLog m a) s m s (BitVec.ofNat 64 d.ovf :: res) ∧ res.length = 7 * d.log.length) ∧
    (4 ≤ a → RefusedWith 7 (.readErrorLog m a) s m 1) ∧
    (a < 32 → ∃ res, Served 8 (.readTraceBuffer m a) s m s (BitVec.ofNat 64 (s.hamlet a).traceOvf :: res) ∧
      res.length = 2 * (s.hamlet a).trace.length ∧
      ∀ n (h : n < (s.hamlet a).trace.length), res.getD (2 * n) 0 = ((s.hamlet a).trace[n]).time) ∧
    (32 ≤ a → RefusedWith 8 (.readTraceBuffer m a) s m 1) ∧
    (∀ n, s.mgmt.quotes < 2 ^ 40 → ∃ res,
      Served 12 (.attestationQuote m n) s m (managed s { s.mgmt with quotes := s.mgmt.quotes + 1 }) res ∧
      res.take 32 = (bytes32 n).map fun b => b.setWidth 64) ∧
    (∀ n, 2 ^ 40 ≤ s.mgmt.quotes → RefusedWith 12 (.attestationQuote m n) s m 1) ∧
    (∀ msg, s.hart.uid = a → s.hart.status ≠ .exited → (∀ h ∈ s.others, h.uid ≠ a) →
      (∃ k, tget s.ctxs s.hart.ctx = some k ∧ Names m k.part) →
      Leaves (.mailboxMessageToHart m a msg) s
        (answered { s with hart := { s.hart with irqMail := some msg } } m 0 [])) ∧
    (∀ msg, (∀ h ∈ s.harts, h.uid ≠ a) → Leaves (.mailboxMessageToHart m a msg) s (answered s m 1 [])))

/-! ### Queues, reset and the invariant -/

namespace Sys2Proof.Claims

/-- The entry that an instruction at the PC makes: its word, VT, VL, VALLOC and scalar operands, and whether the gauntlet
checks it (R23, R224, R268, R424). -/
def entered (s : State) (kind : QKind) (word : IWord) (ops : List Word) : QEntry where
  kind := kind
  word := word
  vt := s.hart.csr.vt
  vl := s.hart.csr.vl
  ops := ops
  valloc := s.hart.csr.valloc
  checked := s.hart.csr.check == 2 || (s.hart.csr.check == 1 && s.hart.sample == 0)
  interrupted := false
  rhold := false
  pc := s.hart.pc
  waited := false
  probe := none
  data := []
  zero := false

end Sys2Proof.Claims

/-- Entering a queue and leaving it (R23, R37, R224 to R226, R230, R233, R265, R428): the checks trap in their
order, with the highest register, VT or VL as TVAL; behind other entries an instruction enters with its word,
VT, VL and captured operands, and waits where its queue is full or held; a released entry runs with what it
captured. The order of the checks and the register that TVAL of 0x080 names are the model's choices (log 7). -/
def Obligations.QueueEntry : Prop :=
  ∀ (s : State) (d a r : Reg) (k : KReg),
    let g := group s
    let vt := s.hart.csr.vt.setWidth 64
    let i := Instr.vadd d a (.vv r) k
    let f := Instr.vfadd d a (.vv r) k
    let j := Instr.vadd d a (.vx r) k
    let bound (q : Reg) : Prop := q.toNat + g ≤ s.hart.bounds.vregs
    (s.hart.replay = none →
      (¬ bound d → Traps i s 0x080 (BitVec.ofNat 64 (d.toNat + g - 1)) s.hart.pc ∧
        Traps f s 0x080 (BitVec.ofNat 64 (d.toNat + g - 1)) s.hart.pc) ∧
      (bound d → ¬ bound a → Traps i s 0x080 (BitVec.ofNat 64 (a.toNat + g - 1)) s.hart.pc) ∧
      (bound d → bound a → bound r →
        (¬ isInt (etype s) → Traps i s 0x040 vt s.hart.pc) ∧ (isInt (etype s) → Traps f s 0x040 vt s.hart.pc) ∧
        (isInt (etype s) → d.toNat % g ≠ 0 ∨ a.toNat % g ≠ 0 ∨ r.toNat % g ≠ 0 → Traps i s 0x041 vt s.hart.pc)) ∧
      (bound d → bound a → isInt (etype s) → d.toNat % g = 0 → a.toNat % g = 0 →
        (g * perReg s (width s) < vl s → Traps j s 0x0C4 (s.hart.csr.vl.setWidth 64) s.hart.pc) ∧
        (vl s ≤ g * perReg s (width s) → s.hart.queue ≠ [] →
          ((∃ e ∈ s.hart.queue, e.rhold = true) → WaitsFor j s .held) ∧
          ((∀ e ∈ s.hart.queue, e.rhold = false) →
            (s.hart.queue.countP (fun e => e.kind.stands .viq) < 32 → Leaves j s { s with hart := { s.hart with
              queue := s.hart.queue ++ [entered s .viq (encode j) [s.x r]]
              sample := s.hart.sample + 1, pc := s.hart.pc + 4 } }) ∧
            (32 ≤ s.hart.queue.countP (fun e => e.kind.stands .viq) → WaitsFor j s (.room .viq)))))) ∧
    (∀ e rest m more, s.agenda = .queue s.hart.uid none :: more → s.hart.inSlot = true → s.hart.qwait = .none →
      s.hart.queue = e :: rest → e.rhold = false → (e.kind = .vmq → s.hart.pending = []) → decode e.word = .ok m →
      step s = settled s.hart.uid (exec m { s with
        agenda := more, hart := { s.hart with queue := rest, replay := some e, cut := none } })) ∧
    (∀ e, s.hart.replay = some e → k = 0 → s.hart.holds = true → s.hart.trouble = none → s.hart.cut = none →
      s.hart.csr.vstart = 0 → e.vl ≠ 0 → e.kind = .viq →
      let s' : State := { s with hart := { s.hart with csr := { s.hart.csr with vt := e.vt, vl := e.vl } } }
      isInt (etype s') → d.toNat + group s' ≤ 32 → s.hart.grant.lanes ≤ 64 →
      ∃ t, exec j s = .next t ∧ t.hart.replay = none ∧ t.hart.pc = s.hart.pc ∧ t.hart.queue = s.hart.queue ∧
        Written s' t d.toNat (group s') (width s') (vl s') fun n =>
          s'.elem a.toNat (width s') n + (e.ops.getD 0 0).toNat)

/-- What reset leaves (R54, R67, R84, R192, R258, R334, R393, R446, R450, R457): the values the manual gives,
memory that lists nothing, and a device that brings itself up at its first step. That an unlisted byte reads 0
before bring-up, the power limit of 2,400 W and the split 0 are the model's choices (assumption log 2). -/
def Obligations.ResetLeaves : Prop :=
  let s := State.reset
  Canonical s ∧ s.time = 0 ∧ s.boot = .off ∧ s.mem = [] ∧ s.poison = [] ∧ s.launches = [] ∧ s.ctxs = [] ∧
  s.mgmt.owner = 0 ∧ s.mgmt.quantumUs = 200 ∧ s.mgmt.collNs = 1000000000 ∧
  s.hart.csr.vl = 0 ∧ s.hart.csr.vstart = 0 ∧ s.hart.csr.fcsr = 0 ∧ s.hart.csr.valloc = 0x40000 ∧
  s.hart.csr.alead = 16 ∧ s.hart.csr.pairto = 4096 ∧ s.hart.csr.check = 2 ∧ s.hart.csr.pmark = 0 ∧
  (∀ n : Fin 64, (s.hart.chain.heads.get n).m = 0xFF800000 ∧ (s.hart.chain.heads.get n).sigma = 0 ∧
    (s.hart.chain.heads.get n).alpha = 0x3F800000 ∧ (s.hart.chain.heads.get n).valid = 0) ∧
  s.l2 = [] ∧ s.posted = [] ∧ s.broken = [] ∧ s.parkedCw = [] ∧
  (∀ c, (s.core c).l1 = [] ∧ (s.core c).split = 0 ∧ ∀ n : Fin 16, (s.core c).phase.get n = 0) ∧
  step s = exec (.powerOnBringUp true true) s ∧ ∃ t, step s = .next t ∧ t.boot = .done

/-- Every step keeps the one form of the memory side: memory and the tables of translations list rising
addresses and no byte equal to an unlisted one, and L1's lines, the cores and the granule record stand by
rising number (assumption log 1 says which agent moves). -/
def Obligations.CanonicalKept : Prop :=
  ∀ s t : State, Canonical s → step s = .next t → Canonical t
end

