-- ==== Sys2Proof/Laws/Csr.lean ====
section
/-! SUPPORT. The control and status registers number by number: kind, reading, writing. -/

namespace Sys2Proof.Machine

theorem csrKind_000 : csrKind 0x000 = .ro := rfl
theorem csrPriv_000 : csrPriv 0x000 = false := rfl
theorem csrKind_001 : csrKind 0x001 = .ro := rfl
theorem csrPriv_001 : csrPriv 0x001 = false := rfl
theorem csrKind_002 : csrKind 0x002 = .drain := rfl
theorem csrPriv_002 : csrPriv 0x002 = false := rfl
theorem csrKind_003 : csrKind 0x003 = .ro := rfl
theorem csrPriv_003 : csrPriv 0x003 = false := rfl
theorem csrKind_004 : csrKind 0x004 = .rw := rfl
theorem csrPriv_004 : csrPriv 0x004 = false := rfl
theorem csrKind_005 : csrKind 0x005 = .drain := rfl
theorem csrPriv_005 : csrPriv 0x005 = false := rfl
theorem csrKind_006 : csrKind 0x006 = .drain := rfl
theorem csrPriv_006 : csrPriv 0x006 = false := rfl
theorem csrKind_007 : csrKind 0x007 = .rw := rfl
theorem csrPriv_007 : csrPriv 0x007 = false := rfl
theorem csrKind_008 : csrKind 0x008 = .ro := rfl
theorem csrPriv_008 : csrPriv 0x008 = false := rfl
theorem csrKind_009 : csrKind 0x009 = .rw := rfl
theorem csrPriv_009 : csrPriv 0x009 = false := rfl
theorem csrKind_00A : csrKind 0x00A = .ro := rfl
theorem csrPriv_00A : csrPriv 0x00A = false := rfl
theorem csrKind_00B : csrKind 0x00B = .ro := rfl
theorem csrPriv_00B : csrPriv 0x00B = false := rfl
theorem csrKind_00C : csrKind 0x00C = .ro := rfl
theorem csrPriv_00C : csrPriv 0x00C = false := rfl
theorem csrKind_00D : csrKind 0x00D = .ro := rfl
theorem csrPriv_00D : csrPriv 0x00D = false := rfl
theorem csrKind_00E : csrKind 0x00E = .ro := rfl
theorem csrPriv_00E : csrPriv 0x00E = false := rfl
theorem csrKind_00F : csrKind 0x00F = .ro := rfl
theorem csrPriv_00F : csrPriv 0x00F = false := rfl
theorem csrKind_010 : csrKind 0x010 = .ro := rfl
theorem csrPriv_010 : csrPriv 0x010 = false := rfl
theorem csrKind_011 : csrKind 0x011 = .ro := rfl
theorem csrPriv_011 : csrPriv 0x011 = false := rfl
theorem csrKind_012 : csrKind 0x012 = .ro := rfl
theorem csrPriv_012 : csrPriv 0x012 = false := rfl
theorem csrKind_013 : csrKind 0x013 = .ro := rfl
theorem csrPriv_013 : csrPriv 0x013 = false := rfl
theorem csrKind_014 : csrKind 0x014 = .rw := rfl
theorem csrPriv_014 : csrPriv 0x014 = false := rfl
theorem csrKind_015 : csrKind 0x015 = .ro := rfl
theorem csrPriv_015 : csrPriv 0x015 = false := rfl
theorem csrKind_800 : csrKind 0x800 = .rw := rfl
theorem csrPriv_800 : csrPriv 0x800 = true := rfl
theorem csrKind_801 : csrKind 0x801 = .rw := rfl
theorem csrPriv_801 : csrPriv 0x801 = true := rfl
theorem csrKind_802 : csrKind 0x802 = .rw := rfl
theorem csrPriv_802 : csrPriv 0x802 = true := rfl
theorem csrKind_803 : csrKind 0x803 = .rw := rfl
theorem csrPriv_803 : csrPriv 0x803 = true := rfl
theorem csrKind_804 : csrKind 0x804 = .rw := rfl
theorem csrPriv_804 : csrPriv 0x804 = true := rfl
theorem csrKind_805 : csrKind 0x805 = .rw := rfl
theorem csrPriv_805 : csrPriv 0x805 = true := rfl
theorem csrKind_806 : csrKind 0x806 = .rw := rfl
theorem csrPriv_806 : csrPriv 0x806 = true := rfl
theorem csrKind_807 : csrKind 0x807 = .ctx := rfl
theorem csrPriv_807 : csrPriv 0x807 = true := rfl
theorem csrKind_808 : csrKind 0x808 = .ro := rfl
theorem csrPriv_808 : csrPriv 0x808 = true := rfl
theorem csrKind_809 : csrKind 0x809 = .ctx := rfl
theorem csrPriv_809 : csrPriv 0x809 = true := rfl
theorem csrKind_80A : csrKind 0x80A = .ctx := rfl
theorem csrPriv_80A : csrPriv 0x80A = true := rfl
theorem csrKind_80B : csrKind 0x80B = .ctx := rfl
theorem csrPriv_80B : csrPriv 0x80B = true := rfl
theorem csrKind_80C : csrKind 0x80C = .rw := rfl
theorem csrPriv_80C : csrPriv 0x80C = true := rfl
theorem csrKind_80D : csrKind 0x80D = .ctx := rfl
theorem csrPriv_80D : csrPriv 0x80D = true := rfl
theorem csrKind_80E : csrKind 0x80E = .rw := rfl
theorem csrPriv_80E : csrPriv 0x80E = true := rfl
theorem csrKind_80F : csrKind 0x80F = .ctx := rfl
theorem csrPriv_80F : csrPriv 0x80F = true := rfl
theorem csrKind_810 : csrKind 0x810 = .ctx := rfl
theorem csrPriv_810 : csrPriv 0x810 = true := rfl
theorem csrKind_811 : csrKind 0x811 = .ro := rfl
theorem csrPriv_811 : csrPriv 0x811 = true := rfl
theorem csrKind_812 : csrKind 0x812 = .ctx := rfl
theorem csrPriv_812 : csrPriv 0x812 = true := rfl
theorem csrKind_813 : csrKind 0x813 = .ctx := rfl
theorem csrPriv_813 : csrPriv 0x813 = true := rfl
theorem csrKind_814 : csrKind 0x814 = .ro := rfl
theorem csrPriv_814 : csrPriv 0x814 = true := rfl
theorem csrKind_815 : csrKind 0x815 = .ro := rfl
theorem csrPriv_815 : csrPriv 0x815 = true := rfl
theorem csrKind_816 : csrKind 0x816 = .ctx := rfl
theorem csrPriv_816 : csrPriv 0x816 = true := rfl
theorem csrRead_000 (s : State) : s.csrRead 0x000 = s.hart.csr.vl.setWidth 64 := rfl
theorem csrRead_001 (s : State) : s.csrRead 0x001 = s.hart.csr.vt.setWidth 64 := rfl
theorem csrRead_002 (s : State) : s.csrRead 0x002 = s.hart.csr.vstart.setWidth 64 := rfl
theorem csrRead_003 (s : State) : s.csrRead 0x003 = BitVec.ofNat 64 s.hart.lgrant := rfl
theorem csrRead_004 (s : State) : s.csrRead 0x004 = s.hart.csr.valloc.setWidth 64 := rfl
theorem csrRead_005 (s : State) : s.csrRead 0x005 = s.hart.csr.efr.setWidth 64 := rfl
theorem csrRead_006 (s : State) : s.csrRead 0x006 = s.hart.csr.fcsr.setWidth 64 := rfl
theorem csrRead_007 (s : State) : s.csrRead 0x007 = s.hart.csr.hmode := rfl
theorem csrRead_008 (s : State) : s.csrRead 0x008 = s.hart.csr.pmark.setWidth 64 := rfl
theorem csrRead_009 (s : State) : s.csrRead 0x009 = s.hart.csr.alead.setWidth 64 := rfl
theorem csrRead_00A (s : State) : s.csrRead 0x00A = s.hart.csr.loopn.get 0 := rfl
theorem csrRead_00B (s : State) : s.csrRead 0x00B = s.hart.csr.loopn.get 1 := rfl
theorem csrRead_00C (s : State) : s.csrRead 0x00C = s.hart.csr.loopn.get 2 := rfl
theorem csrRead_00D (s : State) : s.csrRead 0x00D = s.hart.csr.loopn.get 3 := rfl
theorem csrRead_00E (s : State) : s.csrRead 0x00E = BitVec.ofNat 64 s.hart.number := rfl
theorem csrRead_00F (s : State) : s.csrRead 0x00F = s.hart.csr.cycle := rfl
theorem csrRead_010 (s : State) : s.csrRead 0x010 = s.time := rfl
theorem csrRead_011 (s : State) : s.csrRead 0x011 = s.hart.csr.stallv := rfl
theorem csrRead_012 (s : State) : s.csrRead 0x012 = s.hart.csr.stallm := rfl
theorem csrRead_013 (s : State) : s.csrRead 0x013 = s.hart.csr.stallc := rfl
theorem csrRead_014 (s : State) : s.csrRead 0x014 = s.hart.csr.pairto.setWidth 64 := rfl
theorem csrRead_015 (s : State) : s.csrRead 0x015 = s.hart.adv.astat := rfl
theorem csrRead_800 (s : State) : s.csrRead 0x800 = s.hart.trap.hstat := rfl
theorem csrRead_801 (s : State) : s.csrRead 0x801 = s.hart.trap.tvecWord := rfl
theorem csrRead_802 (s : State) : s.csrRead 0x802 = s.hart.trap.tcause.setWidth 64 := rfl
theorem csrRead_803 (s : State) : s.csrRead 0x803 = s.hart.trap.tval := rfl
theorem csrRead_804 (s : State) : s.csrRead 0x804 = s.hart.trap.tpc.setWidth 64 <<< 2 := rfl
theorem csrRead_805 (s : State) : s.csrRead 0x805 = s.hart.trap.tstat := rfl
theorem csrRead_806 (s : State) : s.csrRead 0x806 = s.hart.trap.tscratch := rfl
theorem csrRead_807 (s : State) : s.csrRead 0x807 = BitVec.ofNat 64 (s.myCtx.vlcap.toNat) := rfl
theorem csrRead_808 (s : State) : s.csrRead 0x808 = BitVec.ofNat 64 s.lpart := rfl
theorem csrRead_809 (s : State) : s.csrRead 0x809 = BitVec.ofNat 64 (s.myCtx.sttbEn.toNat * 2 ^ 63 + s.myCtx.sttb.toNat * 2 ^ 12) := rfl
theorem csrRead_80A (s : State) : s.csrRead 0x80A = BitVec.ofNat 64 (s.myCtx.vttbEn.toNat * 2 ^ 63 + s.myCtx.vttb.toNat * 2 ^ 17) := rfl
theorem csrRead_80B (s : State) : s.csrRead 0x80B = BitVec.ofNat 64 (s.myCtx.vwbase.toNat * 2 ^ 40) := rfl
theorem csrRead_80C (s : State) : s.csrRead 0x80C = s.hart.trap.ctxid.setWidth 64 := rfl
theorem csrRead_80D (s : State) : s.csrRead 0x80D = BitVec.ofNat 64 (s.myCtx.seed.toNat) := rfl
theorem csrRead_80E (s : State) : s.csrRead 0x80E = s.hart.dirtyv.setWidth 64 := rfl
theorem csrRead_80F (s : State) : s.csrRead 0x80F = BitVec.ofNat 64 (s.myCtx.notifyEn.toNat * 2 ^ 63 + s.myCtx.notify.toNat * 2 ^ 12 + s.myCtx.notLog.toNat) := rfl
theorem csrRead_810 (s : State) : s.csrRead 0x810 = BitVec.ofNat 64 (s.myCtx.nhead.toNat) := rfl
theorem csrRead_811 (s : State) : s.csrRead 0x811 = BitVec.ofNat 64 (s.myCtx.lost.toNat * 2 ^ 32 + s.myCtx.ntail.toNat) := rfl
theorem csrRead_812 (s : State) : s.csrRead 0x812 = BitVec.ofNat 64 (s.myCtx.arenaEn.toNat * 2 ^ 63 + s.myCtx.arena.toNat * 2 ^ 12 + s.myCtx.arenaLog.toNat) := rfl
theorem csrRead_813 (s : State) : s.csrRead 0x813 = BitVec.ofNat 64 (s.myCtx.poolCnt.toNat * 2 ^ 52 + s.myCtx.pool.toNat * 2 ^ 12) := rfl
theorem csrRead_814 (s : State) : s.csrRead 0x814 = match s.hart.saveIdx with
    | some i => BitVec.ofNat 64 (s.myCtx.areaBase i)
    | none => 0 := rfl
theorem csrRead_815 (s : State) : s.csrRead 0x815 = BitVec.ofNat 64 (s.myCtx.abrefuse.toNat) := rfl
theorem csrRead_816 (s : State) : s.csrRead 0x816 = BitVec.ofNat 64 (s.myCtx.hlbase.toNat * 2 ^ 16) := rfl
theorem csrWrite_002 (s : State) (v : Word) : s.csrWrite 0x002 v = s.setCsr { s.hart.csr with vstart := v.setWidth 17 } := rfl
theorem csrWrite_004 (s : State) (v : Word) : s.csrWrite 0x004 v = s.setCsr { s.hart.csr with valloc := v.setWidth 32 } := rfl
theorem csrWrite_005 (s : State) (v : Word) : s.csrWrite 0x005 v = s.setCsr { s.hart.csr with efr := v.setWidth 32 } := rfl
theorem csrWrite_006 (s : State) (v : Word) : s.csrWrite 0x006 v = s.setCsr { s.hart.csr with fcsr := fcsrWrite (v.toNat % 256) } := rfl
theorem csrWrite_007 (s : State) (v : Word) : s.csrWrite 0x007 v = s.setCsr { s.hart.csr with check := checkWrite (v.setWidth 2) } := rfl
theorem csrWrite_009 (s : State) (v : Word) : s.csrWrite 0x009 v = s.setCsr { s.hart.csr with alead := v.setWidth 16 } := rfl
theorem csrWrite_014 (s : State) (v : Word) : s.csrWrite 0x014 v = s.setCsr { s.hart.csr with pairto := pairtoWrite (v.setWidth 20) } := rfl
theorem csrWrite_800 (s : State) (v : Word) : s.csrWrite 0x800 v = s.setTrap { s.hart.trap with ie := v.getLsbD 2 } := rfl
theorem csrWrite_801 (s : State) (v : Word) : s.csrWrite 0x801 v = s.setTrap { s.hart.trap with tvec := v.extractLsb' 2 62, vectored := v.setWidth 2 == 1#2 } := rfl
theorem csrWrite_802 (s : State) (v : Word) : s.csrWrite 0x802 v = s.setTrap { s.hart.trap with tcause := v.setWidth 10 } := rfl
theorem csrWrite_803 (s : State) (v : Word) : s.csrWrite 0x803 v = s.setTrap { s.hart.trap with tval := v } := rfl
theorem csrWrite_804 (s : State) (v : Word) : s.csrWrite 0x804 v = s.setTrap { s.hart.trap with tpc := v.extractLsb' 2 62 } := rfl
theorem csrWrite_805 (s : State) (v : Word) : s.csrWrite 0x805 v = s.setTrap { s.hart.trap with vpart := v.getLsbD 2, pie := v.getLsbD 1, ppriv := v.getLsbD 0 } := rfl
theorem csrWrite_806 (s : State) (v : Word) : s.csrWrite 0x806 v = s.setTrap { s.hart.trap with tscratch := v } := rfl
theorem ctxWrite_807 (k : Ctx) (v : Word) : k.csrWrite 0x807 v = { k with vlcap := vlcapWrite (v.setWidth 5) } := rfl
theorem ctxWrite_809 (k : Ctx) (v : Word) : k.csrWrite 0x809 v = { k with sttbEn := v.getLsbD 63, sttb := v.extractLsb' 12 40 } := rfl
theorem ctxWrite_80A (k : Ctx) (v : Word) : k.csrWrite 0x80A v = { k with vttbEn := v.getLsbD 63, vttb := v.extractLsb' 17 35 } := rfl
theorem ctxWrite_80B (k : Ctx) (v : Word) : k.csrWrite 0x80B v = { k with vwbase := v.extractLsb' 40 24 } := rfl
theorem csrWrite_80C (s : State) (v : Word) : s.csrWrite 0x80C v = s.setTrap { s.hart.trap with ctxid := v.setWidth 16 } := rfl
theorem ctxWrite_80D (k : Ctx) (v : Word) : k.csrWrite 0x80D v = { k with seed := v } := rfl
theorem csrWrite_80E (s : State) (v : Word) : s.csrWrite 0x80E v = { s with hart := { s.hart with dirtyv := v.setWidth 43 } } := rfl
theorem ctxWrite_80F (k : Ctx) (v : Word) : k.csrWrite 0x80F v = { k with notifyEn := v.getLsbD 63, notify := v.extractLsb' 12 40, notLog := capLog (v.setWidth 5) 16 } := rfl
theorem ctxWrite_810 (k : Ctx) (v : Word) : k.csrWrite 0x810 v = { k with nhead := v.setWidth 32 } := rfl
theorem ctxWrite_812 (k : Ctx) (v : Word) : k.csrWrite 0x812 v = { k with arenaEn := v.getLsbD 63, arena := v.extractLsb' 12 40, arenaLog := capLog (v.setWidth 5) 20 } := rfl
theorem ctxWrite_813 (k : Ctx) (v : Word) : k.csrWrite 0x813 v = { k with poolCnt := if 1024 < bits v.toNat 52 11 then 1024 else v.extractLsb' 52 11, pool := v.extractLsb' 12 40 } := rfl
theorem ctxWrite_816 (k : Ctx) (v : Word) : k.csrWrite 0x816 v = { k with hlbase := v.extractLsb' 16 48 } := rfl

/-- LPART depends on the harts' places, slots and lane blocks only. -/
theorem lpart_congr {s t : State} (ho : t.others = s.others) (h1 : t.hart.core = s.hart.core)
    (h2 : t.hart.slot = s.hart.slot) (h3 : t.hart.status = s.hart.status)
    (h5 : t.hart.grant = s.hart.grant) (h6 : t.hart.holds = s.hart.holds) (h7 : t.hart.target = s.hart.target) :
    t.lpart = s.lpart := by
  have hi : t.hart.inSlot = s.hart.inSlot := by unfold Hart.inSlot; rw [h3]
  have hl : t.hart.lpart = s.hart.lpart := by unfold Hart.lpart; rw [h5, h6, h7]
  unfold State.lpart State.harts
  rw [ho]
  simp only [List.filter_cons, h1, hi]
  split
  · simp only [List.foldl_cons, hl, h2]
  · rfl

/-- The PC is no control register. -/
theorem csrRead_advance (s : State) (n : BitVec 12) : s.advance.csrRead n = s.csrRead n := by
  have h : s.advance.lpart = s.lpart := lpart_congr rfl rfl rfl rfl rfl rfl rfl
  unfold State.csrRead
  rw [h]
  rfl

end Sys2Proof.Machine
end

