-- ==== Sys2Proof/Laws/Encode.lean ====
section
/-! SUPPORT. The fields of a packed word are the operands it was packed from (R203, R212). -/

namespace Sys2Proof

/-- A field as a number. -/
theorem fld_toNat (w : IWord) (lo n : Nat) : (fld w lo n).toNat = w.toNat / 2 ^ lo % 2 ^ n := by
  simp [fld, BitVec.extractLsb'_toNat, Nat.shiftRight_eq_div_pow]


@[simp] theorem fld_packRR_op (op fn : BitVec 6) (b a d m : BitVec 5) :
    fld (packRR op fn b a d m) 0 6 = op := by
  apply BitVec.eq_of_toNat_eq; rw [fld_toNat, packRR, BitVec.toNat_ofNat]; omega

@[simp] theorem fld_packRR_m (op fn : BitVec 6) (b a d m : BitVec 5) :
    fld (packRR op fn b a d m) 6 5 = m := by
  apply BitVec.eq_of_toNat_eq; rw [fld_toNat, packRR, BitVec.toNat_ofNat]; omega

@[simp] theorem fld_packRR_d (op fn : BitVec 6) (b a d m : BitVec 5) :
    fld (packRR op fn b a d m) 11 5 = d := by
  apply BitVec.eq_of_toNat_eq; rw [fld_toNat, packRR, BitVec.toNat_ofNat]; omega

@[simp] theorem fld_packRR_a (op fn : BitVec 6) (b a d m : BitVec 5) :
    fld (packRR op fn b a d m) 16 5 = a := by
  apply BitVec.eq_of_toNat_eq; rw [fld_toNat, packRR, BitVec.toNat_ofNat]; omega

@[simp] theorem fld_packRR_b (op fn : BitVec 6) (b a d m : BitVec 5) :
    fld (packRR op fn b a d m) 21 5 = b := by
  apply BitVec.eq_of_toNat_eq; rw [fld_toNat, packRR, BitVec.toNat_ofNat]; omega

@[simp] theorem fld_packRR_fn (op fn : BitVec 6) (b a d m : BitVec 5) :
    fld (packRR op fn b a d m) 26 6 = fn := by
  apply BitVec.eq_of_toNat_eq; rw [fld_toNat, packRR, BitVec.toNat_ofNat]; omega

@[simp] theorem fld_packRI_op (op : BitVec 6) (imm : BitVec 16) (a d : BitVec 5) :
    fld (packRI op imm a d) 0 6 = op := by
  apply BitVec.eq_of_toNat_eq; rw [fld_toNat, packRI, BitVec.toNat_ofNat]; omega

@[simp] theorem fld_packRI_d (op : BitVec 6) (imm : BitVec 16) (a d : BitVec 5) :
    fld (packRI op imm a d) 6 5 = d := by
  apply BitVec.eq_of_toNat_eq; rw [fld_toNat, packRI, BitVec.toNat_ofNat]; omega

@[simp] theorem fld_packRI_a (op : BitVec 6) (imm : BitVec 16) (a d : BitVec 5) :
    fld (packRI op imm a d) 11 5 = a := by
  apply BitVec.eq_of_toNat_eq; rw [fld_toNat, packRI, BitVec.toNat_ofNat]; omega

@[simp] theorem fld_packRI_imm (op : BitVec 6) (imm : BitVec 16) (a d : BitVec 5) :
    fld (packRI op imm a d) 16 16 = imm := by
  apply BitVec.eq_of_toNat_eq; rw [fld_toNat, packRI, BitVec.toNat_ofNat]; omega

@[simp] theorem fld_packJ_op (op : BitVec 6) (off : BitVec 26) :
    fld (packJ op off) 0 6 = op := by
  apply BitVec.eq_of_toNat_eq; rw [fld_toNat, packJ, BitVec.toNat_ofNat]; omega

@[simp] theorem fld_packJ_off (op : BitVec 6) (off : BitVec 26) :
    fld (packJ op off) 6 26 = off := by
  apply BitVec.eq_of_toNat_eq; rw [fld_toNat, packJ, BitVec.toNat_ofNat]; omega

@[simp] theorem fld_packV_op (op fn : BitVec 6) (b a d : BitVec 5) (k : BitVec 3) (form : BitVec 2) :
    fld (packV op fn b a d k form) 0 6 = op := by
  apply BitVec.eq_of_toNat_eq; rw [fld_toNat, packV, BitVec.toNat_ofNat]; omega

@[simp] theorem fld_packV_form (op fn : BitVec 6) (b a d : BitVec 5) (k : BitVec 3) (form : BitVec 2) :
    fld (packV op fn b a d k form) 6 2 = form := by
  apply BitVec.eq_of_toNat_eq; rw [fld_toNat, packV, BitVec.toNat_ofNat]; omega

@[simp] theorem fld_packV_k (op fn : BitVec 6) (b a d : BitVec 5) (k : BitVec 3) (form : BitVec 2) :
    fld (packV op fn b a d k form) 8 3 = k := by
  apply BitVec.eq_of_toNat_eq; rw [fld_toNat, packV, BitVec.toNat_ofNat]; omega

@[simp] theorem fld_packV_d (op fn : BitVec 6) (b a d : BitVec 5) (k : BitVec 3) (form : BitVec 2) :
    fld (packV op fn b a d k form) 11 5 = d := by
  apply BitVec.eq_of_toNat_eq; rw [fld_toNat, packV, BitVec.toNat_ofNat]; omega

@[simp] theorem fld_packV_a (op fn : BitVec 6) (b a d : BitVec 5) (k : BitVec 3) (form : BitVec 2) :
    fld (packV op fn b a d k form) 16 5 = a := by
  apply BitVec.eq_of_toNat_eq; rw [fld_toNat, packV, BitVec.toNat_ofNat]; omega

@[simp] theorem fld_packV_b (op fn : BitVec 6) (b a d : BitVec 5) (k : BitVec 3) (form : BitVec 2) :
    fld (packV op fn b a d k form) 21 5 = b := by
  apply BitVec.eq_of_toNat_eq; rw [fld_toNat, packV, BitVec.toNat_ofNat]; omega

@[simp] theorem fld_packV_fn (op fn : BitVec 6) (b a d : BitVec 5) (k : BitVec 3) (form : BitVec 2) :
    fld (packV op fn b a d k form) 26 6 = fn := by
  apply BitVec.eq_of_toNat_eq; rw [fld_toNat, packV, BitVec.toNat_ofNat]; omega

@[simp] theorem fld_packVN_op (op : BitVec 6) (fd b a d : BitVec 5) (k fn : BitVec 3) :
    fld (packVN op fd b a d k fn) 0 6 = op := by
  apply BitVec.eq_of_toNat_eq; rw [fld_toNat, packVN, BitVec.toNat_ofNat]; omega

@[simp] theorem fld_packVN_fn (op : BitVec 6) (fd b a d : BitVec 5) (k fn : BitVec 3) :
    fld (packVN op fd b a d k fn) 6 3 = fn := by
  apply BitVec.eq_of_toNat_eq; rw [fld_toNat, packVN, BitVec.toNat_ofNat]; omega

@[simp] theorem fld_packVN_k (op : BitVec 6) (fd b a d : BitVec 5) (k fn : BitVec 3) :
    fld (packVN op fd b a d k fn) 9 3 = k := by
  apply BitVec.eq_of_toNat_eq; rw [fld_toNat, packVN, BitVec.toNat_ofNat]; omega

@[simp] theorem fld_packVN_d (op : BitVec 6) (fd b a d : BitVec 5) (k fn : BitVec 3) :
    fld (packVN op fd b a d k fn) 12 5 = d := by
  apply BitVec.eq_of_toNat_eq; rw [fld_toNat, packVN, BitVec.toNat_ofNat]; omega

@[simp] theorem fld_packVN_a (op : BitVec 6) (fd b a d : BitVec 5) (k fn : BitVec 3) :
    fld (packVN op fd b a d k fn) 17 5 = a := by
  apply BitVec.eq_of_toNat_eq; rw [fld_toNat, packVN, BitVec.toNat_ofNat]; omega

@[simp] theorem fld_packVN_b (op : BitVec 6) (fd b a d : BitVec 5) (k fn : BitVec 3) :
    fld (packVN op fd b a d k fn) 22 5 = b := by
  apply BitVec.eq_of_toNat_eq; rw [fld_toNat, packVN, BitVec.toNat_ofNat]; omega

@[simp] theorem fld_packVN_fd (op : BitVec 6) (fd b a d : BitVec 5) (k fn : BitVec 3) :
    fld (packVN op fd b a d k fn) 27 5 = fd := by
  apply BitVec.eq_of_toNat_eq; rw [fld_toNat, packVN, BitVec.toNat_ofNat]; omega

@[simp] theorem fld_packMX_op (op : BitVec 6) (fn : BitVec 5) (tb : Bool) (v fd : BitVec 5) (acc : BitVec 3) (row : BitVec 6) (form : BitVec 1) :
    fld (packMX op fn tb v fd acc row form) 0 6 = op := by
  apply BitVec.eq_of_toNat_eq; rw [fld_toNat, packMX, BitVec.toNat_ofNat]; cases tb <;> (simp only [Bool.toNat_true, Bool.toNat_false]; omega)

@[simp] theorem fld_packMX_form (op : BitVec 6) (fn : BitVec 5) (tb : Bool) (v fd : BitVec 5) (acc : BitVec 3) (row : BitVec 6) (form : BitVec 1) :
    fld (packMX op fn tb v fd acc row form) 6 1 = form := by
  apply BitVec.eq_of_toNat_eq; rw [fld_toNat, packMX, BitVec.toNat_ofNat]; cases tb <;> (simp only [Bool.toNat_true, Bool.toNat_false]; omega)

@[simp] theorem fld_packMX_row (op : BitVec 6) (fn : BitVec 5) (tb : Bool) (v fd : BitVec 5) (acc : BitVec 3) (row : BitVec 6) (form : BitVec 1) :
    fld (packMX op fn tb v fd acc row form) 7 6 = row := by
  apply BitVec.eq_of_toNat_eq; rw [fld_toNat, packMX, BitVec.toNat_ofNat]; cases tb <;> (simp only [Bool.toNat_true, Bool.toNat_false]; omega)

@[simp] theorem fld_packMX_acc (op : BitVec 6) (fn : BitVec 5) (tb : Bool) (v fd : BitVec 5) (acc : BitVec 3) (row : BitVec 6) (form : BitVec 1) :
    fld (packMX op fn tb v fd acc row form) 13 3 = acc := by
  apply BitVec.eq_of_toNat_eq; rw [fld_toNat, packMX, BitVec.toNat_ofNat]; cases tb <;> (simp only [Bool.toNat_true, Bool.toNat_false]; omega)

@[simp] theorem fld_packMX_fd (op : BitVec 6) (fn : BitVec 5) (tb : Bool) (v fd : BitVec 5) (acc : BitVec 3) (row : BitVec 6) (form : BitVec 1) :
    fld (packMX op fn tb v fd acc row form) 16 5 = fd := by
  apply BitVec.eq_of_toNat_eq; rw [fld_toNat, packMX, BitVec.toNat_ofNat]; cases tb <;> (simp only [Bool.toNat_true, Bool.toNat_false]; omega)

@[simp] theorem fld_packMX_v (op : BitVec 6) (fn : BitVec 5) (tb : Bool) (v fd : BitVec 5) (acc : BitVec 3) (row : BitVec 6) (form : BitVec 1) :
    fld (packMX op fn tb v fd acc row form) 21 5 = v := by
  apply BitVec.eq_of_toNat_eq; rw [fld_toNat, packMX, BitVec.toNat_ofNat]; cases tb <;> (simp only [Bool.toNat_true, Bool.toNat_false]; omega)

@[simp] theorem fld_packMX_fn (op : BitVec 6) (fn : BitVec 5) (tb : Bool) (v fd : BitVec 5) (acc : BitVec 3) (row : BitVec 6) (form : BitVec 1) :
    fld (packMX op fn tb v fd acc row form) 27 5 = fn := by
  apply BitVec.eq_of_toNat_eq; rw [fld_toNat, packMX, BitVec.toNat_ofNat]; cases tb <;> (simp only [Bool.toNat_true, Bool.toNat_false]; omega)

@[simp] theorem fld_packS_op (op : BitVec 6) (csr : BitVec 12) (a d : BitVec 5) (fn : BitVec 4) :
    fld (packS op csr a d fn) 0 6 = op := by
  apply BitVec.eq_of_toNat_eq; rw [fld_toNat, packS, BitVec.toNat_ofNat]; omega

@[simp] theorem fld_packS_fn (op : BitVec 6) (csr : BitVec 12) (a d : BitVec 5) (fn : BitVec 4) :
    fld (packS op csr a d fn) 6 4 = fn := by
  apply BitVec.eq_of_toNat_eq; rw [fld_toNat, packS, BitVec.toNat_ofNat]; omega

@[simp] theorem fld_packS_d (op : BitVec 6) (csr : BitVec 12) (a d : BitVec 5) (fn : BitVec 4) :
    fld (packS op csr a d fn) 10 5 = d := by
  apply BitVec.eq_of_toNat_eq; rw [fld_toNat, packS, BitVec.toNat_ofNat]; omega

@[simp] theorem fld_packS_a (op : BitVec 6) (csr : BitVec 12) (a d : BitVec 5) (fn : BitVec 4) :
    fld (packS op csr a d fn) 15 5 = a := by
  apply BitVec.eq_of_toNat_eq; rw [fld_toNat, packS, BitVec.toNat_ofNat]; omega

@[simp] theorem fld_packS_csr (op : BitVec 6) (csr : BitVec 12) (a d : BitVec 5) (fn : BitVec 4) :
    fld (packS op csr a d fn) 20 12 = csr := by
  apply BitVec.eq_of_toNat_eq; rw [fld_toNat, packS, BitVec.toNat_ofNat]; omega

@[simp] theorem fld_packAR_aop (aop : BitVec 5) (imm : BitVec 12) (b a d : BitVec 3) :
    fld (packAR aop imm b a d) 6 5 = aop := by
  apply BitVec.eq_of_toNat_eq; rw [fld_toNat, packAR, BitVec.toNat_ofNat]; omega

@[simp] theorem fld_packAR_d (aop : BitVec 5) (imm : BitVec 12) (b a d : BitVec 3) :
    fld (packAR aop imm b a d) 11 3 = d := by
  apply BitVec.eq_of_toNat_eq; rw [fld_toNat, packAR, BitVec.toNat_ofNat]; omega

@[simp] theorem fld_packAR_a (aop : BitVec 5) (imm : BitVec 12) (b a d : BitVec 3) :
    fld (packAR aop imm b a d) 14 3 = a := by
  apply BitVec.eq_of_toNat_eq; rw [fld_toNat, packAR, BitVec.toNat_ofNat]; omega

@[simp] theorem fld_packAR_b (aop : BitVec 5) (imm : BitVec 12) (b a d : BitVec 3) :
    fld (packAR aop imm b a d) 17 3 = b := by
  apply BitVec.eq_of_toNat_eq; rw [fld_toNat, packAR, BitVec.toNat_ofNat]; omega

@[simp] theorem fld_packAR_imm (aop : BitVec 5) (imm : BitVec 12) (b a d : BitVec 3) :
    fld (packAR aop imm b a d) 20 12 = imm := by
  apply BitVec.eq_of_toNat_eq; rw [fld_toNat, packAR, BitVec.toNat_ofNat]; omega

@[simp] theorem fld_packAI_aop (aop : BitVec 5) (imm : BitVec 18) (d : BitVec 3) :
    fld (packAI aop imm d) 6 5 = aop := by
  apply BitVec.eq_of_toNat_eq; rw [fld_toNat, packAI, BitVec.toNat_ofNat]; omega

@[simp] theorem fld_packAI_d (aop : BitVec 5) (imm : BitVec 18) (d : BitVec 3) :
    fld (packAI aop imm d) 11 3 = d := by
  apply BitVec.eq_of_toNat_eq; rw [fld_toNat, packAI, BitVec.toNat_ofNat]; omega

@[simp] theorem fld_packAI_imm (aop : BitVec 5) (imm : BitVec 18) (d : BitVec 3) :
    fld (packAI aop imm d) 14 18 = imm := by
  apply BitVec.eq_of_toNat_eq; rw [fld_toNat, packAI, BitVec.toNat_ofNat]; omega

@[simp] theorem fld_packRR_31_1 (op fn : BitVec 6) (b a d m : BitVec 5) :
    fld (packRR op fn b a d m) 31 1 = fn.extractLsb' 5 1 := by
  apply BitVec.eq_of_toNat_eq
  rw [fld_toNat, packRR, BitVec.toNat_ofNat, BitVec.extractLsb'_toNat, Nat.shiftRight_eq_div_pow]; omega

@[simp] theorem fld_packRR_26_5 (op fn : BitVec 6) (b a d m : BitVec 5) :
    fld (packRR op fn b a d m) 26 5 = fn.extractLsb' 0 5 := by
  apply BitVec.eq_of_toNat_eq
  rw [fld_toNat, packRR, BitVec.toNat_ofNat, BitVec.extractLsb'_toNat, Nat.shiftRight_eq_div_pow]; omega

@[simp] theorem fld_packRR_27_5 (op fn : BitVec 6) (b a d m : BitVec 5) :
    fld (packRR op fn b a d m) 27 5 = fn.extractLsb' 1 5 := by
  apply BitVec.eq_of_toNat_eq
  rw [fld_toNat, packRR, BitVec.toNat_ofNat, BitVec.extractLsb'_toNat, Nat.shiftRight_eq_div_pow]; omega

@[simp] theorem fld_packRR_26_1 (op fn : BitVec 6) (b a d m : BitVec 5) :
    fld (packRR op fn b a d m) 26 1 = fn.extractLsb' 0 1 := by
  apply BitVec.eq_of_toNat_eq
  rw [fld_toNat, packRR, BitVec.toNat_ofNat, BitVec.extractLsb'_toNat, Nat.shiftRight_eq_div_pow]; omega

@[simp] theorem fld_packRR_6_3 (op fn : BitVec 6) (b a d m : BitVec 5) :
    fld (packRR op fn b a d m) 6 3 = m.extractLsb' 0 3 := by
  apply BitVec.eq_of_toNat_eq
  rw [fld_toNat, packRR, BitVec.toNat_ofNat, BitVec.extractLsb'_toNat, Nat.shiftRight_eq_div_pow]; omega

@[simp] theorem fld_packRR_9_1 (op fn : BitVec 6) (b a d m : BitVec 5) :
    fld (packRR op fn b a d m) 9 1 = m.extractLsb' 3 1 := by
  apply BitVec.eq_of_toNat_eq
  rw [fld_toNat, packRR, BitVec.toNat_ofNat, BitVec.extractLsb'_toNat, Nat.shiftRight_eq_div_pow]; omega

@[simp] theorem fld_packRR_10_1 (op fn : BitVec 6) (b a d m : BitVec 5) :
    fld (packRR op fn b a d m) 10 1 = m.extractLsb' 4 1 := by
  apply BitVec.eq_of_toNat_eq
  rw [fld_toNat, packRR, BitVec.toNat_ofNat, BitVec.extractLsb'_toNat, Nat.shiftRight_eq_div_pow]; omega

@[simp] theorem fld_packRR_6_4 (op fn : BitVec 6) (b a d m : BitVec 5) :
    fld (packRR op fn b a d m) 6 4 = m.extractLsb' 0 4 := by
  apply BitVec.eq_of_toNat_eq
  rw [fld_toNat, packRR, BitVec.toNat_ofNat, BitVec.extractLsb'_toNat, Nat.shiftRight_eq_div_pow]; omega

@[simp] theorem fld_packRR_9_2 (op fn : BitVec 6) (b a d m : BitVec 5) :
    fld (packRR op fn b a d m) 9 2 = m.extractLsb' 3 2 := by
  apply BitVec.eq_of_toNat_eq
  rw [fld_toNat, packRR, BitVec.toNat_ofNat, BitVec.extractLsb'_toNat, Nat.shiftRight_eq_div_pow]; omega

@[simp] theorem fld_packRR_16_3 (op fn : BitVec 6) (b a d m : BitVec 5) :
    fld (packRR op fn b a d m) 16 3 = a.extractLsb' 0 3 := by
  apply BitVec.eq_of_toNat_eq
  rw [fld_toNat, packRR, BitVec.toNat_ofNat, BitVec.extractLsb'_toNat, Nat.shiftRight_eq_div_pow]; omega

@[simp] theorem fld_packRR_19_2 (op fn : BitVec 6) (b a d m : BitVec 5) :
    fld (packRR op fn b a d m) 19 2 = a.extractLsb' 3 2 := by
  apply BitVec.eq_of_toNat_eq
  rw [fld_toNat, packRR, BitVec.toNat_ofNat, BitVec.extractLsb'_toNat, Nat.shiftRight_eq_div_pow]; omega

@[simp] theorem fld_packRR_21_2 (op fn : BitVec 6) (b a d m : BitVec 5) :
    fld (packRR op fn b a d m) 21 2 = b.extractLsb' 0 2 := by
  apply BitVec.eq_of_toNat_eq
  rw [fld_toNat, packRR, BitVec.toNat_ofNat, BitVec.extractLsb'_toNat, Nat.shiftRight_eq_div_pow]; omega

@[simp] theorem fld_packRR_23_3 (op fn : BitVec 6) (b a d m : BitVec 5) :
    fld (packRR op fn b a d m) 23 3 = b.extractLsb' 2 3 := by
  apply BitVec.eq_of_toNat_eq
  rw [fld_toNat, packRR, BitVec.toNat_ofNat, BitVec.extractLsb'_toNat, Nat.shiftRight_eq_div_pow]; omega

@[simp] theorem fld_packRR_21_3 (op fn : BitVec 6) (b a d m : BitVec 5) :
    fld (packRR op fn b a d m) 21 3 = b.extractLsb' 0 3 := by
  apply BitVec.eq_of_toNat_eq
  rw [fld_toNat, packRR, BitVec.toNat_ofNat, BitVec.extractLsb'_toNat, Nat.shiftRight_eq_div_pow]; omega

@[simp] theorem fld_packRR_24_2 (op fn : BitVec 6) (b a d m : BitVec 5) :
    fld (packRR op fn b a d m) 24 2 = b.extractLsb' 3 2 := by
  apply BitVec.eq_of_toNat_eq
  rw [fld_toNat, packRR, BitVec.toNat_ofNat, BitVec.extractLsb'_toNat, Nat.shiftRight_eq_div_pow]; omega

@[simp] theorem fld_packRI_22_2 (op : BitVec 6) (imm : BitVec 16) (a d : BitVec 5) :
    fld (packRI op imm a d) 22 2 = imm.extractLsb' 6 2 := by
  apply BitVec.eq_of_toNat_eq
  rw [fld_toNat, packRI, BitVec.toNat_ofNat, BitVec.extractLsb'_toNat, Nat.shiftRight_eq_div_pow]; omega

@[simp] theorem fld_packRI_24_8 (op : BitVec 6) (imm : BitVec 16) (a d : BitVec 5) :
    fld (packRI op imm a d) 24 8 = imm.extractLsb' 8 8 := by
  apply BitVec.eq_of_toNat_eq
  rw [fld_toNat, packRI, BitVec.toNat_ofNat, BitVec.extractLsb'_toNat, Nat.shiftRight_eq_div_pow]; omega

@[simp] theorem fld_packRI_16_6 (op : BitVec 6) (imm : BitVec 16) (a d : BitVec 5) :
    fld (packRI op imm a d) 16 6 = imm.extractLsb' 0 6 := by
  apply BitVec.eq_of_toNat_eq
  rw [fld_toNat, packRI, BitVec.toNat_ofNat, BitVec.extractLsb'_toNat, Nat.shiftRight_eq_div_pow]; omega

@[simp] theorem fld_packV_29_3 (op fn : BitVec 6) (b a d : BitVec 5) (k : BitVec 3) (form : BitVec 2) :
    fld (packV op fn b a d k form) 29 3 = fn.extractLsb' 3 3 := by
  apply BitVec.eq_of_toNat_eq
  rw [fld_toNat, packV, BitVec.toNat_ofNat, BitVec.extractLsb'_toNat, Nat.shiftRight_eq_div_pow]; omega

@[simp] theorem fld_packV_28_1 (op fn : BitVec 6) (b a d : BitVec 5) (k : BitVec 3) (form : BitVec 2) :
    fld (packV op fn b a d k form) 28 1 = fn.extractLsb' 2 1 := by
  apply BitVec.eq_of_toNat_eq
  rw [fld_toNat, packV, BitVec.toNat_ofNat, BitVec.extractLsb'_toNat, Nat.shiftRight_eq_div_pow]; omega

@[simp] theorem fld_packV_27_1 (op fn : BitVec 6) (b a d : BitVec 5) (k : BitVec 3) (form : BitVec 2) :
    fld (packV op fn b a d k form) 27 1 = fn.extractLsb' 1 1 := by
  apply BitVec.eq_of_toNat_eq
  rw [fld_toNat, packV, BitVec.toNat_ofNat, BitVec.extractLsb'_toNat, Nat.shiftRight_eq_div_pow]; omega

@[simp] theorem fld_packV_26_1 (op fn : BitVec 6) (b a d : BitVec 5) (k : BitVec 3) (form : BitVec 2) :
    fld (packV op fn b a d k form) 26 1 = fn.extractLsb' 0 1 := by
  apply BitVec.eq_of_toNat_eq
  rw [fld_toNat, packV, BitVec.toNat_ofNat, BitVec.extractLsb'_toNat, Nat.shiftRight_eq_div_pow]; omega

@[simp] theorem fld_packS_26_6 (op : BitVec 6) (csr : BitVec 12) (a d : BitVec 5) (fn : BitVec 4) :
    fld (packS op csr a d fn) 26 6 = csr.extractLsb' 6 6 := by
  apply BitVec.eq_of_toNat_eq
  rw [fld_toNat, packS, BitVec.toNat_ofNat, BitVec.extractLsb'_toNat, Nat.shiftRight_eq_div_pow]; omega

@[simp] theorem fld_packS_20_6 (op : BitVec 6) (csr : BitVec 12) (a d : BitVec 5) (fn : BitVec 4) :
    fld (packS op csr a d fn) 20 6 = csr.extractLsb' 0 6 := by
  apply BitVec.eq_of_toNat_eq
  rw [fld_toNat, packS, BitVec.toNat_ofNat, BitVec.extractLsb'_toNat, Nat.shiftRight_eq_div_pow]; omega

@[simp] theorem fld_packAR_20_3 (aop : BitVec 5) (imm : BitVec 12) (b a d : BitVec 3) :
    fld (packAR aop imm b a d) 20 3 = imm.extractLsb' 0 3 := by
  apply BitVec.eq_of_toNat_eq
  rw [fld_toNat, packAR, BitVec.toNat_ofNat, BitVec.extractLsb'_toNat, Nat.shiftRight_eq_div_pow]; omega

@[simp] theorem fld_packAR_23_9 (aop : BitVec 5) (imm : BitVec 12) (b a d : BitVec 3) :
    fld (packAR aop imm b a d) 23 9 = imm.extractLsb' 3 9 := by
  apply BitVec.eq_of_toNat_eq
  rw [fld_toNat, packAR, BitVec.toNat_ofNat, BitVec.extractLsb'_toNat, Nat.shiftRight_eq_div_pow]; omega

@[simp] theorem fld_packAR_22_1 (aop : BitVec 5) (imm : BitVec 12) (b a d : BitVec 3) :
    fld (packAR aop imm b a d) 22 1 = imm.extractLsb' 2 1 := by
  apply BitVec.eq_of_toNat_eq
  rw [fld_toNat, packAR, BitVec.toNat_ofNat, BitVec.extractLsb'_toNat, Nat.shiftRight_eq_div_pow]; omega

@[simp] theorem fld_packAR_20_2 (aop : BitVec 5) (imm : BitVec 12) (b a d : BitVec 3) :
    fld (packAR aop imm b a d) 20 2 = imm.extractLsb' 0 2 := by
  apply BitVec.eq_of_toNat_eq
  rw [fld_toNat, packAR, BitVec.toNat_ofNat, BitVec.extractLsb'_toNat, Nat.shiftRight_eq_div_pow]; omega

@[simp] theorem fld_packAR_21_11 (aop : BitVec 5) (imm : BitVec 12) (b a d : BitVec 3) :
    fld (packAR aop imm b a d) 21 11 = imm.extractLsb' 1 11 := by
  apply BitVec.eq_of_toNat_eq
  rw [fld_toNat, packAR, BitVec.toNat_ofNat, BitVec.extractLsb'_toNat, Nat.shiftRight_eq_div_pow]; omega

@[simp] theorem fld_packAR_22_10 (aop : BitVec 5) (imm : BitVec 12) (b a d : BitVec 3) :
    fld (packAR aop imm b a d) 22 10 = imm.extractLsb' 2 10 := by
  apply BitVec.eq_of_toNat_eq
  rw [fld_toNat, packAR, BitVec.toNat_ofNat, BitVec.extractLsb'_toNat, Nat.shiftRight_eq_div_pow]; omega

@[simp] theorem fld_packAR_26_5 (aop : BitVec 5) (imm : BitVec 12) (b a d : BitVec 3) :
    fld (packAR aop imm b a d) 26 5 = imm.extractLsb' 6 5 := by
  apply BitVec.eq_of_toNat_eq
  rw [fld_toNat, packAR, BitVec.toNat_ofNat, BitVec.extractLsb'_toNat, Nat.shiftRight_eq_div_pow]; omega

@[simp] theorem fld_packAR_20_6 (aop : BitVec 5) (imm : BitVec 12) (b a d : BitVec 3) :
    fld (packAR aop imm b a d) 20 6 = imm.extractLsb' 0 6 := by
  apply BitVec.eq_of_toNat_eq
  rw [fld_toNat, packAR, BitVec.toNat_ofNat, BitVec.extractLsb'_toNat, Nat.shiftRight_eq_div_pow]; omega

@[simp] theorem fld_packAR_31_1 (aop : BitVec 5) (imm : BitVec 12) (b a d : BitVec 3) :
    fld (packAR aop imm b a d) 31 1 = imm.extractLsb' 11 1 := by
  apply BitVec.eq_of_toNat_eq
  rw [fld_toNat, packAR, BitVec.toNat_ofNat, BitVec.extractLsb'_toNat, Nat.shiftRight_eq_div_pow]; omega

@[simp] theorem fld_packAR_20_1 (aop : BitVec 5) (imm : BitVec 12) (b a d : BitVec 3) :
    fld (packAR aop imm b a d) 20 1 = imm.extractLsb' 0 1 := by
  apply BitVec.eq_of_toNat_eq
  rw [fld_toNat, packAR, BitVec.toNat_ofNat, BitVec.extractLsb'_toNat, Nat.shiftRight_eq_div_pow]; omega

@[simp] theorem fld_packAR_op (aop : BitVec 5) (imm : BitVec 12) (b a d : BitVec 3) : fld (packAR aop imm b a d) 0 6 = 63 := by
  apply BitVec.eq_of_toNat_eq; rw [fld_toNat, packAR, BitVec.toNat_ofNat]
  simp only [BitVec.ofNat_eq_ofNat, BitVec.toNat_ofNat]; omega

@[simp] theorem fld_packAI_op (aop : BitVec 5) (imm : BitVec 18) (d : BitVec 3) : fld (packAI aop imm d) 0 6 = 63 := by
  apply BitVec.eq_of_toNat_eq; rw [fld_toNat, packAI, BitVec.toNat_ofNat]
  simp only [BitVec.ofNat_eq_ofNat, BitVec.toNat_ofNat]; omega

@[simp] theorem fld_packRR_zero_6_20 (op fn : BitVec 6) : fld (packRR op fn 0 0 0 0) 6 20 = 0 := by
  apply BitVec.eq_of_toNat_eq; rw [fld_toNat, packRR, BitVec.toNat_ofNat]
  simp only [BitVec.ofNat_eq_ofNat, BitVec.toNat_ofNat, Bool.toNat_true, Bool.toNat_false]; omega

@[simp] theorem fld_packRI_zero_6_10 (op : BitVec 6) (imm : BitVec 16) : fld (packRI op imm 0 0) 6 10 = 0 := by
  apply BitVec.eq_of_toNat_eq; rw [fld_toNat, packRI, BitVec.toNat_ofNat]
  simp only [BitVec.ofNat_eq_ofNat, BitVec.toNat_ofNat, Bool.toNat_true, Bool.toNat_false]; omega

@[simp] theorem fld_packS_zero_10_10 (op : BitVec 6) (csr : BitVec 12) (fn : BitVec 4) : fld (packS op csr 0 0 fn) 10 10 = 0 := by
  apply BitVec.eq_of_toNat_eq; rw [fld_toNat, packS, BitVec.toNat_ofNat]
  simp only [BitVec.ofNat_eq_ofNat, BitVec.toNat_ofNat, Bool.toNat_true, Bool.toNat_false]; omega

@[simp] theorem fld_packS_zero_10_22 (op : BitVec 6) (fn : BitVec 4) : fld (packS op 0 0 0 fn) 10 22 = 0 := by
  apply BitVec.eq_of_toNat_eq; rw [fld_toNat, packS, BitVec.toNat_ofNat]
  simp only [BitVec.ofNat_eq_ofNat, BitVec.toNat_ofNat, Bool.toNat_true, Bool.toNat_false]; omega

@[simp] theorem fld_packMX_zero_6_10 (op : BitVec 6) (fn : BitVec 5) (tb : Bool) (v fd : BitVec 5) : fld (packMX op fn tb v fd 0 0 0) 6 10 = 0 := by
  apply BitVec.eq_of_toNat_eq; rw [fld_toNat, packMX, BitVec.toNat_ofNat]
  cases tb <;> simp only [BitVec.ofNat_eq_ofNat, BitVec.toNat_ofNat, Bool.toNat_true, Bool.toNat_false] <;> omega

@[simp] theorem fld_packMX_zero_16_10 (op : BitVec 6) (fn : BitVec 5) (acc : BitVec 3) : fld (packMX op fn false 0 0 acc 0 0) 16 10 = 0 := by
  apply BitVec.eq_of_toNat_eq; rw [fld_toNat, packMX, BitVec.toNat_ofNat]
  simp only [BitVec.ofNat_eq_ofNat, BitVec.toNat_ofNat, Bool.toNat_true, Bool.toNat_false]; omega

@[simp] theorem fld_packMX_zero_6_7 (op : BitVec 6) (fn : BitVec 5) (acc : BitVec 3) : fld (packMX op fn false 0 0 acc 0 0) 6 7 = 0 := by
  apply BitVec.eq_of_toNat_eq; rw [fld_toNat, packMX, BitVec.toNat_ofNat]
  simp only [BitVec.ofNat_eq_ofNat, BitVec.toNat_ofNat, Bool.toNat_true, Bool.toNat_false]; omega

@[simp] theorem fld_packMX_zero_6_20 (op : BitVec 6) (fn : BitVec 5) (tb : Bool) : fld (packMX op fn tb 0 0 0 0 0) 6 20 = 0 := by
  apply BitVec.eq_of_toNat_eq; rw [fld_toNat, packMX, BitVec.toNat_ofNat]
  cases tb <;> simp only [BitVec.ofNat_eq_ofNat, BitVec.toNat_ofNat, Bool.toNat_true, Bool.toNat_false] <;> omega

@[simp] theorem fld_packAR_zero_11_21 (aop : BitVec 5) : fld (packAR aop 0 0 0 0) 11 21 = 0 := by
  apply BitVec.eq_of_toNat_eq; rw [fld_toNat, packAR, BitVec.toNat_ofNat]
  simp only [BitVec.ofNat_eq_ofNat, BitVec.toNat_ofNat, Bool.toNat_true, Bool.toNat_false]; omega

@[simp] theorem fld_packAR_zero_11_9 (aop : BitVec 5) (imm : BitVec 12) : fld (packAR aop imm 0 0 0) 11 9 = 0 := by
  apply BitVec.eq_of_toNat_eq; rw [fld_toNat, packAR, BitVec.toNat_ofNat]
  simp only [BitVec.ofNat_eq_ofNat, BitVec.toNat_ofNat, Bool.toNat_true, Bool.toNat_false]; omega

@[simp] theorem fld_packMX_tb (op : BitVec 6) (fn : BitVec 5) (tb : Bool) (v fd : BitVec 5) (acc : BitVec 3)
    (row : BitVec 6) (form : BitVec 1) :
    fld (packMX op fn tb v fd acc row form) 26 1 = BitVec.ofBool tb := by
  apply BitVec.eq_of_toNat_eq; rw [fld_toNat, packMX, BitVec.toNat_ofNat]
  cases tb <;> simp only [Bool.toNat_true, Bool.toNat_false, BitVec.ofBool_true, BitVec.ofBool_false, BitVec.ofNat_eq_ofNat, BitVec.toNat_ofNat] <;> omega

/-- Three bits of a 5-bit field. -/
theorem lo3_wide3 (r : BitVec 3) : lo3 (wide3 r) = r := by revert r; decide
/-- A 3-bit number in a 5-bit field is below 8. -/
theorem below8_wide3 (r : BitVec 3) : below8 (wide3 r) = true := by revert r; decide

/-- A mask destination in a 5-bit field is nonzero when it is not k0. -/
theorem wide3_ne (r : BitVec 3) : (wide3 r != 0) = (r != 0) := by revert r; decide
/-- The row operand from its form and field. -/
theorem rowOf_row (r : Row) : rowOf r.form r.field = some r := by
  cases r with
  | const r => rfl
  | reg r => revert r; decide
/-- The second source from its form and field. -/
theorem vsrcOf_src (b : VSrc) : vsrcOf b.form b.field = b := by cases b <;> rfl
theorem isInt_form (b : VSrc) : (b.form != 3) = b.isInt := by cases b <;> rfl
theorem isFp_form (b : VSrc) : (b.form == 0 || b.form == 3) = b.isFp := by cases b <;> rfl
theorem isCopy_form (b : VSrc) : (b.form == 0 || b.form == 1) = b.isCopy := by cases b <;> rfl
theorem isShift_form (b : VSrc) : (b.isInt && !(b.form == 2 && b.field.msb)) = b.isShift := by
  cases b <;> rfl
/-- A checked instruction, once its check holds. -/
theorem rsv_true {ok : Bool} {i : Instr} (h : ok = true) : rsv ok i = .ok i := by rw [h]; rfl
/-- A checked advice word, once its checks hold. -/
theorem arsv_true {sel ok : Bool} {i : Instr} (h : sel = true) (h' : ok = true) : arsv sel ok i = .ok i := by
  rw [h, h']; rfl
theorem esz_lo0 (c : BitVec 2) : (BitVec.ofNat 12 (c.toNat + 4 * false.toNat)).extractLsb' 0 2 = c := by revert c; decide
theorem esz_lo1 (c : BitVec 2) : (BitVec.ofNat 12 (c.toNat + 4 * true.toNat)).extractLsb' 0 2 = c := by revert c; decide
theorem esz_mid0 (c : BitVec 2) : (BitVec.ofNat 12 (c.toNat + 4 * false.toNat)).extractLsb' 2 1 = 0 := by revert c; decide
theorem esz_mid1 (c : BitVec 2) : (BitVec.ofNat 12 (c.toNat + 4 * true.toNat)).extractLsb' 2 1 = 1 := by revert c; decide
theorem esz_hi0 (c : BitVec 2) : (BitVec.ofNat 12 (c.toNat + 4 * false.toNat)).extractLsb' 3 9 = 0 := by revert c; decide
theorem esz_hi1 (c : BitVec 2) : (BitVec.ofNat 12 (c.toNat + 4 * true.toNat)).extractLsb' 3 9 = 0 := by revert c; decide
theorem shift_hi0 (c : BitVec 6) : (BitVec.ofNat 16 (c.toNat + 0)).extractLsb' 6 2 = 0 := by revert c; decide
theorem shift_hi1 (c : BitVec 6) : (BitVec.ofNat 16 (c.toNat + 64)).extractLsb' 6 2 = 1 := by revert c; decide
theorem shift_hi2 (c : BitVec 6) : (BitVec.ofNat 16 (c.toNat + 128)).extractLsb' 6 2 = 2 := by revert c; decide
theorem shift_lo0 (c : BitVec 6) : (BitVec.ofNat 16 (c.toNat + 0)).extractLsb' 0 6 = c := by revert c; decide
theorem shift_lo1 (c : BitVec 6) : (BitVec.ofNat 16 (c.toNat + 64)).extractLsb' 0 6 = c := by revert c; decide
theorem shift_lo2 (c : BitVec 6) : (BitVec.ofNat 16 (c.toNat + 128)).extractLsb' 0 6 = c := by revert c; decide
theorem shift_0 (c : BitVec 6) : (BitVec.ofNat 16 (c.toNat + 0)).extractLsb' 8 8 = 0 := by revert c; decide
theorem shift_1 (c : BitVec 6) : (BitVec.ofNat 16 (c.toNat + 64)).extractLsb' 8 8 = 0 := by revert c; decide
theorem shift_2 (c : BitVec 6) : (BitVec.ofNat 16 (c.toNat + 128)).extractLsb' 8 8 = 0 := by revert c; decide
theorem bar_lo (n : BitVec 4) : (n.setWidth 5).extractLsb' 0 4 = n := by revert n; decide
theorem bar_hi (n : BitVec 4) : (n.setWidth 5).extractLsb' 4 1 = 0 := by revert n; decide
theorem call_hi (n : BitVec 6) : (n.setWidth 12).extractLsb' 6 6 = 0 := by revert n; decide
theorem call_lo (n : BitVec 6) : (n.setWidth 12).extractLsb' 0 6 = n := by revert n; decide
theorem cpy_e0 (e : BitVec 5) : (BitVec.ofNat 6 (2 * e.toNat)).extractLsb' 1 5 = e := by revert e; decide
theorem cpy_e1 (e : BitVec 5) : (BitVec.ofNat 6 (2 * e.toNat + 1)).extractLsb' 1 5 = e := by revert e; decide
theorem cpy_v0 (e : BitVec 5) : (BitVec.ofNat 6 (2 * e.toNat)).extractLsb' 0 1 = 0 := by revert e; decide
theorem cpy_v1 (e : BitVec 5) : (BitVec.ofNat 6 (2 * e.toNat + 1)).extractLsb' 0 1 = 1 := by revert e; decide
theorem slot6_lo (c : BitVec 6) : (c.setWidth 12).extractLsb' 0 6 = c := call_lo c
theorem slot6_mid (c : BitVec 6) : (c.setWidth 12).extractLsb' 6 5 = 0 := by revert c; decide
theorem slot6_top (c : BitVec 6) : (c.setWidth 12).extractLsb' 11 1 = 0 := by revert c; decide
theorem slot6_lo2 (c : BitVec 6) : (BitVec.ofNat 12 (c.toNat + 2048)).extractLsb' 0 6 = c := by revert c; decide
theorem slot6_mid2 (c : BitVec 6) : (BitVec.ofNat 12 (c.toNat + 2048)).extractLsb' 6 5 = 0 := by revert c; decide
theorem slot6_top2 (c : BitVec 6) : (BitVec.ofNat 12 (c.toNat + 2048)).extractLsb' 11 1 = 1 := by revert c; decide
theorem hint_lo (c : BitVec 2) : (c.setWidth 12).extractLsb' 0 2 = c := by revert c; decide
theorem hint_hi (c : BitVec 2) : (c.setWidth 12).extractLsb' 2 10 = 0 := by revert c; decide
theorem hint3_lo (c : BitVec 3) : (c.setWidth 12).extractLsb' 0 3 = c := by revert c; decide
theorem hint3_hi (c : BitVec 3) : (c.setWidth 12).extractLsb' 3 9 = 0 := by revert c; decide

/-- The row of a packed MX word. -/
theorem withRow_pack (op : BitVec 6) (fn : BitVec 5) (tb : Bool) (v fd : BitVec 5) (acc : BitVec 3)
    (r : Row) (ok : Bool) (f : Row → Instr) :
    withRow (packMX op fn tb v fd acc r.field r.form) ok f = rsv ok (f r) := by
  rw [withRow, fld_packMX_form, fld_packMX_row, rowOf_row]

/-! The decoder's arm for each allocated major (R218). -/

theorem decode_01 (w : IWord) (h : major w = 0x1) : decode w = decodeInt w := by
  unfold decode; rw [h]; rfl

theorem decode_02 (w : IWord) (h : major w = 0x2) : decode w = .ok (.addi (riD w) (riA w) (riImm w)) := by
  unfold decode; rw [h]; rfl

theorem decode_03 (w : IWord) (h : major w = 0x3) : decode w = .ok (.andi (riD w) (riA w) (riImm w)) := by
  unfold decode; rw [h]; rfl

theorem decode_04 (w : IWord) (h : major w = 0x4) : decode w = .ok (.ori (riD w) (riA w) (riImm w)) := by
  unfold decode; rw [h]; rfl

theorem decode_05 (w : IWord) (h : major w = 0x5) : decode w = .ok (.xori (riD w) (riA w) (riImm w)) := by
  unfold decode; rw [h]; rfl

theorem decode_06 (w : IWord) (h : major w = 0x6) : decode w = .ok (.slti (riD w) (riA w) (riImm w)) := by
  unfold decode; rw [h]; rfl

theorem decode_07 (w : IWord) (h : major w = 0x7) : decode w = .ok (.sltiu (riD w) (riA w) (riImm w)) := by
  unfold decode; rw [h]; rfl

theorem decode_08 (w : IWord) (h : major w = 0x8) : decode w = rsv (riA w == 0) (.lui (riD w) (riImm w)) := by
  unfold decode; rw [h]; rfl

theorem decode_09 (w : IWord) (h : major w = 0x9) : decode w = decodeShi w := by
  unfold decode; rw [h]; rfl

theorem decode_0a (w : IWord) (h : major w = 0xa) : decode w = decodeVamoC w := by
  unfold decode; rw [h]; rfl

theorem decode_0b (w : IWord) (h : major w = 0xb) : decode w = decodeVamoD w := by
  unfold decode; rw [h]; rfl

theorem decode_0c (w : IWord) (h : major w = 0xc) : decode w = decodeVamoV w := by
  unfold decode; rw [h]; rfl

theorem decode_0d (w : IWord) (h : major w = 0xd) : decode w = decodeVamoX w := by
  unfold decode; rw [h]; rfl

theorem decode_0e (w : IWord) (h : major w = 0xe) : decode w = decodeVwait w := by
  unfold decode; rw [h]; rfl

theorem decode_10 (w : IWord) (h : major w = 0x10) : decode w = .ok (.ldB (riD w) (riA w) (riImm w)) := by
  unfold decode; rw [h]; rfl

theorem decode_11 (w : IWord) (h : major w = 0x11) : decode w = .ok (.ldH (riD w) (riA w) (riImm w)) := by
  unfold decode; rw [h]; rfl

theorem decode_12 (w : IWord) (h : major w = 0x12) : decode w = .ok (.ldW (riD w) (riA w) (riImm w)) := by
  unfold decode; rw [h]; rfl

theorem decode_13 (w : IWord) (h : major w = 0x13) : decode w = .ok (.ldD (riD w) (riA w) (riImm w)) := by
  unfold decode; rw [h]; rfl

theorem decode_14 (w : IWord) (h : major w = 0x14) : decode w = .ok (.ldWNc (riD w) (riA w) (riImm w)) := by
  unfold decode; rw [h]; rfl

theorem decode_15 (w : IWord) (h : major w = 0x15) : decode w = .ok (.ldDNc (riD w) (riA w) (riImm w)) := by
  unfold decode; rw [h]; rfl

theorem decode_16 (w : IWord) (h : major w = 0x16) : decode w = .ok (.stB (riD w) (riA w) (riImm w)) := by
  unfold decode; rw [h]; rfl

theorem decode_17 (w : IWord) (h : major w = 0x17) : decode w = .ok (.stH (riD w) (riA w) (riImm w)) := by
  unfold decode; rw [h]; rfl

theorem decode_18 (w : IWord) (h : major w = 0x18) : decode w = .ok (.stW (riD w) (riA w) (riImm w)) := by
  unfold decode; rw [h]; rfl

theorem decode_19 (w : IWord) (h : major w = 0x19) : decode w = .ok (.stD (riD w) (riA w) (riImm w)) := by
  unfold decode; rw [h]; rfl

theorem decode_1a (w : IWord) (h : major w = 0x1a) : decode w = .ok (.fldS (riD w) (riA w) (riImm w)) := by
  unfold decode; rw [h]; rfl

theorem decode_1b (w : IWord) (h : major w = 0x1b) : decode w = .ok (.fldD (riD w) (riA w) (riImm w)) := by
  unfold decode; rw [h]; rfl

theorem decode_1c (w : IWord) (h : major w = 0x1c) : decode w = .ok (.fstS (riD w) (riA w) (riImm w)) := by
  unfold decode; rw [h]; rfl

theorem decode_1d (w : IWord) (h : major w = 0x1d) : decode w = .ok (.fstD (riD w) (riA w) (riImm w)) := by
  unfold decode; rw [h]; rfl

theorem decode_20 (w : IWord) (h : major w = 0x20) : decode w = .ok (.beq (riA w) (riD w) (riImm w)) := by
  unfold decode; rw [h]; rfl

theorem decode_21 (w : IWord) (h : major w = 0x21) : decode w = .ok (.bne (riA w) (riD w) (riImm w)) := by
  unfold decode; rw [h]; rfl

theorem decode_22 (w : IWord) (h : major w = 0x22) : decode w = .ok (.blt (riA w) (riD w) (riImm w)) := by
  unfold decode; rw [h]; rfl

theorem decode_23 (w : IWord) (h : major w = 0x23) : decode w = .ok (.bge (riA w) (riD w) (riImm w)) := by
  unfold decode; rw [h]; rfl

theorem decode_24 (w : IWord) (h : major w = 0x24) : decode w = .ok (.bltu (riA w) (riD w) (riImm w)) := by
  unfold decode; rw [h]; rfl

theorem decode_25 (w : IWord) (h : major w = 0x25) : decode w = .ok (.bgeu (riA w) (riD w) (riImm w)) := by
  unfold decode; rw [h]; rfl

theorem decode_26 (w : IWord) (h : major w = 0x26) : decode w = .ok (.j (fld w 6 26)) := by
  unfold decode; rw [h]; rfl

theorem decode_27 (w : IWord) (h : major w = 0x27) : decode w = .ok (.jal (fld w 6 26)) := by
  unfold decode; rw [h]; rfl

theorem decode_28 (w : IWord) (h : major w = 0x28) : decode w = decodeAmo w := by
  unfold decode; rw [h]; rfl

theorem decode_29 (w : IWord) (h : major w = 0x29) : decode w = decodeSync w := by
  unfold decode; rw [h]; rfl

theorem decode_2a (w : IWord) (h : major w = 0x2a) : decode w = decodeFp w := by
  unfold decode; rw [h]; rfl

theorem decode_2b (w : IWord) (h : major w = 0x2b) : decode w = decodeSys w := by
  unfold decode; rw [h]; rfl

theorem decode_2c (w : IWord) (h : major w = 0x2c) : decode w = rsv (fld w 6 10 == 0) (.setvt (riImm w)) := by
  unfold decode; rw [h]; rfl

theorem decode_2d (w : IWord) (h : major w = 0x2d) : decode w = decodeVcfg w := by
  unfold decode; rw [h]; rfl

theorem decode_2e (w : IWord) (h : major w = 0x2e) : decode w = decodeVint w := by
  unfold decode; rw [h]; rfl

theorem decode_2f (w : IWord) (h : major w = 0x2f) : decode w = decodeVfp w := by
  unfold decode; rw [h]; rfl

theorem decode_30 (w : IWord) (h : major w = 0x30) : decode w = decodeVcmp w := by
  unfold decode; rw [h]; rfl

theorem decode_31 (w : IWord) (h : major w = 0x31) : decode w = decodeVperm w := by
  unfold decode; rw [h]; rfl

theorem decode_32 (w : IWord) (h : major w = 0x32) : decode w = decodeVnar w := by
  unfold decode; rw [h]; rfl

theorem decode_33 (w : IWord) (h : major w = 0x33) : decode w = decodeVatt w := by
  unfold decode; rw [h]; rfl

theorem decode_34 (w : IWord) (h : major w = 0x34) : decode w = decodeVld w := by
  unfold decode; rw [h]; rfl

theorem decode_35 (w : IWord) (h : major w = 0x35) : decode w = decodeVst w := by
  unfold decode; rw [h]; rfl

theorem decode_36 (w : IWord) (h : major w = 0x36) : decode w = decodeSqv w := by
  unfold decode; rw [h]; rfl

theorem decode_37 (w : IWord) (h : major w = 0x37) : decode w = decodeMat w := by
  unfold decode; rw [h]; rfl

theorem decode_38 (w : IWord) (h : major w = 0x38) : decode w = decodeCpy w := by
  unfold decode; rw [h]; rfl

theorem decode_39 (w : IWord) (h : major w = 0x39) : decode w = decodeCpyx w := by
  unfold decode; rw [h]; rfl

theorem decode_3a (w : IWord) (h : major w = 0x3a) : decode w = decodeSeq w := by
  unfold decode; rw [h]; rfl

theorem decode_3b (w : IWord) (h : major w = 0x3b) : decode w = decodeSched w := by
  unfold decode; rw [h]; rfl

/-- The fields of a vwait word (R221). -/
def packVwait (any : Nat) (kd : KReg) (xs va ve : Reg) (k : KReg) (sc : BitVec 2) : IWord :=
  BitVec.ofNat 32 (0x0E + 256 * k.toNat + 2048 * ve.toNat + 65536 * xs.toNat + 2097152 * va.toNat
    + 67108864 * sc.toNat + 268435456 * kd.toNat + 2147483648 * any)

theorem fld_packVwait_k (any : Nat) (ha : any < 2) (kd : KReg) (xs va ve : Reg) (k : KReg) (sc : BitVec 2) :
    fld (packVwait any kd xs va ve k sc) 8 3 = k := by
  apply BitVec.eq_of_toNat_eq; rw [fld_toNat, packVwait, BitVec.toNat_ofNat]; omega

theorem fld_packVwait_ve (any : Nat) (ha : any < 2) (kd : KReg) (xs va ve : Reg) (k : KReg) (sc : BitVec 2) :
    fld (packVwait any kd xs va ve k sc) 11 5 = ve := by
  apply BitVec.eq_of_toNat_eq; rw [fld_toNat, packVwait, BitVec.toNat_ofNat]; omega

theorem fld_packVwait_xs (any : Nat) (ha : any < 2) (kd : KReg) (xs va ve : Reg) (k : KReg) (sc : BitVec 2) :
    fld (packVwait any kd xs va ve k sc) 16 5 = xs := by
  apply BitVec.eq_of_toNat_eq; rw [fld_toNat, packVwait, BitVec.toNat_ofNat]; omega

theorem fld_packVwait_va (any : Nat) (ha : any < 2) (kd : KReg) (xs va ve : Reg) (k : KReg) (sc : BitVec 2) :
    fld (packVwait any kd xs va ve k sc) 21 5 = va := by
  apply BitVec.eq_of_toNat_eq; rw [fld_toNat, packVwait, BitVec.toNat_ofNat]; omega

theorem fld_packVwait_sc (any : Nat) (ha : any < 2) (kd : KReg) (xs va ve : Reg) (k : KReg) (sc : BitVec 2) :
    fld (packVwait any kd xs va ve k sc) 26 2 = sc := by
  apply BitVec.eq_of_toNat_eq; rw [fld_toNat, packVwait, BitVec.toNat_ofNat]; omega

theorem fld_packVwait_kd (any : Nat) (ha : any < 2) (kd : KReg) (xs va ve : Reg) (k : KReg) (sc : BitVec 2) :
    fld (packVwait any kd xs va ve k sc) 28 3 = kd := by
  apply BitVec.eq_of_toNat_eq; rw [fld_toNat, packVwait, BitVec.toNat_ofNat]; omega

theorem fld_packVwait_op (any : Nat) (ha : any < 2) (kd : KReg) (xs va ve : Reg) (k : KReg) (sc : BitVec 2) :
    major (packVwait any kd xs va ve k sc) = 0xe := by
  rw [major, fld_toNat, packVwait, BitVec.toNat_ofNat]; omega

theorem fld_packVwait_any (any : Nat) (ha : any < 2) (kd : KReg) (xs va ve : Reg) (k : KReg) (sc : BitVec 2) :
    fld (packVwait any kd xs va ve k sc) 31 1 = BitVec.ofNat 1 any := by
  apply BitVec.eq_of_toNat_eq
  rw [fld_toNat, packVwait, BitVec.toNat_ofNat, BitVec.toNat_ofNat]; omega

theorem fld_packVwait_zero (any : Nat) (ha : any < 2) (kd : KReg) (xs va ve : Reg) (k : KReg) (sc : BitVec 2) :
    fld (packVwait any kd xs va ve k sc) 6 2 = 0 := by
  apply BitVec.eq_of_toNat_eq
  rw [fld_toNat, packVwait, BitVec.toNat_ofNat]; simp only [BitVec.ofNat_eq_ofNat, BitVec.toNat_ofNat]; omega

/-- The word of vwait.all decodes to it (R221). -/
theorem decode_vwaitAll (kd : KReg) (xs va ve : Reg) (k : KReg) (sc : BitVec 2) (h : (kd != 0) = true) :
    decode (packVwait 0 kd xs va ve k sc) = .ok (.vwaitAll kd xs va ve k sc) := by
  rw [decode_0e _ (fld_packVwait_op 0 (by decide) ..), decodeVwait]
  simp only [fld_packVwait_k 0 (by decide), fld_packVwait_ve 0 (by decide), fld_packVwait_xs 0 (by decide),
    fld_packVwait_va 0 (by decide), fld_packVwait_sc 0 (by decide), fld_packVwait_kd 0 (by decide),
    fld_packVwait_any 0 (by decide), fld_packVwait_zero 0 (by decide), h]
  rfl

/-- The word of vwait.any decodes to it (R221). -/
theorem decode_vwaitAny (kd : KReg) (xs va ve : Reg) (k : KReg) (sc : BitVec 2) (h : (kd != 0) = true) :
    decode (packVwait 1 kd xs va ve k sc) = .ok (.vwaitAny kd xs va ve k sc) := by
  rw [decode_0e _ (fld_packVwait_op 1 (by decide) ..), decodeVwait]
  simp only [fld_packVwait_k 1 (by decide), fld_packVwait_ve 1 (by decide), fld_packVwait_xs 1 (by decide),
    fld_packVwait_va 1 (by decide), fld_packVwait_sc 1 (by decide), fld_packVwait_kd 1 (by decide),
    fld_packVwait_any 1 (by decide), fld_packVwait_zero 1 (by decide), h]
  rfl


end Sys2Proof
end

