-- ==== Sys2Proof/Laws/Exec.lean ====
section
/-! SUPPORT. Each arm of `exec`, as an equation: a proof about an instruction starts from its meaning
and never unfolds the dispatcher. -/

namespace Sys2Proof.Machine

@[simp] theorem exec_add (d : Reg) (a : Reg) (b : Reg) (s : State) :
    exec (.add d a b) s = execAdd d a b s := rfl
@[simp] theorem exec_sub (d : Reg) (a : Reg) (b : Reg) (s : State) :
    exec (.sub d a b) s = execSub d a b s := rfl
@[simp] theorem exec_and (d : Reg) (a : Reg) (b : Reg) (s : State) :
    exec (.and d a b) s = execAnd d a b s := rfl
@[simp] theorem exec_or (d : Reg) (a : Reg) (b : Reg) (s : State) : exec (.or d a b) s = execOr d a b s := rfl
@[simp] theorem exec_xor (d : Reg) (a : Reg) (b : Reg) (s : State) :
    exec (.xor d a b) s = execXor d a b s := rfl
@[simp] theorem exec_sll (d : Reg) (a : Reg) (b : Reg) (s : State) :
    exec (.sll d a b) s = execSll d a b s := rfl
@[simp] theorem exec_srl (d : Reg) (a : Reg) (b : Reg) (s : State) :
    exec (.srl d a b) s = execSrl d a b s := rfl
@[simp] theorem exec_sra (d : Reg) (a : Reg) (b : Reg) (s : State) :
    exec (.sra d a b) s = execSra d a b s := rfl
@[simp] theorem exec_slt (d : Reg) (a : Reg) (b : Reg) (s : State) :
    exec (.slt d a b) s = execSlt d a b s := rfl
@[simp] theorem exec_sltu (d : Reg) (a : Reg) (b : Reg) (s : State) :
    exec (.sltu d a b) s = execSltu d a b s := rfl
@[simp] theorem exec_mul (d : Reg) (a : Reg) (b : Reg) (s : State) :
    exec (.mul d a b) s = execMul d a b s := rfl
@[simp] theorem exec_mulh (d : Reg) (a : Reg) (b : Reg) (s : State) :
    exec (.mulh d a b) s = execMulh d a b s := rfl
@[simp] theorem exec_mulhu (d : Reg) (a : Reg) (b : Reg) (s : State) :
    exec (.mulhu d a b) s = execMulhu d a b s := rfl
@[simp] theorem exec_div (d : Reg) (a : Reg) (b : Reg) (s : State) :
    exec (.div d a b) s = execDiv d a b s := rfl
@[simp] theorem exec_divu (d : Reg) (a : Reg) (b : Reg) (s : State) :
    exec (.divu d a b) s = execDivu d a b s := rfl
@[simp] theorem exec_rem (d : Reg) (a : Reg) (b : Reg) (s : State) :
    exec (.rem d a b) s = execRem d a b s := rfl
@[simp] theorem exec_remu (d : Reg) (a : Reg) (b : Reg) (s : State) :
    exec (.remu d a b) s = execRemu d a b s := rfl
@[simp] theorem exec_min (d : Reg) (a : Reg) (b : Reg) (s : State) :
    exec (.min d a b) s = execMin d a b s := rfl
@[simp] theorem exec_max (d : Reg) (a : Reg) (b : Reg) (s : State) :
    exec (.max d a b) s = execMax d a b s := rfl
@[simp] theorem exec_minu (d : Reg) (a : Reg) (b : Reg) (s : State) :
    exec (.minu d a b) s = execMinu d a b s := rfl
@[simp] theorem exec_maxu (d : Reg) (a : Reg) (b : Reg) (s : State) :
    exec (.maxu d a b) s = execMaxu d a b s := rfl
@[simp] theorem exec_clz (d : Reg) (a : Reg) (s : State) : exec (.clz d a) s = execClz d a s := rfl
@[simp] theorem exec_ctz (d : Reg) (a : Reg) (s : State) : exec (.ctz d a) s = execCtz d a s := rfl
@[simp] theorem exec_popc (d : Reg) (a : Reg) (s : State) : exec (.popc d a) s = execPopc d a s := rfl
@[simp] theorem exec_jalr (d : Reg) (a : Reg) (s : State) : exec (.jalr d a) s = execJalr d a s := rfl
@[simp] theorem exec_addi (d : Reg) (a : Reg) (c : BitVec 16) (s : State) :
    exec (.addi d a c) s = execAddi d a c s := rfl
@[simp] theorem exec_andi (d : Reg) (a : Reg) (c : BitVec 16) (s : State) :
    exec (.andi d a c) s = execAndi d a c s := rfl
@[simp] theorem exec_ori (d : Reg) (a : Reg) (c : BitVec 16) (s : State) :
    exec (.ori d a c) s = execOri d a c s := rfl
@[simp] theorem exec_xori (d : Reg) (a : Reg) (c : BitVec 16) (s : State) :
    exec (.xori d a c) s = execXori d a c s := rfl
@[simp] theorem exec_slti (d : Reg) (a : Reg) (c : BitVec 16) (s : State) :
    exec (.slti d a c) s = execSlti d a c s := rfl
@[simp] theorem exec_sltiu (d : Reg) (a : Reg) (c : BitVec 16) (s : State) :
    exec (.sltiu d a c) s = execSltiu d a c s := rfl
@[simp] theorem exec_lui (d : Reg) (c : BitVec 16) (s : State) : exec (.lui d c) s = execLui d c s := rfl
@[simp] theorem exec_slli (d : Reg) (a : Reg) (c : BitVec 6) (s : State) :
    exec (.slli d a c) s = execSlli d a c s := rfl
@[simp] theorem exec_srli (d : Reg) (a : Reg) (c : BitVec 6) (s : State) :
    exec (.srli d a c) s = execSrli d a c s := rfl
@[simp] theorem exec_srai (d : Reg) (a : Reg) (c : BitVec 6) (s : State) :
    exec (.srai d a c) s = execSrai d a c s := rfl
@[simp] theorem exec_ldB (d : Reg) (a : Reg) (c : BitVec 16) (s : State) :
    exec (.ldB d a c) s = execLdB d a c s := rfl
@[simp] theorem exec_ldH (d : Reg) (a : Reg) (c : BitVec 16) (s : State) :
    exec (.ldH d a c) s = execLdH d a c s := rfl
@[simp] theorem exec_ldW (d : Reg) (a : Reg) (c : BitVec 16) (s : State) :
    exec (.ldW d a c) s = execLdW d a c s := rfl
@[simp] theorem exec_ldD (d : Reg) (a : Reg) (c : BitVec 16) (s : State) :
    exec (.ldD d a c) s = execLdD d a c s := rfl
@[simp] theorem exec_ldWNc (d : Reg) (a : Reg) (c : BitVec 16) (s : State) :
    exec (.ldWNc d a c) s = execLdWNc d a c s := rfl
@[simp] theorem exec_ldDNc (d : Reg) (a : Reg) (c : BitVec 16) (s : State) :
    exec (.ldDNc d a c) s = execLdDNc d a c s := rfl
@[simp] theorem exec_stB (d : Reg) (a : Reg) (c : BitVec 16) (s : State) :
    exec (.stB d a c) s = execStB d a c s := rfl
@[simp] theorem exec_stH (d : Reg) (a : Reg) (c : BitVec 16) (s : State) :
    exec (.stH d a c) s = execStH d a c s := rfl
@[simp] theorem exec_stW (d : Reg) (a : Reg) (c : BitVec 16) (s : State) :
    exec (.stW d a c) s = execStW d a c s := rfl
@[simp] theorem exec_stD (d : Reg) (a : Reg) (c : BitVec 16) (s : State) :
    exec (.stD d a c) s = execStD d a c s := rfl
@[simp] theorem exec_fldS (d : Reg) (a : Reg) (c : BitVec 16) (s : State) :
    exec (.fldS d a c) s = execFldS d a c s := rfl
@[simp] theorem exec_fldD (d : Reg) (a : Reg) (c : BitVec 16) (s : State) :
    exec (.fldD d a c) s = execFldD d a c s := rfl
@[simp] theorem exec_fstS (d : Reg) (a : Reg) (c : BitVec 16) (s : State) :
    exec (.fstS d a c) s = execFstS d a c s := rfl
@[simp] theorem exec_fstD (d : Reg) (a : Reg) (c : BitVec 16) (s : State) :
    exec (.fstD d a c) s = execFstD d a c s := rfl
@[simp] theorem exec_beq (a : Reg) (b : Reg) (off : BitVec 16) (s : State) :
    exec (.beq a b off) s = execBeq a b off s := rfl
@[simp] theorem exec_bne (a : Reg) (b : Reg) (off : BitVec 16) (s : State) :
    exec (.bne a b off) s = execBne a b off s := rfl
@[simp] theorem exec_blt (a : Reg) (b : Reg) (off : BitVec 16) (s : State) :
    exec (.blt a b off) s = execBlt a b off s := rfl
@[simp] theorem exec_bge (a : Reg) (b : Reg) (off : BitVec 16) (s : State) :
    exec (.bge a b off) s = execBge a b off s := rfl
@[simp] theorem exec_bltu (a : Reg) (b : Reg) (off : BitVec 16) (s : State) :
    exec (.bltu a b off) s = execBltu a b off s := rfl
@[simp] theorem exec_bgeu (a : Reg) (b : Reg) (off : BitVec 16) (s : State) :
    exec (.bgeu a b off) s = execBgeu a b off s := rfl
@[simp] theorem exec_j (off : BitVec 26) (s : State) : exec (.j off) s = execJ off s := rfl
@[simp] theorem exec_jal (off : BitVec 26) (s : State) : exec (.jal off) s = execJal off s := rfl
@[simp] theorem exec_amoswap (d : Reg) (a : Reg) (b : Reg) (dbl : Bool) (aq : Bool) (rl : Bool) (sc : Scope) (s : State) :
    exec (.amoswap d a b dbl aq rl sc) s = execAmoswap d a b dbl aq rl sc s := rfl
@[simp] theorem exec_amocas (d : Reg) (a : Reg) (b : Reg) (dbl : Bool) (aq : Bool) (rl : Bool) (sc : Scope) (s : State) :
    exec (.amocas d a b dbl aq rl sc) s = execAmocas d a b dbl aq rl sc s := rfl
@[simp] theorem exec_amoadd (d : Reg) (a : Reg) (b : Reg) (dbl : Bool) (aq : Bool) (rl : Bool) (sc : Scope) (s : State) :
    exec (.amoadd d a b dbl aq rl sc) s = execAmoadd d a b dbl aq rl sc s := rfl
@[simp] theorem exec_amoand (d : Reg) (a : Reg) (b : Reg) (dbl : Bool) (aq : Bool) (rl : Bool) (sc : Scope) (s : State) :
    exec (.amoand d a b dbl aq rl sc) s = execAmoand d a b dbl aq rl sc s := rfl
@[simp] theorem exec_amoor (d : Reg) (a : Reg) (b : Reg) (dbl : Bool) (aq : Bool) (rl : Bool) (sc : Scope) (s : State) :
    exec (.amoor d a b dbl aq rl sc) s = execAmoor d a b dbl aq rl sc s := rfl
@[simp] theorem exec_amoxor (d : Reg) (a : Reg) (b : Reg) (dbl : Bool) (aq : Bool) (rl : Bool) (sc : Scope) (s : State) :
    exec (.amoxor d a b dbl aq rl sc) s = execAmoxor d a b dbl aq rl sc s := rfl
@[simp] theorem exec_fence (o : FenceOrder) (sc : Scope) (s : State) :
    exec (.fence o sc) s = execFence o sc s := rfl
@[simp] theorem exec_fenceP (p : Path) (q : Path) (sc : Scope) (s : State) :
    exec (.fenceP p q sc) s = execFenceP p q sc s := rfl
@[simp] theorem exec_waitaEq (d : Reg) (a : Reg) (b : Reg) (w32 : Bool) (sc : Scope) (s : State) :
    exec (.waitaEq d a b w32 sc) s = execWaitaEq d a b w32 sc s := rfl
@[simp] theorem exec_waitaNe (d : Reg) (a : Reg) (b : Reg) (w32 : Bool) (sc : Scope) (s : State) :
    exec (.waitaNe d a b w32 sc) s = execWaitaNe d a b w32 sc s := rfl
@[simp] theorem exec_waitaLt (d : Reg) (a : Reg) (b : Reg) (w32 : Bool) (sc : Scope) (s : State) :
    exec (.waitaLt d a b w32 sc) s = execWaitaLt d a b w32 sc s := rfl
@[simp] theorem exec_waitaGe (d : Reg) (a : Reg) (b : Reg) (w32 : Bool) (sc : Scope) (s : State) :
    exec (.waitaGe d a b w32 sc) s = execWaitaGe d a b w32 sc s := rfl
@[simp] theorem exec_waitaLtu (d : Reg) (a : Reg) (b : Reg) (w32 : Bool) (sc : Scope) (s : State) :
    exec (.waitaLtu d a b w32 sc) s = execWaitaLtu d a b w32 sc s := rfl
@[simp] theorem exec_waitaGeu (d : Reg) (a : Reg) (b : Reg) (w32 : Bool) (sc : Scope) (s : State) :
    exec (.waitaGeu d a b w32 sc) s = execWaitaGeu d a b w32 sc s := rfl
@[simp] theorem exec_barArrive (n : BitVec 4) (s : State) : exec (.barArrive n) s = execBarArrive n s := rfl
@[simp] theorem exec_barWait (n : BitVec 4) (s : State) : exec (.barWait n) s = execBarWait n s := rfl
@[simp] theorem exec_fadd (d : Reg) (a : Reg) (b : Reg) (dbl : Bool) (s : State) :
    exec (.fadd d a b dbl) s = execFadd d a b dbl s := rfl
@[simp] theorem exec_fsub (d : Reg) (a : Reg) (b : Reg) (dbl : Bool) (s : State) :
    exec (.fsub d a b dbl) s = execFsub d a b dbl s := rfl
@[simp] theorem exec_fmul (d : Reg) (a : Reg) (b : Reg) (dbl : Bool) (s : State) :
    exec (.fmul d a b dbl) s = execFmul d a b dbl s := rfl
@[simp] theorem exec_fdiv (d : Reg) (a : Reg) (b : Reg) (dbl : Bool) (s : State) :
    exec (.fdiv d a b dbl) s = execFdiv d a b dbl s := rfl
@[simp] theorem exec_fsqrt (d : Reg) (a : Reg) (dbl : Bool) (s : State) :
    exec (.fsqrt d a dbl) s = execFsqrt d a dbl s := rfl
@[simp] theorem exec_fma (d : Reg) (a : Reg) (b : Reg) (c : Reg) (dbl : Bool) (s : State) :
    exec (.fma d a b c dbl) s = execFma d a b c dbl s := rfl
@[simp] theorem exec_fmin (d : Reg) (a : Reg) (b : Reg) (dbl : Bool) (s : State) :
    exec (.fmin d a b dbl) s = execFmin d a b dbl s := rfl
@[simp] theorem exec_fmax (d : Reg) (a : Reg) (b : Reg) (dbl : Bool) (s : State) :
    exec (.fmax d a b dbl) s = execFmax d a b dbl s := rfl
@[simp] theorem exec_feq (d : Reg) (a : Reg) (b : Reg) (dbl : Bool) (s : State) :
    exec (.feq d a b dbl) s = execFeq d a b dbl s := rfl
@[simp] theorem exec_flt (d : Reg) (a : Reg) (b : Reg) (dbl : Bool) (s : State) :
    exec (.flt d a b dbl) s = execFlt d a b dbl s := rfl
@[simp] theorem exec_fle (d : Reg) (a : Reg) (b : Reg) (dbl : Bool) (s : State) :
    exec (.fle d a b dbl) s = execFle d a b dbl s := rfl
@[simp] theorem exec_fcvtFX (d : Reg) (a : Reg) (dbl : Bool) (s : State) :
    exec (.fcvtFX d a dbl) s = execFcvtFX d a dbl s := rfl
@[simp] theorem exec_fcvtXF (d : Reg) (a : Reg) (dbl : Bool) (s : State) :
    exec (.fcvtXF d a dbl) s = execFcvtXF d a dbl s := rfl
@[simp] theorem exec_fmvFX (d : Reg) (a : Reg) (dbl : Bool) (s : State) :
    exec (.fmvFX d a dbl) s = execFmvFX d a dbl s := rfl
@[simp] theorem exec_fmvXF (d : Reg) (a : Reg) (dbl : Bool) (s : State) :
    exec (.fmvXF d a dbl) s = execFmvXF d a dbl s := rfl
@[simp] theorem exec_fsgnj (d : Reg) (a : Reg) (b : Reg) (dbl : Bool) (s : State) :
    exec (.fsgnj d a b dbl) s = execFsgnj d a b dbl s := rfl
@[simp] theorem exec_cread (d : Reg) (csr : BitVec 12) (s : State) :
    exec (.cread d csr) s = execCread d csr s := rfl
@[simp] theorem exec_cwrite (csr : BitVec 12) (a : Reg) (s : State) :
    exec (.cwrite csr a) s = execCwrite csr a s := rfl
@[simp] theorem exec_cbset (csr : BitVec 12) (a : Reg) (s : State) :
    exec (.cbset csr a) s = execCbset csr a s := rfl
@[simp] theorem exec_cbclr (csr : BitVec 12) (a : Reg) (s : State) :
    exec (.cbclr csr a) s = execCbclr csr a s := rfl
@[simp] theorem exec_syscall (n : BitVec 6) (s : State) : exec (.syscall n) s = execSyscall n s := rfl
@[simp] theorem exec_brk (n : BitVec 6) (s : State) : exec (.brk n) s = execBrk n s := rfl
@[simp] theorem exec_tret (s : State) : exec (.tret) s = execTret s := rfl
@[simp] theorem exec_wfi (s : State) : exec (.wfi) s = execWfi s := rfl
@[simp] theorem exec_tfenceS (a : Reg) (s : State) : exec (.tfenceS a) s = execTfenceS a s := rfl
@[simp] theorem exec_tfenceV (a : Reg) (s : State) : exec (.tfenceV a) s = execTfenceV a s := rfl
@[simp] theorem exec_setvt (imm : BitVec 16) (s : State) : exec (.setvt imm) s = execSetvt imm s := rfl
@[simp] theorem exec_setvl (d : Reg) (a : Reg) (s : State) : exec (.setvl d a) s = execSetvl d a s := rfl
@[simp] theorem exec_claim (d : Reg) (a : Reg) (b : Reg) (s : State) :
    exec (.claim d a b) s = execClaim d a b s := rfl
@[simp] theorem exec_vpidx (d : Reg) (a : Reg) (s : State) : exec (.vpidx d a) s = execVpidx d a s := rfl
@[simp] theorem exec_vadd (d : Reg) (a : Reg) (b : VSrc) (k : KReg) (s : State) :
    exec (.vadd d a b k) s = execVadd d a b k s := rfl
@[simp] theorem exec_vsub (d : Reg) (a : Reg) (b : VSrc) (k : KReg) (s : State) :
    exec (.vsub d a b k) s = execVsub d a b k s := rfl
@[simp] theorem exec_vmul (d : Reg) (a : Reg) (b : VSrc) (k : KReg) (s : State) :
    exec (.vmul d a b k) s = execVmul d a b k s := rfl
@[simp] theorem exec_vmulh (d : Reg) (a : Reg) (b : VSrc) (k : KReg) (s : State) :
    exec (.vmulh d a b k) s = execVmulh d a b k s := rfl
@[simp] theorem exec_vdiv (d : Reg) (a : Reg) (b : VSrc) (k : KReg) (s : State) :
    exec (.vdiv d a b k) s = execVdiv d a b k s := rfl
@[simp] theorem exec_vrem (d : Reg) (a : Reg) (b : VSrc) (k : KReg) (s : State) :
    exec (.vrem d a b k) s = execVrem d a b k s := rfl
@[simp] theorem exec_vand (d : Reg) (a : Reg) (b : VSrc) (k : KReg) (s : State) :
    exec (.vand d a b k) s = execVand d a b k s := rfl
@[simp] theorem exec_vor (d : Reg) (a : Reg) (b : VSrc) (k : KReg) (s : State) :
    exec (.vor d a b k) s = execVor d a b k s := rfl
@[simp] theorem exec_vxor (d : Reg) (a : Reg) (b : VSrc) (k : KReg) (s : State) :
    exec (.vxor d a b k) s = execVxor d a b k s := rfl
@[simp] theorem exec_vsll (d : Reg) (a : Reg) (b : VSrc) (k : KReg) (s : State) :
    exec (.vsll d a b k) s = execVsll d a b k s := rfl
@[simp] theorem exec_vsrl (d : Reg) (a : Reg) (b : VSrc) (k : KReg) (s : State) :
    exec (.vsrl d a b k) s = execVsrl d a b k s := rfl
@[simp] theorem exec_vsra (d : Reg) (a : Reg) (b : VSrc) (k : KReg) (s : State) :
    exec (.vsra d a b k) s = execVsra d a b k s := rfl
@[simp] theorem exec_vmin (d : Reg) (a : Reg) (b : VSrc) (k : KReg) (s : State) :
    exec (.vmin d a b k) s = execVmin d a b k s := rfl
@[simp] theorem exec_vmax (d : Reg) (a : Reg) (b : VSrc) (k : KReg) (s : State) :
    exec (.vmax d a b k) s = execVmax d a b k s := rfl
@[simp] theorem exec_vsadd (d : Reg) (a : Reg) (b : VSrc) (k : KReg) (s : State) :
    exec (.vsadd d a b k) s = execVsadd d a b k s := rfl
@[simp] theorem exec_vssub (d : Reg) (a : Reg) (b : VSrc) (k : KReg) (s : State) :
    exec (.vssub d a b k) s = execVssub d a b k s := rfl
@[simp] theorem exec_vmerge (d : Reg) (a : Reg) (b : VSrc) (k : KReg) (s : State) :
    exec (.vmerge d a b k) s = execVmerge d a b k s := rfl
@[simp] theorem exec_vmv (d : Reg) (a : Reg) (k : KReg) (s : State) :
    exec (.vmv d a k) s = execVmv d a k s := rfl
@[simp] theorem exec_vfadd (d : Reg) (a : Reg) (b : VSrc) (k : KReg) (s : State) :
    exec (.vfadd d a b k) s = execVfadd d a b k s := rfl
@[simp] theorem exec_vfsub (d : Reg) (a : Reg) (b : VSrc) (k : KReg) (s : State) :
    exec (.vfsub d a b k) s = execVfsub d a b k s := rfl
@[simp] theorem exec_vfmul (d : Reg) (a : Reg) (b : VSrc) (k : KReg) (s : State) :
    exec (.vfmul d a b k) s = execVfmul d a b k s := rfl
@[simp] theorem exec_vfdiv (d : Reg) (a : Reg) (b : VSrc) (k : KReg) (s : State) :
    exec (.vfdiv d a b k) s = execVfdiv d a b k s := rfl
@[simp] theorem exec_vfma (d : Reg) (a : Reg) (b : VSrc) (k : KReg) (s : State) :
    exec (.vfma d a b k) s = execVfma d a b k s := rfl
@[simp] theorem exec_vfms (d : Reg) (a : Reg) (b : VSrc) (k : KReg) (s : State) :
    exec (.vfms d a b k) s = execVfms d a b k s := rfl
@[simp] theorem exec_vfnma (d : Reg) (a : Reg) (b : VSrc) (k : KReg) (s : State) :
    exec (.vfnma d a b k) s = execVfnma d a b k s := rfl
@[simp] theorem exec_vfmin (d : Reg) (a : Reg) (b : VSrc) (k : KReg) (s : State) :
    exec (.vfmin d a b k) s = execVfmin d a b k s := rfl
@[simp] theorem exec_vfmax (d : Reg) (a : Reg) (b : VSrc) (k : KReg) (s : State) :
    exec (.vfmax d a b k) s = execVfmax d a b k s := rfl
@[simp] theorem exec_vfsqrt (d : Reg) (a : Reg) (k : KReg) (s : State) :
    exec (.vfsqrt d a k) s = execVfsqrt d a k s := rfl
@[simp] theorem exec_vfrsqrt (d : Reg) (a : Reg) (k : KReg) (s : State) :
    exec (.vfrsqrt d a k) s = execVfrsqrt d a k s := rfl
@[simp] theorem exec_vfexp (d : Reg) (a : Reg) (k : KReg) (s : State) :
    exec (.vfexp d a k) s = execVfexp d a k s := rfl
@[simp] theorem exec_vfsgnj (d : Reg) (a : Reg) (b : VSrc) (k : KReg) (s : State) :
    exec (.vfsgnj d a b k) s = execVfsgnj d a b k s := rfl
@[simp] theorem exec_vfcvtXF (d : Reg) (a : Reg) (k : KReg) (s : State) :
    exec (.vfcvtXF d a k) s = execVfcvtXF d a k s := rfl
@[simp] theorem exec_vfcvtFX (d : Reg) (a : Reg) (k : KReg) (s : State) :
    exec (.vfcvtFX d a k) s = execVfcvtFX d a k s := rfl
@[simp] theorem exec_vfclass (d : Reg) (a : Reg) (k : KReg) (s : State) :
    exec (.vfclass d a k) s = execVfclass d a k s := rfl
@[simp] theorem exec_vcmpEq (kd : KReg) (a : Reg) (b : VSrc) (k : KReg) (s : State) :
    exec (.vcmpEq kd a b k) s = execVcmpEq kd a b k s := rfl
@[simp] theorem exec_vcmpNe (kd : KReg) (a : Reg) (b : VSrc) (k : KReg) (s : State) :
    exec (.vcmpNe kd a b k) s = execVcmpNe kd a b k s := rfl
@[simp] theorem exec_vcmpLt (kd : KReg) (a : Reg) (b : VSrc) (k : KReg) (s : State) :
    exec (.vcmpLt kd a b k) s = execVcmpLt kd a b k s := rfl
@[simp] theorem exec_vcmpLe (kd : KReg) (a : Reg) (b : VSrc) (k : KReg) (s : State) :
    exec (.vcmpLe kd a b k) s = execVcmpLe kd a b k s := rfl
@[simp] theorem exec_vcmpGt (kd : KReg) (a : Reg) (b : VSrc) (k : KReg) (s : State) :
    exec (.vcmpGt kd a b k) s = execVcmpGt kd a b k s := rfl
@[simp] theorem exec_vcmpGe (kd : KReg) (a : Reg) (b : VSrc) (k : KReg) (s : State) :
    exec (.vcmpGe kd a b k) s = execVcmpGe kd a b k s := rfl
@[simp] theorem exec_kand (kd : KReg) (ka : KReg) (kb : KReg) (s : State) :
    exec (.kand kd ka kb) s = execKand kd ka kb s := rfl
@[simp] theorem exec_kor (kd : KReg) (ka : KReg) (kb : KReg) (s : State) :
    exec (.kor kd ka kb) s = execKor kd ka kb s := rfl
@[simp] theorem exec_kxor (kd : KReg) (ka : KReg) (kb : KReg) (s : State) :
    exec (.kxor kd ka kb) s = execKxor kd ka kb s := rfl
@[simp] theorem exec_knot (kd : KReg) (ka : KReg) (s : State) : exec (.knot kd ka) s = execKnot kd ka s := rfl
@[simp] theorem exec_kany (d : Reg) (ka : KReg) (s : State) : exec (.kany d ka) s = execKany d ka s := rfl
@[simp] theorem exec_kall (d : Reg) (ka : KReg) (s : State) : exec (.kall d ka) s = execKall d ka s := rfl
@[simp] theorem exec_kcount (d : Reg) (ka : KReg) (s : State) :
    exec (.kcount d ka) s = execKcount d ka s := rfl
@[simp] theorem exec_vshup (d : Reg) (a : Reg) (b : VSrc) (k : KReg) (s : State) :
    exec (.vshup d a b k) s = execVshup d a b k s := rfl
@[simp] theorem exec_vshdn (d : Reg) (a : Reg) (b : VSrc) (k : KReg) (s : State) :
    exec (.vshdn d a b k) s = execVshdn d a b k s := rfl
@[simp] theorem exec_vpick (d : Reg) (a : Reg) (b : Reg) (k : KReg) (s : State) :
    exec (.vpick d a b k) s = execVpick d a b k s := rfl
@[simp] theorem exec_vcondense (d : Reg) (a : Reg) (k : KReg) (s : State) :
    exec (.vcondense d a k) s = execVcondense d a k s := rfl
@[simp] theorem exec_vrev (d : Reg) (a : Reg) (k : KReg) (s : State) :
    exec (.vrev d a k) s = execVrev d a k s := rfl
@[simp] theorem exec_vbcast (d : Reg) (a : Reg) (b : VSrc) (k : KReg) (s : State) :
    exec (.vbcast d a b k) s = execVbcast d a b k s := rfl
@[simp] theorem exec_vinsx (d : Reg) (a : Reg) (b : VSrc) (k : KReg) (s : State) :
    exec (.vinsx d a b k) s = execVinsx d a b k s := rfl
@[simp] theorem exec_vextx (d : Reg) (a : Reg) (b : Reg) (s : State) :
    exec (.vextx d a b) s = execVextx d a b s := rfl
@[simp] theorem exec_vredsumO (d : Reg) (a : Reg) (b : Reg) (k : KReg) (s : State) :
    exec (.vredsumO d a b k) s = execVredsumO d a b k s := rfl
@[simp] theorem exec_vredsum (d : Reg) (a : Reg) (b : Reg) (k : KReg) (s : State) :
    exec (.vredsum d a b k) s = execVredsum d a b k s := rfl
@[simp] theorem exec_vredmax (d : Reg) (a : Reg) (b : Reg) (k : KReg) (s : State) :
    exec (.vredmax d a b k) s = execVredmax d a b k s := rfl
@[simp] theorem exec_vredmin (d : Reg) (a : Reg) (b : Reg) (k : KReg) (s : State) :
    exec (.vredmin d a b k) s = execVredmin d a b k s := rfl
@[simp] theorem exec_vsegredO (d : Reg) (a : Reg) (b : Reg) (k : KReg) (s : State) :
    exec (.vsegredO d a b k) s = execVsegredO d a b k s := rfl
@[simp] theorem exec_vscanO (d : Reg) (a : Reg) (b : Reg) (k : KReg) (s : State) :
    exec (.vscanO d a b k) s = execVscanO d a b k s := rfl
@[simp] theorem exec_vscan (d : Reg) (a : Reg) (b : Reg) (k : KReg) (s : State) :
    exec (.vscan d a b k) s = execVscan d a b k s := rfl
@[simp] theorem exec_vscanmax (d : Reg) (a : Reg) (b : Reg) (k : KReg) (s : State) :
    exec (.vscanmax d a b k) s = execVscanmax d a b k s := rfl
@[simp] theorem exec_vdot16 (d : Reg) (a : Reg) (b : Reg) (fd : Reg) (k : KReg) (s : State) :
    exec (.vdot16 d a b fd k) s = execVdot16 d a b fd k s := rfl
@[simp] theorem exec_vquant (d : Reg) (a : Reg) (fd : Reg) (k : KReg) (s : State) :
    exec (.vquant d a fd k) s = execVquant d a fd k s := rfl
@[simp] theorem exec_vdeq (d : Reg) (a : Reg) (fd : Reg) (k : KReg) (s : State) :
    exec (.vdeq d a fd k) s = execVdeq d a fd k s := rfl
@[simp] theorem exec_vbpack (d : Reg) (a : Reg) (fd : Reg) (k : KReg) (s : State) :
    exec (.vbpack d a fd k) s = execVbpack d a fd k s := rfl
@[simp] theorem exec_vbunpack (d : Reg) (a : Reg) (fd : Reg) (k : KReg) (s : State) :
    exec (.vbunpack d a fd k) s = execVbunpack d a fd k s := rfl
@[simp] theorem exec_vcvt (d : Reg) (a : Reg) (fd : Reg) (k : KReg) (s : State) :
    exec (.vcvt d a fd k) s = execVcvt d a fd k s := rfl
@[simp] theorem exec_vscore (a : Reg) (xb : Reg) (k : KReg) (s : State) :
    exec (.vscore a xb k) s = execVscore a xb k s := rfl
@[simp] theorem exec_vexpm (s : State) : exec (.vexpm) s = execVexpm s := rfl
@[simp] theorem exec_vaccv (d : Reg) (xb : Reg) (s : State) : exec (.vaccv d xb) s = execVaccv d xb s := rfl
@[simp] theorem exec_vsegmax (d : Reg) (s : State) : exec (.vsegmax d) s = execVsegmax d s := rfl
@[simp] theorem exec_vsegsum (d : Reg) (ks : KReg) (s : State) :
    exec (.vsegsum d ks) s = execVsegsum d ks s := rfl
@[simp] theorem exec_vbound (d : Reg) (a : Reg) (xb : Reg) (k : KReg) (s : State) :
    exec (.vbound d a xb k) s = execVbound d a xb k s := rfl
@[simp] theorem exec_vtopk (d : Reg) (a : Reg) (xb : Reg) (k : KReg) (s : State) :
    exec (.vtopk d a xb k) s = execVtopk d a xb k s := rfl
@[simp] theorem exec_vrand (d : Reg) (xa : Reg) (xb : Reg) (k : KReg) (s : State) :
    exec (.vrand d xa xb k) s = execVrand d xa xb k s := rfl
@[simp] theorem exec_vsamp (d : Reg) (a : Reg) (b : Reg) (k : KReg) (s : State) :
    exec (.vsamp d a b k) s = execVsamp d a b k s := rfl
@[simp] theorem exec_vargmax (d : Reg) (a : Reg) (k : KReg) (s : State) :
    exec (.vargmax d a k) s = execVargmax d a k s := rfl
@[simp] theorem exec_vspeck (d : Reg) (a : Reg) (b : Reg) (k : KReg) (s : State) :
    exec (.vspeck d a b k) s = execVspeck d a b k s := rfl
@[simp] theorem exec_vld (d : Reg) (base : Reg) (k : KReg) (h : Hint) (s : State) :
    exec (.vld d base k h) s = execVld d base k h s := rfl
@[simp] theorem exec_vlds (d : Reg) (base : Reg) (stride : Reg) (k : KReg) (h : Hint) (s : State) :
    exec (.vlds d base stride k h) s = execVlds d base stride k h s := rfl
@[simp] theorem exec_vldx (d : Reg) (base : Reg) (idx : Reg) (k : KReg) (h : Hint) (s : State) :
    exec (.vldx d base idx k h) s = execVldx d base idx k h s := rfl
@[simp] theorem exec_vldp (d : Reg) (base : Reg) (h : Hint) (s : State) :
    exec (.vldp d base h) s = execVldp d base h s := rfl
@[simp] theorem exec_vldNc (d : Reg) (base : Reg) (k : KReg) (s : State) :
    exec (.vldNc d base k) s = execVldNc d base k s := rfl
@[simp] theorem exec_vldsNc (d : Reg) (base : Reg) (stride : Reg) (k : KReg) (s : State) :
    exec (.vldsNc d base stride k) s = execVldsNc d base stride k s := rfl
@[simp] theorem exec_vldxNc (d : Reg) (base : Reg) (idx : Reg) (k : KReg) (s : State) :
    exec (.vldxNc d base idx k) s = execVldxNc d base idx k s := rfl
@[simp] theorem exec_vst (d : Reg) (base : Reg) (k : KReg) (h : Hint) (s : State) :
    exec (.vst d base k h) s = execVst d base k h s := rfl
@[simp] theorem exec_vsts (d : Reg) (base : Reg) (stride : Reg) (k : KReg) (h : Hint) (s : State) :
    exec (.vsts d base stride k h) s = execVsts d base stride k h s := rfl
@[simp] theorem exec_vstx (d : Reg) (base : Reg) (idx : Reg) (k : KReg) (h : Hint) (s : State) :
    exec (.vstx d base idx k h) s = execVstx d base idx k h s := rfl
@[simp] theorem exec_vstxO (d : Reg) (base : Reg) (idx : Reg) (k : KReg) (h : Hint) (s : State) :
    exec (.vstxO d base idx k h) s = execVstxO d base idx k h s := rfl
@[simp] theorem exec_vstxAdd (d : Reg) (base : Reg) (idx : Reg) (k : KReg) (h : Hint) (s : State) :
    exec (.vstxAdd d base idx k h) s = execVstxAdd d base idx k h s := rfl
@[simp] theorem exec_sqst (d : Reg) (h : SqReg) (first : Reg) (k : KReg) (s : State) :
    exec (.sqst d h first k) s = execSqst d h first k s := rfl
@[simp] theorem exec_sqld (d : Reg) (kd : KReg) (h : SqReg) (first : Reg) (s : State) :
    exec (.sqld d kd h first) s = execSqld d kd h first s := rfl
@[simp] theorem exec_vamoaddC (d : Reg) (base : Reg) (idx : Reg) (k : KReg) (h : Hint) (aq : Bool) (rl : Bool) (o : Bool) (s : State) :
    exec (.vamoaddC d base idx k h aq rl o) s = execVamoaddC d base idx k h aq rl o s := rfl
@[simp] theorem exec_vamoaddD (d : Reg) (base : Reg) (idx : Reg) (k : KReg) (h : Hint) (aq : Bool) (rl : Bool) (o : Bool) (s : State) :
    exec (.vamoaddD d base idx k h aq rl o) s = execVamoaddD d base idx k h aq rl o s := rfl
@[simp] theorem exec_vamoaddV (d : Reg) (base : Reg) (idx : Reg) (k : KReg) (h : Hint) (aq : Bool) (rl : Bool) (o : Bool) (s : State) :
    exec (.vamoaddV d base idx k h aq rl o) s = execVamoaddV d base idx k h aq rl o s := rfl
@[simp] theorem exec_vamoaddX (d : Reg) (base : Reg) (idx : Reg) (k : KReg) (h : Hint) (aq : Bool) (rl : Bool) (o : Bool) (s : State) :
    exec (.vamoaddX d base idx k h aq rl o) s = execVamoaddX d base idx k h aq rl o s := rfl
@[simp] theorem exec_vamoandC (d : Reg) (base : Reg) (idx : Reg) (k : KReg) (h : Hint) (aq : Bool) (rl : Bool) (o : Bool) (s : State) :
    exec (.vamoandC d base idx k h aq rl o) s = execVamoandC d base idx k h aq rl o s := rfl
@[simp] theorem exec_vamoandD (d : Reg) (base : Reg) (idx : Reg) (k : KReg) (h : Hint) (aq : Bool) (rl : Bool) (o : Bool) (s : State) :
    exec (.vamoandD d base idx k h aq rl o) s = execVamoandD d base idx k h aq rl o s := rfl
@[simp] theorem exec_vamoandV (d : Reg) (base : Reg) (idx : Reg) (k : KReg) (h : Hint) (aq : Bool) (rl : Bool) (o : Bool) (s : State) :
    exec (.vamoandV d base idx k h aq rl o) s = execVamoandV d base idx k h aq rl o s := rfl
@[simp] theorem exec_vamoandX (d : Reg) (base : Reg) (idx : Reg) (k : KReg) (h : Hint) (aq : Bool) (rl : Bool) (o : Bool) (s : State) :
    exec (.vamoandX d base idx k h aq rl o) s = execVamoandX d base idx k h aq rl o s := rfl
@[simp] theorem exec_vamoorC (d : Reg) (base : Reg) (idx : Reg) (k : KReg) (h : Hint) (aq : Bool) (rl : Bool) (o : Bool) (s : State) :
    exec (.vamoorC d base idx k h aq rl o) s = execVamoorC d base idx k h aq rl o s := rfl
@[simp] theorem exec_vamoorD (d : Reg) (base : Reg) (idx : Reg) (k : KReg) (h : Hint) (aq : Bool) (rl : Bool) (o : Bool) (s : State) :
    exec (.vamoorD d base idx k h aq rl o) s = execVamoorD d base idx k h aq rl o s := rfl
@[simp] theorem exec_vamoorV (d : Reg) (base : Reg) (idx : Reg) (k : KReg) (h : Hint) (aq : Bool) (rl : Bool) (o : Bool) (s : State) :
    exec (.vamoorV d base idx k h aq rl o) s = execVamoorV d base idx k h aq rl o s := rfl
@[simp] theorem exec_vamoorX (d : Reg) (base : Reg) (idx : Reg) (k : KReg) (h : Hint) (aq : Bool) (rl : Bool) (o : Bool) (s : State) :
    exec (.vamoorX d base idx k h aq rl o) s = execVamoorX d base idx k h aq rl o s := rfl
@[simp] theorem exec_vamoxorC (d : Reg) (base : Reg) (idx : Reg) (k : KReg) (h : Hint) (aq : Bool) (rl : Bool) (o : Bool) (s : State) :
    exec (.vamoxorC d base idx k h aq rl o) s = execVamoxorC d base idx k h aq rl o s := rfl
@[simp] theorem exec_vamoxorD (d : Reg) (base : Reg) (idx : Reg) (k : KReg) (h : Hint) (aq : Bool) (rl : Bool) (o : Bool) (s : State) :
    exec (.vamoxorD d base idx k h aq rl o) s = execVamoxorD d base idx k h aq rl o s := rfl
@[simp] theorem exec_vamoxorV (d : Reg) (base : Reg) (idx : Reg) (k : KReg) (h : Hint) (aq : Bool) (rl : Bool) (o : Bool) (s : State) :
    exec (.vamoxorV d base idx k h aq rl o) s = execVamoxorV d base idx k h aq rl o s := rfl
@[simp] theorem exec_vamoxorX (d : Reg) (base : Reg) (idx : Reg) (k : KReg) (h : Hint) (aq : Bool) (rl : Bool) (o : Bool) (s : State) :
    exec (.vamoxorX d base idx k h aq rl o) s = execVamoxorX d base idx k h aq rl o s := rfl
@[simp] theorem exec_vamomaxC (d : Reg) (base : Reg) (idx : Reg) (k : KReg) (h : Hint) (aq : Bool) (rl : Bool) (o : Bool) (s : State) :
    exec (.vamomaxC d base idx k h aq rl o) s = execVamomaxC d base idx k h aq rl o s := rfl
@[simp] theorem exec_vamomaxD (d : Reg) (base : Reg) (idx : Reg) (k : KReg) (h : Hint) (aq : Bool) (rl : Bool) (o : Bool) (s : State) :
    exec (.vamomaxD d base idx k h aq rl o) s = execVamomaxD d base idx k h aq rl o s := rfl
@[simp] theorem exec_vamomaxV (d : Reg) (base : Reg) (idx : Reg) (k : KReg) (h : Hint) (aq : Bool) (rl : Bool) (o : Bool) (s : State) :
    exec (.vamomaxV d base idx k h aq rl o) s = execVamomaxV d base idx k h aq rl o s := rfl
@[simp] theorem exec_vamomaxX (d : Reg) (base : Reg) (idx : Reg) (k : KReg) (h : Hint) (aq : Bool) (rl : Bool) (o : Bool) (s : State) :
    exec (.vamomaxX d base idx k h aq rl o) s = execVamomaxX d base idx k h aq rl o s := rfl
@[simp] theorem exec_vamominC (d : Reg) (base : Reg) (idx : Reg) (k : KReg) (h : Hint) (aq : Bool) (rl : Bool) (o : Bool) (s : State) :
    exec (.vamominC d base idx k h aq rl o) s = execVamominC d base idx k h aq rl o s := rfl
@[simp] theorem exec_vamominD (d : Reg) (base : Reg) (idx : Reg) (k : KReg) (h : Hint) (aq : Bool) (rl : Bool) (o : Bool) (s : State) :
    exec (.vamominD d base idx k h aq rl o) s = execVamominD d base idx k h aq rl o s := rfl
@[simp] theorem exec_vamominV (d : Reg) (base : Reg) (idx : Reg) (k : KReg) (h : Hint) (aq : Bool) (rl : Bool) (o : Bool) (s : State) :
    exec (.vamominV d base idx k h aq rl o) s = execVamominV d base idx k h aq rl o s := rfl
@[simp] theorem exec_vamominX (d : Reg) (base : Reg) (idx : Reg) (k : KReg) (h : Hint) (aq : Bool) (rl : Bool) (o : Bool) (s : State) :
    exec (.vamominX d base idx k h aq rl o) s = execVamominX d base idx k h aq rl o s := rfl
@[simp] theorem exec_vamoswapC (d : Reg) (base : Reg) (idx : Reg) (k : KReg) (h : Hint) (aq : Bool) (rl : Bool) (o : Bool) (s : State) :
    exec (.vamoswapC d base idx k h aq rl o) s = execVamoswapC d base idx k h aq rl o s := rfl
@[simp] theorem exec_vamoswapD (d : Reg) (base : Reg) (idx : Reg) (k : KReg) (h : Hint) (aq : Bool) (rl : Bool) (o : Bool) (s : State) :
    exec (.vamoswapD d base idx k h aq rl o) s = execVamoswapD d base idx k h aq rl o s := rfl
@[simp] theorem exec_vamoswapV (d : Reg) (base : Reg) (idx : Reg) (k : KReg) (h : Hint) (aq : Bool) (rl : Bool) (o : Bool) (s : State) :
    exec (.vamoswapV d base idx k h aq rl o) s = execVamoswapV d base idx k h aq rl o s := rfl
@[simp] theorem exec_vamoswapX (d : Reg) (base : Reg) (idx : Reg) (k : KReg) (h : Hint) (aq : Bool) (rl : Bool) (o : Bool) (s : State) :
    exec (.vamoswapX d base idx k h aq rl o) s = execVamoswapX d base idx k h aq rl o s := rfl
@[simp] theorem exec_vwaitAll (kd : KReg) (xs : Reg) (va : Reg) (ve : Reg) (k : KReg) (sc : BitVec 2) (s : State) :
    exec (.vwaitAll kd xs va ve k sc) s = execVwaitAll kd xs va ve k sc s := rfl
@[simp] theorem exec_vwaitAny (kd : KReg) (xs : Reg) (va : Reg) (ve : Reg) (k : KReg) (sc : BitVec 2) (s : State) :
    exec (.vwaitAny kd xs va ve k sc) s = execVwaitAny kd xs va ve k sc s := rfl
@[simp] theorem exec_mtile (tb : Bool) (base : Reg) (fd : Reg) (s : State) :
    exec (.mtile tb base fd) s = execMtile tb base fd s := rfl
@[simp] theorem exec_mrow (acc : AccReg) (row : Row) (va : Reg) (tb : Bool) (fd : Reg) (s : State) :
    exec (.mrow acc row va tb fd) s = execMrow acc row va tb fd s := rfl
@[simp] theorem exec_mrowSp (acc : AccReg) (row : Row) (va : Reg) (tb : Bool) (fd : Reg) (s : State) :
    exec (.mrowSp acc row va tb fd) s = execMrowSp acc row va tb fd s := rfl
@[simp] theorem exec_mrowP (acc : AccReg) (row : Row) (va : Reg) (tb : Bool) (fd : Reg) (s : State) :
    exec (.mrowP acc row va tb fd) s = execMrowP acc row va tb fd s := rfl
@[simp] theorem exec_mzero (acc : AccReg) (s : State) : exec (.mzero acc) s = execMzero acc s := rfl
@[simp] theorem exec_mread (d : Reg) (acc : AccReg) (row : Row) (s : State) :
    exec (.mread d acc row) s = execMread d acc row s := rfl
@[simp] theorem exec_mepi (acc : AccReg) (row : Row) (base : Reg) (fd : Reg) (s : State) :
    exec (.mepi acc row base fd) s = execMepi acc row base fd s := rfl
@[simp] theorem exec_mrelease (tb : Bool) (s : State) : exec (.mrelease tb) s = execMrelease tb s := rfl
@[simp] theorem exec_cpy (d : Reg) (a : Reg) (b : Reg) (m : Reg) (e : Reg) (s : State) :
    exec (.cpy d a b m e) s = execCpy d a b m e s := rfl
@[simp] theorem exec_cpyG (d : Reg) (a : Reg) (b : Reg) (m : Reg) (e : Reg) (s : State) :
    exec (.cpyG d a b m e) s = execCpyG d a b m e s := rfl
@[simp] theorem exec_cpyX (a : Reg) (b : Reg) (m : Reg) (s : State) :
    exec (.cpyX a b m) s = execCpyX a b m s := rfl
@[simp] theorem exec_cpySum (d : Reg) (a : Reg) (b : Reg) (m : Reg) (s : State) :
    exec (.cpySum d a b m) s = execCpySum d a b m s := rfl
@[simp] theorem exec_coll (a : Reg) (b : Reg) (m : Reg) (s : State) :
    exec (.coll a b m) s = execColl a b m s := rfl
@[simp] theorem exec_sqnew (d : SqReg) (a : Reg) (s : State) : exec (.sqnew d a) s = execSqnew d a s := rfl
@[simp] theorem exec_sqres (d : Reg) (a : SqReg) (b : Reg) (s : State) :
    exec (.sqres d a b) s = execSqres d a b s := rfl
@[simp] theorem exec_sqcmt (a : SqReg) (b : Reg) (m : Reg) (s : State) :
    exec (.sqcmt a b m) s = execSqcmt a b m s := rfl
@[simp] theorem exec_sqabn (a : SqReg) (b : Reg) (m : Reg) (s : State) :
    exec (.sqabn a b m) s = execSqabn a b m s := rfl
@[simp] theorem exec_sqlen (d : Reg) (a : SqReg) (s : State) : exec (.sqlen d a) s = execSqlen d a s := rfl
@[simp] theorem exec_sqlenH (d : Reg) (a : SqReg) (s : State) : exec (.sqlenH d a) s = execSqlenH d a s := rfl
@[simp] theorem exec_sqfork (d : SqReg) (a : SqReg) (b : Reg) (s : State) :
    exec (.sqfork d a b) s = execSqfork d a b s := rfl
@[simp] theorem exec_sqdrop (d : SqReg) (s : State) : exec (.sqdrop d) s = execSqdrop d s := rfl
@[simp] theorem exec_launch (d : Reg) (a : Reg) (s : State) : exec (.launch d a) s = execLaunch d a s := rfl
@[simp] theorem exec_join (d : Reg) (a : Reg) (s : State) : exec (.join d a) s = execJoin d a s := rfl
@[simp] theorem exec_yield (s : State) : exec (.yield) s = execYield s := rfl
@[simp] theorem exec_exit (s : State) : exec (.exit) s = execExit s := rfl
@[simp] theorem exec_mark (s : State) : exec (.mark) s = execMark s := rfl
@[simp] theorem exec_ahalt (s : State) : exec (.ahalt) s = execAhalt s := rfl
@[simp] theorem exec_await (a : GReg) (s : State) : exec (.await a) s = execAwait a s := rfl
@[simp] theorem exec_aread (d : GReg) (slot : BitVec 12) (s : State) :
    exec (.aread d slot) s = execAread d slot s := rfl
@[simp] theorem exec_ali (d : GReg) (c : BitVec 18) (s : State) : exec (.ali d c) s = execAli d c s := rfl
@[simp] theorem exec_aaddi (d : GReg) (a : GReg) (c : BitVec 12) (s : State) :
    exec (.aaddi d a c) s = execAaddi d a c s := rfl
@[simp] theorem exec_aadd (d : GReg) (a : GReg) (b : GReg) (s : State) :
    exec (.aadd d a b) s = execAadd d a b s := rfl
@[simp] theorem exec_asub (d : GReg) (a : GReg) (b : GReg) (s : State) :
    exec (.asub d a b) s = execAsub d a b s := rfl
@[simp] theorem exec_aand (d : GReg) (a : GReg) (b : GReg) (s : State) :
    exec (.aand d a b) s = execAand d a b s := rfl
@[simp] theorem exec_aor (d : GReg) (a : GReg) (b : GReg) (s : State) :
    exec (.aor d a b) s = execAor d a b s := rfl
@[simp] theorem exec_asll (d : GReg) (a : GReg) (b : GReg) (s : State) :
    exec (.asll d a b) s = execAsll d a b s := rfl
@[simp] theorem exec_asrl (d : GReg) (a : GReg) (b : GReg) (s : State) :
    exec (.asrl d a b) s = execAsrl d a b s := rfl
@[simp] theorem exec_amul (d : GReg) (a : GReg) (b : GReg) (s : State) :
    exec (.amul d a b) s = execAmul d a b s := rfl
@[simp] theorem exec_aslli (d : GReg) (a : GReg) (c : BitVec 6) (s : State) :
    exec (.aslli d a c) s = execAslli d a c s := rfl
@[simp] theorem exec_asrli (d : GReg) (a : GReg) (c : BitVec 6) (s : State) :
    exec (.asrli d a c) s = execAsrli d a c s := rfl
@[simp] theorem exec_abeq (a : GReg) (b : GReg) (off : BitVec 12) (s : State) :
    exec (.abeq a b off) s = execAbeq a b off s := rfl
@[simp] theorem exec_abne (a : GReg) (b : GReg) (off : BitVec 12) (s : State) :
    exec (.abne a b off) s = execAbne a b off s := rfl
@[simp] theorem exec_ablt (a : GReg) (b : GReg) (off : BitVec 12) (s : State) :
    exec (.ablt a b off) s = execAblt a b off s := rfl
@[simp] theorem exec_abltu (a : GReg) (b : GReg) (off : BitVec 12) (s : State) :
    exec (.abltu a b off) s = execAbltu a b off s := rfl
@[simp] theorem exec_aj (off : BitVec 18) (s : State) : exec (.aj off) s = execAj off s := rfl
@[simp] theorem exec_apf (l2 : Bool) (a : GReg) (b : GReg) (n : BitVec 12) (s : State) :
    exec (.apf l2 a b n) s = execApf l2 a b n s := rfl
@[simp] theorem exec_apfv (l2 : Bool) (a : GReg) (b : GReg) (d : GReg) (esize : BitVec 2) (s : State) :
    exec (.apfv l2 a b d esize) s = execApfv l2 a b d esize s := rfl
@[simp] theorem exec_apinPri (a : GReg) (b : GReg) (s : State) :
    exec (.apinPri a b) s = execApinPri a b s := rfl
@[simp] theorem exec_apinPin (a : GReg) (b : GReg) (s : State) :
    exec (.apinPin a b) s = execApinPin a b s := rfl
@[simp] theorem exec_apinOff (a : GReg) (b : GReg) (s : State) :
    exec (.apinOff a b) s = execApinOff a b s := rfl
@[simp] theorem exec_atile (tb : Bool) (a : GReg) (b : GReg) (d : GReg) (s : State) :
    exec (.atile tb a b d) s = execAtile tb a b d s := rfl
@[simp] theorem exec_aprio (c : BitVec 2) (s : State) : exec (.aprio c) s = execAprio c s := rfl
@[simp] theorem exec_aorder (c : BitVec 3) (s : State) : exec (.aorder c) s = execAorder c s := rfl
@[simp] theorem exec_adviceAwaitWake (uid : Nat) (s : State) :
    exec (.adviceAwaitWake uid) s = execAdviceAwaitWake uid s := rfl
@[simp] theorem exec_advicePinExpire (uid : Nat) (s : State) :
    exec (.advicePinExpire uid) s = execAdvicePinExpire uid s := rfl
@[simp] theorem exec_queueRoomResume (uid : Nat) (s : State) :
    exec (.queueRoomResume uid) s = execQueueRoomResume uid s := rfl
@[simp] theorem exec_laneBlockTaken (uid : Nat) (s : State) :
    exec (.laneBlockTaken uid) s = execLaneBlockTaken uid s := rfl
@[simp] theorem exec_laneHoldTimeout (uid : Nat) (s : State) :
    exec (.laneHoldTimeout uid) s = execLaneHoldTimeout uid s := rfl
@[simp] theorem exec_laneReclaim (uid : Nat) (s : State) :
    exec (.laneReclaim uid) s = execLaneReclaim uid s := rfl
@[simp] theorem exec_waitaWake (uid : Nat) (s : State) : exec (.waitaWake uid) s = execWaitaWake uid s := rfl
@[simp] theorem exec_waitaTimeout (uid : Nat) (s : State) :
    exec (.waitaTimeout uid) s = execWaitaTimeout uid s := rfl
@[simp] theorem exec_vwaitRound (uid : Nat) (s : State) :
    exec (.vwaitRound uid) s = execVwaitRound uid s := rfl
@[simp] theorem exec_vwaitTimeout (uid : Nat) (s : State) :
    exec (.vwaitTimeout uid) s = execVwaitTimeout uid s := rfl
@[simp] theorem exec_wfiWake (uid : Nat) (s : State) : exec (.wfiWake uid) s = execWfiWake uid s := rfl
@[simp] theorem exec_pairTimeout (uid : Nat) (s : State) :
    exec (.pairTimeout uid) s = execPairTimeout uid s := rfl
@[simp] theorem exec_interruptTake (uid : Nat) (s : State) :
    exec (.interruptTake uid) s = execInterruptTake uid s := rfl
@[simp] theorem exec_reliabilityQueuedTrap (uid : Nat) (cause : BitVec 10) (tval : Word) (s : State) :
    exec (.reliabilityQueuedTrap uid cause tval) s = execReliabilityQueuedTrap uid cause tval s := rfl
@[simp] theorem exec_copyCommandComplete (uid : Nat) (s : State) :
    exec (.copyCommandComplete uid) s = execCopyCommandComplete uid s := rfl
@[simp] theorem exec_copyEngineFault (uid : Nat) (cause : BitVec 10) (tval : Word) (s : State) :
    exec (.copyEngineFault uid cause tval) s = execCopyEngineFault uid cause tval s := rfl
@[simp] theorem exec_compactionMove (ctx : Nat) (seq : Nat) (block : Nat) (newPa : Nat) (s : State) :
    exec (.compactionMove ctx seq block newPa) s = execCompactionMove ctx seq block newPa s := rfl
@[simp] theorem exec_overflowRingReturn (ctx : Nat) (s : State) :
    exec (.overflowRingReturn ctx) s = execOverflowRingReturn ctx s := rfl
@[simp] theorem exec_launchEligible (handle : Nat) (s : State) :
    exec (.launchEligible handle) s = execLaunchEligible handle s := rfl
@[simp] theorem exec_waitaddrPoll (s : State) : exec (.waitaddrPoll) s = execWaitaddrPoll s := rfl
@[simp] theorem exec_hartIssue (core : Nat) (s : State) :
    exec (.hartIssue core) s = execHartIssue core s := rfl
@[simp] theorem exec_dispatchTick (core : Nat) (s : State) :
    exec (.dispatchTick core) s = execDispatchTick core s := rfl
@[simp] theorem exec_priorityAging (handle : Nat) (s : State) :
    exec (.priorityAging handle) s = execPriorityAging handle s := rfl
@[simp] theorem exec_hartSave (uid : Nat) (reason : SaveReason) (s : State) :
    exec (.hartSave uid reason) s = execHartSave uid reason s := rfl
@[simp] theorem exec_hartRestore (uid : Nat) (s : State) :
    exec (.hartRestore uid) s = execHartRestore uid s := rfl
@[simp] theorem exec_hqLaunch (q : Nat) (s : State) : exec (.hqLaunch q) s = execHqLaunch q s := rfl
@[simp] theorem exec_hqHoldHart (q : Nat) (s : State) : exec (.hqHoldHart q) s = execHqHoldHart q s := rfl
@[simp] theorem exec_hqReleaseHart (q : Nat) (s : State) :
    exec (.hqReleaseHart q) s = execHqReleaseHart q s := rfl
@[simp] theorem exec_hqRetireHandle (q : Nat) (s : State) :
    exec (.hqRetireHandle q) s = execHqRetireHandle q s := rfl
@[simp] theorem exec_hqMigrateHart (q : Nat) (s : State) :
    exec (.hqMigrateHart q) s = execHqMigrateHart q s := rfl
@[simp] theorem exec_hqSetOverflowRing (q : Nat) (s : State) :
    exec (.hqSetOverflowRing q) s = execHqSetOverflowRing q s := rfl
@[simp] theorem exec_contextRegisterWriteComplete (uid : Nat) (s : State) :
    exec (.contextRegisterWriteComplete uid) s = execContextRegisterWriteComplete uid s := rfl
@[simp] theorem exec_parkedAccessRetranslate (uid : Nat) (s : State) :
    exec (.parkedAccessRetranslate uid) s = execParkedAccessRetranslate uid s := rfl
@[simp] theorem exec_hashTreeUpdate (region : Nat) (s : State) :
    exec (.hashTreeUpdate region) s = execHashTreeUpdate region s := rfl
@[simp] theorem exec_hostWindowRead (fn : Nat) (sp : HostSpace) (addr : Nat) (n : Nat) (s : State) :
    exec (.hostWindowRead fn sp addr n) s = execHostWindowRead fn sp addr n s := rfl
@[simp] theorem exec_hostWindowWrite (fn : Nat) (sp : HostSpace) (addr : Nat) (data : List Byte) (s : State) :
    exec (.hostWindowWrite fn sp addr data) s = execHostWindowWrite fn sp addr data s := rfl
@[simp] theorem exec_hostReadTimeout (pa : Nat) (n : Nat) (s : State) :
    exec (.hostReadTimeout pa n) s = execHostReadTimeout pa n s := rfl
@[simp] theorem exec_linkFlitReceive (port : Nat) (flit : List Byte) (s : State) :
    exec (.linkFlitReceive port flit) s = execLinkFlitReceive port flit s := rfl
@[simp] theorem exec_linkPortDown (port : Nat) (s : State) :
    exec (.linkPortDown port) s = execLinkPortDown port s := rfl
@[simp] theorem exec_remoteRequestTimeout (kind : RemoteKind) (pa : Nat) (n : Nat) (uid : Nat) (s : State) :
    exec (.remoteRequestTimeout kind pa n uid) s = execRemoteRequestTimeout kind pa n uid s := rfl
@[simp] theorem exec_collRankTimeout (uid : Nat) (s : State) :
    exec (.collRankTimeout uid) s = execCollRankTimeout uid s := rfl
@[simp] theorem exec_createContext (m : Nat) (c : CtxInit) (s : State) :
    exec (.createContext m c) s = execCreateContext m c s := rfl
@[simp] theorem exec_destroyContext (m : Nat) (ctx : Nat) (s : State) :
    exec (.destroyContext m ctx) s = execDestroyContext m ctx s := rfl
@[simp] theorem exec_bindHostQueue (m : Nat) (q : Nat) (c : QueueInit) (s : State) :
    exec (.bindHostQueue m q c) s = execBindHostQueue m q c s := rfl
@[simp] theorem exec_setSchedulingQuantum (m : Nat) (us : Nat) (s : State) :
    exec (.setSchedulingQuantum m us) s = execSetSchedulingQuantum m us s := rfl
@[simp] theorem exec_endLaunch (m : Nat) (handle : Nat) (s : State) :
    exec (.endLaunch m handle) s = execEndLaunch m handle s := rfl
@[simp] theorem exec_hashRegionRegister (m : Nat) (desc : Nat) (s : State) :
    exec (.hashRegionRegister m desc) s = execHashRegionRegister m desc s := rfl
@[simp] theorem exec_hashRegionRemove (m : Nat) (region : Nat) (s : State) :
    exec (.hashRegionRemove m region) s = execHashRegionRemove m region s := rfl
@[simp] theorem exec_hashRegionSeal (m : Nat) (region : Nat) (s : State) :
    exec (.hashRegionSeal m region) s = execHashRegionSeal m region s := rfl
@[simp] theorem exec_readErrorLog (m : Nat) (die : Nat) (s : State) :
    exec (.readErrorLog m die) s = execReadErrorLog m die s := rfl
@[simp] theorem exec_clearErrorLog (m : Nat) (die : Nat) (s : State) :
    exec (.clearErrorLog m die) s = execClearErrorLog m die s := rfl
@[simp] theorem exec_readTraceBuffer (m : Nat) (hamlet : Nat) (s : State) :
    exec (.readTraceBuffer m hamlet) s = execReadTraceBuffer m hamlet s := rfl
@[simp] theorem exec_setPartitionTable (m : Nat) (t : List Partition) (s : State) :
    exec (.setPartitionTable m t) s = execSetPartitionTable m t s := rfl
@[simp] theorem exec_setDomainTable (m : Nat) (own : Nat) (present : BitVec 1024) (s : State) :
    exec (.setDomainTable m own present) s = execSetDomainTable m own present s := rfl
@[simp] theorem exec_setHostApertures (m : Nat) (part : Nat) (t : List MemRange) (s : State) :
    exec (.setHostApertures m part t) s = execSetHostApertures m part t s := rfl
@[simp] theorem exec_setCollectiveTimeout (m : Nat) (ns : Nat) (s : State) :
    exec (.setCollectiveTimeout m ns) s = execSetCollectiveTimeout m ns s := rfl
@[simp] theorem exec_setPowerLimit (m : Nat) (watts : Nat) (s : State) :
    exec (.setPowerLimit m watts) s = execSetPowerLimit m watts s := rfl
@[simp] theorem exec_attestationQuote (m : Nat) (nonce : BitVec 256) (s : State) :
    exec (.attestationQuote m nonce) s = execAttestationQuote m nonce s := rfl
@[simp] theorem exec_mailboxClaim (m : Nat) (s : State) :
    exec (.mailboxClaim m) s = execMailboxClaim m s := rfl
@[simp] theorem exec_handover (m : Nat) (target : Nat) (s : State) :
    exec (.handover m target) s = execHandover m target s := rfl
@[simp] theorem exec_heartbeat (m : Nat) (s : State) : exec (.heartbeat m) s = execHeartbeat m s := rfl
@[simp] theorem exec_registerKernel (m : Nat) (c : KernelInit) (s : State) :
    exec (.registerKernel m c) s = execRegisterKernel m c s := rfl
@[simp] theorem exec_unregisterKernel (m : Nat) (ctx : Nat) (kzhdr : Nat) (s : State) :
    exec (.unregisterKernel m ctx kzhdr) s = execUnregisterKernel m ctx kzhdr s := rfl
@[simp] theorem exec_leaseLapse (s : State) : exec (.leaseLapse) s = execLeaseLapse s := rfl
@[simp] theorem exec_handoverExpire (s : State) : exec (.handoverExpire) s = execHandoverExpire s := rfl
@[simp] theorem exec_clockChange (hamlet : Nat) (dom : ClockDomain) (mhz : Nat) (reason : ClockReason) (s : State) :
    exec (.clockChange hamlet dom mhz reason) s = execClockChange hamlet dom mhz reason s := rfl
@[simp] theorem exec_throttleLevelChange (hamlet : Nat) (level : Nat) (s : State) :
    exec (.throttleLevelChange hamlet level) s = execThrottleLevelChange hamlet level s := rfl
@[simp] theorem exec_powerLimitReached (watts : Nat) (limit : Nat) (s : State) :
    exec (.powerLimitReached watts limit) s = execPowerLimitReached watts limit s := rfl
@[simp] theorem exec_thermalLimitReached (hamlet : Nat) (tenths : Nat) (s : State) :
    exec (.thermalLimitReached hamlet tenths) s = execThermalLimitReached hamlet tenths s := rfl
@[simp] theorem exec_powerBackWithinLimit (watts : Nat) (limit : Nat) (s : State) :
    exec (.powerBackWithinLimit watts limit) s = execPowerBackWithinLimit watts limit s := rfl
@[simp] theorem exec_powerOnBringUp (slotA : Bool) (slotB : Bool) (s : State) :
    exec (.powerOnBringUp slotA slotB) s = execPowerOnBringUp slotA slotB s := rfl
@[simp] theorem exec_hostSnoop (pa : Nat) (take : Bool) (s : State) :
    exec (.hostSnoop pa take) s = execHostSnoop pa take s := rfl
@[simp] theorem exec_hostRequestError (pa : Nat) (n : Nat) (isWrite : Bool) (s : State) :
    exec (.hostRequestError pa n isWrite) s = execHostRequestError pa n isWrite s := rfl
@[simp] theorem exec_linkPortRetrained (port : Nat) (s : State) :
    exec (.linkPortRetrained port) s = execLinkPortRetrained port s := rfl
@[simp] theorem exec_uncorrectableStorageError (level : StorageLevel) (pa : Nat) (s : State) :
    exec (.uncorrectableStorageError level pa) s = execUncorrectableStorageError level pa s := rfl
@[simp] theorem exec_adviceFillComplete (uid : Nat) (s : State) :
    exec (.adviceFillComplete uid) s = execAdviceFillComplete uid s := rfl
@[simp] theorem exec_hardwarePrefetch (uid : Nat) (va : Word) (n : Nat) (s : State) :
    exec (.hardwarePrefetch uid va n) s = execHardwarePrefetch uid va n s := rfl
@[simp] theorem exec_mailboxMessageToHart (m : Nat) (uid : Nat) (msg : Word) (s : State) :
    exec (.mailboxMessageToHart m uid msg) s = execMailboxMessageToHart m uid msg s := rfl

end Sys2Proof.Machine
end

