-- ==== Sys2Proof/Laws/Memory.lean ====
section
/-! SUPPORT. Memory: its one form, and reads after writes. -/

namespace Sys2Proof.Machine

/-- Every key of a list lies above a bound. -/
def KeysAbove (n : Nat) (m : List Host.Cell) : Prop := ∀ c ∈ m, n < c.1

theorem wf_cons {a : Nat} {b : Byte} {m : List Host.Cell} :
    Memory.wf ((a, b) :: m) = true ↔ b ≠ Config.unlisted ∧ KeysAbove a m ∧ Memory.wf m = true := by
  induction m generalizing a b with
  | nil => simp [Memory.wf, KeysAbove]
  | cons p m ih =>
    obtain ⟨c, d⟩ := p
    rw [Memory.wf]
    simp only [Bool.and_eq_true, decide_eq_true_eq]
    constructor
    · rintro ⟨⟨hb, hac⟩, hw⟩
      have h := ih.1 hw
      refine ⟨hb, ?_, hw⟩
      intro e he
      rcases List.mem_cons.1 he with rfl | he
      · exact hac
      · exact lt_trans hac (h.2.1 e he)
    · rintro ⟨hb, hk, hw⟩
      exact ⟨⟨hb, hk _ List.mem_cons_self⟩, hw⟩

theorem wf_tail {p : Host.Cell} {m : List Host.Cell} (h : Memory.wf (p :: m) = true) : Memory.wf m = true :=
  (wf_cons (a := p.1) (b := p.2)).1 h |>.2.2

/-- An address at or below every key is not listed. -/
theorem cellGet_below {m : List Host.Cell} {n a : Nat} (h : KeysAbove n m) (ha : a ≤ n) :
    cellGet m a = Config.unlisted := by
  cases m with
  | nil => rfl
  | cons p m =>
    obtain ⟨k, b⟩ := p
    have := h (k, b) List.mem_cons_self
    simp only at this
    rw [cellGet, if_neg (by omega), if_pos (by omega)]

theorem keysAbove_cellSet {m : List Host.Cell} {n a : Nat} {b : Byte} (h : KeysAbove n m) (ha : n < a) :
    KeysAbove n (cellSet m a b) := by
  induction m with
  | nil =>
    unfold cellSet
    split
    · intro c hc; cases hc
    · intro c hc; rcases List.mem_cons.1 hc with rfl | hc
      · exact ha
      · cases hc
  | cons p m ih =>
    obtain ⟨k, v⟩ := p
    have hk := h (k, v) List.mem_cons_self
    have ht : KeysAbove n m := fun c hc => h c (List.mem_cons_of_mem _ hc)
    unfold cellSet
    split
    · split
      · exact h
      · intro c hc; rcases List.mem_cons.1 hc with rfl | hc
        · exact ha
        · exact h c hc
    · split
      · split
        · exact ht
        · intro c hc; rcases List.mem_cons.1 hc with rfl | hc
          · exact ha
          · exact ht c hc
      · intro c hc; rcases List.mem_cons.1 hc with rfl | hc
        · exact hk
        · exact ih ht c hc

/-- A write keeps the one form. -/
theorem cellSet_wf {m : List Host.Cell} (a : Nat) (b : Byte) (h : Memory.wf m = true) :
    Memory.wf (cellSet m a b) = true := by
  induction m with
  | nil => unfold cellSet; split <;> simp_all [Memory.wf]
  | cons p m ih =>
    obtain ⟨k, v⟩ := p
    obtain ⟨hv, hk, hw⟩ := wf_cons.1 h
    unfold cellSet
    split
    · split
      · exact h
      · rename_i hlt hb
        refine wf_cons.2 ⟨hb, ?_, h⟩
        intro c hc; rcases List.mem_cons.1 hc with rfl | hc
        · exact hlt
        · exact lt_trans hlt (hk c hc)
    · split
      · split
        · exact hw
        · rename_i h2 hb; subst h2; exact wf_cons.2 ⟨hb, hk, hw⟩
      · exact wf_cons.2 ⟨hv, keysAbove_cellSet hk (by omega), ih hw⟩

/-- A read after a write. -/
theorem cellGet_cellSet {m : List Host.Cell} (h : Memory.wf m = true) (a c : Nat) (b : Byte) :
    cellGet (cellSet m a b) c = if c = a then b else cellGet m c := by
  induction m with
  | nil =>
    unfold cellSet
    split
    · rename_i hb; simp only [cellGet]; split
      · exact hb.symm
      · rfl
    · simp only [cellGet]
      by_cases hc : c = a
      · simp [hc]
      · simp [hc, Ne.symm hc]
  | cons p m ih =>
    obtain ⟨k, v⟩ := p
    obtain ⟨hv, hk, hw⟩ := wf_cons.1 h
    unfold cellSet
    split
    · rename_i hlt
      split
      · rename_i hb
        simp only [cellGet]
        by_cases hc : c = a
        · subst hc; rw [if_neg (by omega), if_pos hlt, if_pos rfl, hb]
        · rw [if_neg hc]
      · by_cases hc : c = a
        · simp [cellGet, hc]
        · rw [if_neg hc]
          conv_lhs => rw [cellGet]
          rw [if_neg (Ne.symm hc)]
          split
          · simp only [cellGet]; rw [if_neg (by omega), if_pos (by omega)]
          · rfl
    · split
      · rename_i h1 h2
        subst h2
        split
        · rename_i hb
          by_cases hc : c = a
          · subst hc; rw [if_pos rfl, cellGet_below hk (le_refl _), hb]
          · rw [if_neg hc]
            conv_rhs => rw [cellGet]
            rw [if_neg (Ne.symm hc)]
            split
            · exact cellGet_below hk (by omega)
            · rfl
        · by_cases hc : c = a
          · simp [cellGet, hc]
          · simp [cellGet, hc, Ne.symm hc]
      · rename_i h1 h2
        simp only [cellGet]
        by_cases hck : k = c
        · rw [if_pos hck, if_pos hck, if_neg (by omega)]
        · rw [if_neg hck, if_neg hck]
          split
          · rw [if_neg (by omega)]
          · exact ih hw

theorem cellsSet_wf {m : List Host.Cell} (a : Nat) (bs : List Byte) (h : Memory.wf m = true) :
    Memory.wf (cellsSet m a bs) = true := by
  induction bs generalizing m a with
  | nil => exact h
  | cons b bs ih => exact ih _ (cellSet_wf _ _ h)

/-! ### What the tags of L2 may change -/

/-- Two states that differ in nothing but L2's tags, its poison and its errors. -/
def TagsOnly (s t : State) : Prop :=
  ∃ l p q b, t = { s with l2 := l, poison := p, l2Poison := q, broken := b }

theorem TagsOnly.rfl' (s : State) : TagsOnly s s := ⟨s.l2, s.poison, s.l2Poison, s.broken, rfl⟩

theorem TagsOnly.trans {s t u : State} (h : TagsOnly s t) (k : TagsOnly t u) : TagsOnly s u := by
  obtain ⟨_, _, _, _, rfl⟩ := h
  obtain ⟨_, _, _, _, rfl⟩ := k
  exact ⟨_, _, _, _, rfl⟩

theorem TagsOnly.mem {s t : State} (h : TagsOnly s t) : t.mem = s.mem := by
  obtain ⟨_, _, _, _, rfl⟩ := h; rfl

theorem TagsOnly.hart {s t : State} (h : TagsOnly s t) : t.hart = s.hart := by
  obtain ⟨_, _, _, _, rfl⟩ := h; rfl

theorem TagsOnly.foldl {α : Type} (f : State → α → State) (hf : ∀ s a, TagsOnly s (f s a)) (l : List α) (s : State) :
    TagsOnly s (l.foldl f s) := by
  induction l generalizing s with
  | nil => exact TagsOnly.rfl' s
  | cons a l ih => exact (hf s a).trans (ih _)

theorem addPoison_tags (s : State) (k : Nat) : TagsOnly s (s.addPoison k) := by
  unfold State.addPoison
  split
  · exact TagsOnly.rfl' s
  · exact ⟨s.l2, _, s.l2Poison, s.broken, rfl⟩

theorem addPoisons_tags (s : State) (l : List Nat) : TagsOnly s (s.addPoisons l) :=
  TagsOnly.foldl _ addPoison_tags l s

/-- A line that leaves L2 for another changes no byte (R93). -/
theorem l2Drop_tags (s : State) (line : Nat) : TagsOnly s (s.l2Drop line) := by
  unfold State.l2Drop
  split
  · exact TagsOnly.rfl' s
  · exact (addPoisons_tags s _).trans ⟨_, _, _, _, rfl⟩

theorem l2Alloc_tags (s : State) (g : BitVec 2) (line : Nat) : TagsOnly s (s.l2Alloc g line) := by
  unfold State.l2Alloc
  split
  · exact TagsOnly.rfl' s
  · dsimp only
    split
    · exact ⟨_, s.poison, s.l2Poison, s.broken, rfl⟩
    · split
      · split
        · exact (l2Drop_tags s _).trans ⟨_, _, _, _, rfl⟩
        · exact TagsOnly.rfl' s
      · exact TagsOnly.rfl' s

/-- A fill of L2 changes no byte (R93). -/
theorem l2Sector_tags (s : State) (g : BitVec 2) (d : Bool) (k : Nat) : TagsOnly s (s.l2Sector g d k) := by
  unfold State.l2Sector
  dsimp only
  split
  · exact l2Alloc_tags s g _
  · exact (l2Alloc_tags s g _).trans ⟨_, _, _, _, rfl⟩

theorem clearPoison_tags (s : State) (g : BitVec 2) (l : List Nat) : TagsOnly s (s.clearPoison g l) := by
  unfold State.clearPoison
  split
  · exact TagsOnly.rfl' s
  · exact ⟨s.l2, _, _, s.broken, rfl⟩

theorem hostMark_tags (s : State) (b : Bool) (line : Nat) : TagsOnly s (s.hostMark b line) := by
  unfold State.hostMark
  split
  · exact ⟨_, s.poison, s.l2Poison, s.broken, rfl⟩
  · exact TagsOnly.rfl' s

/-- What a read leaves in L2 changes no byte (R74, R93). -/
theorem l2Take_tags (s : State) (t : Xlat) (pa n : Nat) : TagsOnly s (s.l2Take t pa n) := by
  unfold State.l2Take
  split
  · exact TagsOnly.rfl' s
  · dsimp only
    split
    · exact (TagsOnly.foldl _ (fun s k => l2Sector_tags s _ _ k) _ s).trans (TagsOnly.foldl _ (fun s k => hostMark_tags s _ k) _ _)
    · exact TagsOnly.foldl _ (fun s k => l2Sector_tags s _ _ k) _ s

theorem l1Took_tags (s : State) (t : Xlat) (n : Nat) : TagsOnly s (s.l1Took t n) := l2Take_tags s t _ _

/-- The sectors that a write makes valid (R93). -/
theorem l2Sectors_tags (s : State) (g : BitVec 2) (d : Bool) (l : List Nat) :
    TagsOnly s (l.foldl (fun t k => t.l2Sector g d k) s) :=
  TagsOnly.foldl _ (fun s k => l2Sector_tags s g d k) l s

/-- Two states that differ in nothing but what a write at L2 may change. -/
def L2Writes (s t : State) : Prop :=
  ∃ m l o k p q b g r, t = { s with
    mem := m, l2 := l, posted := o, hostMem := k, poison := p, l2Poison := q, broken := b, grain := g, regions := r }

theorem TagsOnly.writes {s t : State} (h : TagsOnly s t) : L2Writes s t := by
  obtain ⟨_, _, _, _, rfl⟩ := h; exact ⟨_, _, _, _, _, _, _, _, _, rfl⟩

theorem L2Writes.trans {s t u : State} (h : L2Writes s t) (k : L2Writes t u) : L2Writes s u := by
  obtain ⟨_, _, _, _, _, _, _, _, _, rfl⟩ := h
  obtain ⟨_, _, _, _, _, _, _, _, _, rfl⟩ := k
  exact ⟨_, _, _, _, _, _, _, _, _, rfl⟩

theorem L2Writes.hart {s t : State} (h : L2Writes s t) : t.hart = s.hart := by
  obtain ⟨_, _, _, _, _, _, _, _, _, rfl⟩ := h; rfl

theorem L2Writes.foldl {α : Type} (f : State → α → State) (hf : ∀ s a, L2Writes s (f s a)) (l : List α) (s : State) :
    L2Writes s (l.foldl f s) := by
  induction l generalizing s with
  | nil => exact (TagsOnly.rfl' s).writes
  | cons a l ih => exact (hf s a).trans (ih _)

/-- An eviction changes what a write at L2 may change: the host's own bytes come back into view (R442). -/
theorem l2Evict_writes (s : State) (line : Nat) : L2Writes s (s.l2Evict line) :=
  (l2Drop_tags s line).writes.trans ⟨_, _, _, _, _, _, _, _, _, rfl⟩

theorem hostCopy_writes (s : State) (t : Xlat) (n : Nat) : L2Writes s (s.hostCopy t n) := by
  unfold State.hostCopy
  dsimp only
  split
  · split
    · exact L2Writes.foldl _ (fun s k => l2Evict_writes s k) _ s
    · exact (TagsOnly.foldl _ (fun s k => hostMark_tags s _ k) _ s).writes
  · exact (TagsOnly.rfl' s).writes

/-- Memory with some bytes written keeps the one form. -/
theorem cellsPut_wf {m : List Host.Cell} (l : List Host.Cell) (h : Memory.wf m = true) :
    Memory.wf (cellsPut m l) = true := by
  unfold cellsPut
  induction l generalizing m with
  | nil => exact h
  | cons c l ih => exact ih (cellSet_wf _ _ h)

/-- An eviction keeps the one form. -/
theorem l2Evict_wf (s : State) (line : Nat) (h : Memory.wf s.mem = true) : Memory.wf (s.l2Evict line).mem = true := by
  unfold State.l2Evict
  dsimp only
  rw [(l2Drop_tags s line).mem]
  exact cellsPut_wf _ h

/-- With nothing that the host has changed behind L2, an eviction changes no byte. -/
theorem l2Evict_mem (s : State) (line : Nat) (h : s.hostMem = []) : (s.l2Evict line).mem = s.mem := by
  have hh : (s.l2Drop line).hostMem = s.hostMem := by
    obtain ⟨_, _, _, _, e⟩ := l2Drop_tags s line
    rw [e]
  unfold State.l2Evict
  simp only [hh, h, List.filter_nil]
  exact (l2Drop_tags s line).mem

/-- An access to a host window keeps the one form. -/
theorem hostCopy_wf (s : State) (t : Xlat) (n : Nat) (h : Memory.wf s.mem = true) :
    Memory.wf (s.hostCopy t n).mem = true := by
  unfold State.hostCopy
  dsimp only
  split
  · split
    · have key : ∀ (l : List Nat) (s : State), Memory.wf s.mem = true →
          Memory.wf (l.foldl (fun (u : State) k => u.l2Evict k) s).mem = true := by
        intro l
        induction l with
        | nil => exact fun _ h => h
        | cons k l ih => exact fun s h => ih _ (l2Evict_wf s k h)
      exact key _ s h
    · rw [(TagsOnly.foldl _ (fun s k => hostMark_tags s _ k) _ s).mem]
      exact h
  · exact h

theorem foldl_l2Put_writes (l : List Host.Cell) (s : State) (g : BitVec 2) :
    L2Writes s (l.foldl (fun t (c : Host.Cell) => t.l2Put g c.1 c.2) s) := by
  induction l generalizing s with
  | nil => exact (TagsOnly.rfl' s).writes
  | cons c l ih =>
    have h : L2Writes s (s.l2Put g c.1 c.2) := ⟨_, _, _, s.hostMem, _, _, _, _, _, rfl⟩
    exact h.trans (ih _)

/-- All that a write at L2 may change. -/
theorem l2Write_writes (s : State) (g : BitVec 2) (l : List Host.Cell) : L2Writes s (s.l2Write g l) :=
  (l2Sectors_tags s g true _).writes.trans ((foldl_l2Put_writes l _ g).trans (clearPoison_tags _ g _).writes)

theorem foldl_l2Put_wf (l : List Host.Cell) (s : State) (g : BitVec 2) (h : Memory.wf s.mem = true) :
    Memory.wf (l.foldl (fun t (c : Host.Cell) => t.l2Put g c.1 c.2) s).mem = true := by
  induction l generalizing s with
  | nil => exact h
  | cons c l ih => exact ih _ (cellSet_wf _ _ h)

/-- A write at L2 keeps the one form. -/
theorem l2Write_wf (s : State) (g : BitVec 2) (l : List Host.Cell) (h : Memory.wf s.mem = true) :
    Memory.wf (s.l2Write g l).mem = true := by
  have h' : Memory.wf (((l.map fun (c : Host.Cell) => c.1 / 32).eraseDups).foldl
      (fun (t : State) k => t.l2Sector g true k) s).mem = true := by rw [(l2Sectors_tags s g true _).mem]; exact h
  unfold State.l2Write
  rw [(clearPoison_tags _ g _).mem]
  exact foldl_l2Put_wf l _ g h'

theorem l2WriteAt_wf (s : State) (g : BitVec 2) (pa : Nat) (bs : List Byte) (h : Memory.wf s.mem = true) :
    Memory.wf (s.l2WriteAt g pa bs).mem = true := l2Write_wf s g _ h

/-- The byte that the last of some writes gives an address, else what it held. -/
def lastOf (l : List Host.Cell) (a : Nat) (b : Byte) : Byte :=
  l.foldl (fun b (c : Host.Cell) => if a = c.1 then c.2 else b) b

theorem foldl_l2Put_get (l : List Host.Cell) (s : State) (g : BitVec 2) (h : Memory.wf s.mem = true) (a : Nat) :
    cellGet (l.foldl (fun t (c : Host.Cell) => t.l2Put g c.1 c.2) s).mem a = lastOf l a (cellGet s.mem a) := by
  induction l generalizing s with
  | nil => rfl
  | cons c l ih =>
    rw [List.foldl_cons, ih _ (cellSet_wf _ _ h)]
    unfold lastOf
    rw [List.foldl_cons]
    congr 1
    exact cellGet_cellSet h c.1 a c.2

/-- What a write at L2 leaves in each byte. -/
theorem l2Write_get (s : State) (g : BitVec 2) (l : List Host.Cell) (h : Memory.wf s.mem = true) (a : Nat) :
    cellGet (s.l2Write g l).mem a = lastOf l a (cellGet s.mem a) := by
  have hm := (l2Sectors_tags s g true ((l.map fun (c : Host.Cell) => c.1 / 32).eraseDups)).mem
  unfold State.l2Write
  rw [(clearPoison_tags _ g _).mem, foldl_l2Put_get l _ g (by rw [hm]; exact h) a, hm]

theorem lastOf_none {l : List Host.Cell} {a : Nat} {b : Byte} (h : ∀ c ∈ l, c.1 ≠ a) : lastOf l a b = b := by
  induction l generalizing b with
  | nil => rfl
  | cons c l ih =>
    unfold lastOf
    rw [List.foldl_cons, if_neg (Ne.symm (h c List.mem_cons_self))]
    exact ih fun d hd => h d (List.mem_cons_of_mem _ hd)

theorem lastOf_cellsAt (pa : Nat) (bs : List Byte) (a : Nat) (b : Byte) :
    lastOf (cellsAt pa bs) a b = if pa ≤ a ∧ a < pa + bs.length then bs.getD (a - pa) 0 else b := by
  have key : ∀ (bs : List Byte) (j : Nat) (b : Byte),
      lastOf (((List.range' j bs.length).zip bs).map fun (i, c) => (pa + i, c)) a b =
        if pa + j ≤ a ∧ a < pa + j + bs.length then bs.getD (a - (pa + j)) 0 else b := by
    intro bs
    induction bs with
    | nil => intro j b; rw [if_neg (by simp)]; rfl
    | cons c bs ih =>
      intro j b
      have := ih (j + 1) (if a = pa + j then c else b)
      simp only [List.length_cons, List.range'_succ, List.zip_cons_cons, List.map_cons]
      unfold lastOf at this ⊢
      rw [List.foldl_cons]
      rw [this]
      by_cases h1 : a = pa + j
      · subst h1
        simp
      · by_cases h2 : pa + j ≤ a ∧ a < pa + j + (bs.length + 1)
        · have h3 : pa + (j + 1) ≤ a ∧ a < pa + (j + 1) + bs.length := by omega
          rw [if_pos h3, if_pos h2]
          have : a - (pa + j) = (a - (pa + (j + 1))) + 1 := by omega
          rw [this, List.getD_cons_succ]
        · rw [if_neg (by omega), if_neg h2, if_neg h1]
  unfold cellsAt
  rw [List.range_eq_range']
  have := key bs 0 b
  simpa using this

/-- What a write of bytes at rising addresses leaves in each byte. -/
theorem l2WriteAt_get (s : State) (g : BitVec 2) (pa : Nat) (bs : List Byte) (h : Memory.wf s.mem = true) (a : Nat) :
    cellGet (s.l2WriteAt g pa bs).mem a =
      if pa ≤ a ∧ a < pa + bs.length then bs.getD (a - pa) 0 else cellGet s.mem a := by
  unfold State.l2WriteAt
  rw [l2Write_get s g _ h, lastOf_cellsAt]

/-- The bytes of a value. -/
@[simp] theorem valBytes_length (n v : Nat) : (valBytes n v).length = n := by
  induction n generalizing v with
  | zero => rfl
  | succ n ih => simp [valBytes, ih]

theorem valBytes_get (n v i : Nat) (h : i < (valBytes n v).length) :
    (valBytes n v)[i] = BitVec.ofNat 8 (v / 2 ^ (8 * i)) := by
  induction n generalizing v i with
  | zero => simp [valBytes] at h
  | succ n ih =>
    cases i with
    | zero => simp [valBytes]
    | succ i =>
      simp only [valBytes, List.getElem_cons_succ]
      rw [ih]
      congr 1
      rw [Nat.div_div_eq_div_mul]
      congr 1
      rw [show 8 * (i + 1) = 8 + 8 * i by ring, pow_add]; rfl

/-- A value is what its bytes say. -/
theorem bytesVal_valBytes (n v : Nat) : bytesVal (valBytes n v) = v % 2 ^ (8 * n) := by
  induction n generalizing v with
  | zero => simp [valBytes, bytesVal, Nat.mod_one]
  | succ n ih =>
    simp only [valBytes, bytesVal, ih, BitVec.toNat_ofNat]
    rw [show 8 * (n + 1) = 8 + 8 * n by ring, pow_add, Nat.mod_mul]; rfl

end Sys2Proof.Machine
end

