-- ==== Sys2Proof/Laws/Trap.lean ====
section
/-! SUPPORT. What taking an exception leaves in its registers, and what a notification changes (R376, R416). -/

namespace Sys2Proof.Machine

@[simp] theorem l2Put_hart (s : State) (g : BitVec 2) (pa : Nat) (b : Byte) : (s.l2Put g pa b).hart = s.hart := rfl

@[simp] theorem l2Write_hart (s : State) (g : BitVec 2) (l : List Host.Cell) : (s.l2Write g l).hart = s.hart :=
  (l2Write_writes s g l).hart

@[simp] theorem l2WriteAt_hart (s : State) (g : BitVec 2) (pa : Nat) (bs : List Byte) :
    (s.l2WriteAt g pa bs).hart = s.hart := l2Write_hart s g _

/-- A notification sends at most a software interrupt to the hart in focus (R376). -/
theorem notify_hart (s : State) (c kind uid d a b : Nat) :
    ∃ q, (s.notify c kind uid d a b).hart = { s.hart with irqSoft := q } := by
  unfold State.notify
  simp only
  split
  · exact ⟨s.hart.irqSoft, rfl⟩
  · unfold State.modHart
    simp only [State.setCtx, l2WriteAt_hart]
    split
    · exact ⟨_, rfl⟩
    · exact ⟨s.hart.irqSoft, rfl⟩

/-- TPC holds the address with its low two bits cleared. -/
theorem tpc_value (a : Word) : ((a >>> 2).setWidth 62).setWidth 64 <<< 2 = a &&& ~~~3 := by
  apply BitVec.eq_of_getLsbD_eq
  intro i hi
  simp only [BitVec.getLsbD_shiftLeft, BitVec.getLsbD_setWidth, BitVec.getLsbD_ushiftRight, BitVec.getLsbD_and,
    BitVec.getLsbD_not]
  have h3 : (3 : Word).getLsbD i = decide (i < 2) := by
    have : ∀ j : Fin 64, (3 : Word).getLsbD j.val = decide (j.val < 2) := by decide
    exact this ⟨i, hi⟩
  rw [h3]
  by_cases h : i < 2
  · simp [h]
  · have h1 : i - 2 < 62 := by omega
    have h2 : i - 2 < 64 := by omega
    rw [show 2 + (i - 2) = i by omega]
    simp [h, hi, h1, h2]

end Sys2Proof.Machine
end

