-- ==== Sys2Proof/Laws/L1.lean ====
section
/-! SUPPORT. Tables, and what write-backs of L1 leave in memory and in L1 (R80, R111). -/

namespace Sys2Proof.Machine

/-- A read of a table after a write. -/
theorem tget_tset {α : Type} (t : Tbl α) (a b : Nat) (v : α) :
    tget (tset t a v) b = if b = a then some v else tget t b := by
  induction t with
  | nil => simp only [tset, tget, eq_comm]
  | cons p t ih =>
    obtain ⟨k, w⟩ := p
    unfold tset
    split
    · simp only [tget]
      by_cases h : b = a
      · rw [if_pos h.symm, if_pos h]
      · rw [if_neg (Ne.symm h), if_neg h]
    · split
      · rename_i h2; subst h2
        simp only [tget]
        by_cases h : b = a
        · rw [if_pos h.symm, if_pos h]
        · rw [if_neg (Ne.symm h), if_neg (Ne.symm h), if_neg h]
      · rename_i h1 h2
        simp only [tget, ih]
        by_cases h : k = b
        · rw [if_pos h, if_pos h, if_neg (by omega)]
        · rw [if_neg h, if_neg h]

@[simp] theorem tget_tset_same {α : Type} (t : Tbl α) (a : Nat) (v : α) : tget (tset t a v) a = some v := by
  rw [tget_tset, if_pos rfl]

theorem tget_tset_ne {α : Type} (t : Tbl α) {a b : Nat} (v : α) (h : b ≠ a) :
    tget (tset t a v) b = tget t b := by
  rw [tget_tset, if_neg h]

/-- A read of another number after a removal. -/
theorem tget_tdel_ne {α : Type} (t : Tbl α) {a b : Nat} (h : b ≠ a) : tget (tdel t a) b = tget t b := by
  induction t with
  | nil => rfl
  | cons p t ih =>
    obtain ⟨k, w⟩ := p
    unfold tdel
    split
    · rename_i hk; subst hk; simp only [tget]; rw [if_neg (Ne.symm h)]
    · simp only [tget, ih]

theorem tget_mem {α : Type} {t : Tbl α} {a : Nat} {v : α} (h : tget t a = some v) : (a, v) ∈ t := by
  induction t with
  | nil => cases h
  | cons p t ih =>
    obtain ⟨k, w⟩ := p
    simp only [tget] at h
    split at h
    · rename_i hk; subst hk; injection h with h; subst h; exact List.mem_cons_self
    · exact List.mem_cons_of_mem _ (ih h)

theorem core_setCore (s : State) (c d : Nat) (k : Core) :
    (s.setCore c k).core d = if d = c then k else s.core d := by
  unfold State.core State.setCore
  simp only [tget_tset]
  split <;> rfl

@[simp] theorem core_setCore_same (s : State) (c : Nat) (k : Core) : (s.setCore c k).core c = k := by
  rw [core_setCore, if_pos rfl]

/-- Marking poison changes poison only. -/
theorem addPoison_frame (s : State) (n : Nat) : { s.addPoison n with poison := s.poison } = s := by
  unfold State.addPoison
  split <;> rfl

theorem l2Write_cores (s : State) (g : BitVec 2) (l : List Host.Cell) : (s.l2Write g l).cores = s.cores := by
  obtain ⟨_, _, _, _, _, _, _, _, _, h⟩ := l2Write_writes s g l
  rw [h]

theorem foldl_addPoison (offs : List Nat) (p : Nat → Bool) (n : Nat → Nat) (s : State) :
    { offs.foldl (fun (t : State) o => if p o then t.addPoison (n o) else t) s with poison := s.poison } = s := by
  induction offs generalizing s with
  | nil => rfl
  | cons o offs ih =>
    rw [List.foldl_cons]
    have h := ih (if p o then s.addPoison (n o) else s)
    have h2 : { (if p o then s.addPoison (n o) else s) with poison := s.poison } = s := by
      split
      · exact addPoison_frame s _
      · rfl
    have h3 := congrArg (fun u : State => { u with poison := s.poison }) h
    simp only at h3
    rw [h2] at h3
    exact h3

/-- The dirty offsets of a line that a write-back takes. -/
def dirtyOffs (l : L1Line) (keep : Nat → Bool) : List Nat :=
  (List.range 256).filter fun o => l.dirty.getLsbD o && keep o

theorem lastOf_offs (offs : List Nat) (line : Nat) (f : Nat → Byte) (h : ∀ o ∈ offs, o < 256) (a : Nat) (b : Byte) :
    lastOf (offs.map fun o => (256 * line + o, f o)) a b =
      if a / 256 = line ∧ a % 256 ∈ offs then f (a % 256) else b := by
  induction offs generalizing b with
  | nil => simp [lastOf]
  | cons o offs ih =>
    have ho := h o List.mem_cons_self
    have ih' := ih (fun x hx => h x (List.mem_cons_of_mem _ hx)) (if a = 256 * line + o then f o else b)
    unfold lastOf at ih' ⊢
    rw [List.map_cons, List.foldl_cons, ih']
    by_cases h1 : a = 256 * line + o
    · have h2 : a / 256 = line := by omega
      have h3 : a % 256 = o := by omega
      rw [if_pos h1]
      have h4 : a / 256 = line ∧ a % 256 ∈ o :: offs := ⟨h2, h3 ▸ List.mem_cons_self⟩
      rw [if_pos h4, h3]
      split <;> rfl
    · rw [if_neg h1]
      by_cases h4 : a / 256 = line
      · have h5 : a % 256 ≠ o := by omega
        simp [h4, h5]
      · simp [h4]

theorem foldl_or_bit (offs : List Nat) (m : BitVec 256) (i : Nat) (hi : i < 256) :
    (offs.foldl (fun (m : BitVec 256) o => m ||| BitVec.ofNat 256 (2 ^ o)) m).getLsbD i =
      (m.getLsbD i || offs.contains i) := by
  induction offs generalizing m with
  | nil => simp
  | cons o offs ih =>
    rw [List.foldl_cons, ih]
    simp only [BitVec.getLsbD_or, BitVec.getLsbD_ofNat, Nat.testBit_two_pow, hi, decide_true, Bool.true_and,
      List.contains_cons, Bool.or_assoc]
    congr 1
    congr 1
    by_cases h : o = i
    · simp [h]
    · simp [h, Ne.symm h]

/-- What a write-back of one line does (R80): memory takes the dirty bytes, the line keeps its data and loses
those dirty bits, and nothing else of the cores changes. -/
theorem writeBack_spec (s : State) (c line : Nat) (keep : Nat → Bool) (hw : Memory.wf s.mem = true) :
    let t := s.writeBack c line keep
    Memory.wf t.mem = true ∧ t.hart = s.hart ∧
    (∀ a, cellGet t.mem a = match tget (s.core c).l1 line with
      | some l => if a / 256 = line ∧ l.dirty.getLsbD (a % 256) = true ∧ keep (a % 256) = true
                  then l.byte (a % 256) else cellGet s.mem a
      | none => cellGet s.mem a) ∧
    (∀ n, n ≠ line → tget (t.core c).l1 n = tget (s.core c).l1 n) ∧
    (∀ l, tget (s.core c).l1 line = some l → ∃ d, tget (t.core c).l1 line = some { l with dirty := d } ∧
      ∀ i, i < 256 → d.getLsbD i = (l.dirty.getLsbD i && !keep i)) ∧
    (tget (s.core c).l1 line = none → tget (t.core c).l1 line = none) := by
  intro t
  have ht : t = s.writeBack c line keep := rfl
  clear_value t
  unfold State.writeBack at ht
  split at ht
  · rename_i hn
    subst ht
    refine ⟨hw, rfl, ?_, fun _ _ => rfl, ?_, fun _ => hn⟩
    · intro a; rw [hn]
    · intro l hl; rw [hn] at hl; cases hl
  · rename_i l hl
    simp only at ht
    change t = if (dirtyOffs l keep).isEmpty = true then s else _ at ht
    have hmem : ∀ o, o ∈ dirtyOffs l keep ↔ o < 256 ∧ l.dirty.getLsbD o = true ∧ keep o = true := by
      intro o; simp [dirtyOffs]
    split at ht
    · rename_i he
      subst ht
      have he' : dirtyOffs l keep = [] := by simpa using he
      have hno : ∀ o, o < 256 → ¬ (l.dirty.getLsbD o = true ∧ keep o = true) := by
        intro o ho hh
        have := (hmem o).2 ⟨ho, hh⟩
        rw [he'] at this; cases this
      refine ⟨hw, rfl, ?_, fun _ _ => rfl, ?_, fun h => h⟩
      · intro a
        rw [hl]
        simp only
        rw [if_neg fun h => hno (a % 256) (Nat.mod_lt _ (by decide)) h.2]
      · intro l' hl'
        rw [hl] at hl'; injection hl' with hl'; subst hl'
        refine ⟨l.dirty, hl, fun i hi => ?_⟩
        cases h1 : l.dirty.getLsbD i with
        | false => rfl
        | true =>
          cases h2 : keep i with
          | false => rfl
          | true => exact absurd ⟨h1, h2⟩ (hno i hi)
    · change t = State.setLine _ c line _ at ht
      have hf := foldl_addPoison (dirtyOffs l keep) (fun o => l.poison.getLsbD o)
        (fun o => (256 * line + o) / 32) (s.l2Write l.gran ((dirtyOffs l keep).map fun o => (256 * line + o, l.byte o)))
      obtain ⟨S, hS⟩ : ∃ S, S = (dirtyOffs l keep).foldl (fun (t : State) o =>
        if l.poison.getLsbD o then t.addPoison ((256 * line + o) / 32) else t)
          (s.l2Write l.gran ((dirtyOffs l keep).map fun o => (256 * line + o, l.byte o))) := ⟨_, rfl⟩
      rw [← hS] at hf
      have hmS : S.mem = (s.l2Write l.gran ((dirtyOffs l keep).map fun o => (256 * line + o, l.byte o))).mem := by
        have := congrArg State.mem hf; exact this
      have hhS : S.hart = s.hart := by
        have := congrArg State.hart hf; exact this.trans (l2Write_hart s _ _)
      have hcS : S.cores = s.cores := by
        have := congrArg State.cores hf; exact this.trans (l2Write_cores s _ _)
      have ht' : t = S.setLine c line { l with dirty := l.dirty &&& ~~~ (List.foldl
          (fun (m : BitVec 256) o => m ||| BitVec.ofNat 256 (2 ^ o)) 0 (dirtyOffs l keep)) } := by rw [ht, hS]; rfl
      have hcore : S.core c = s.core c := by unfold State.core; rw [hcS]
      have htm : t.mem = S.mem := by rw [ht']; rfl
      refine ⟨?_, ?_, ?_, ?_, ?_, ?_⟩
      · rw [htm, hmS]; exact l2Write_wf s _ _ hw
      · rw [ht']; exact hhS
      · intro a
        rw [htm, hmS, l2Write_get s _ _ hw, hl]
        rw [lastOf_offs _ _ _ (fun o ho => ((hmem o).1 ho).1)]
        have : (a / 256 = line ∧ a % 256 ∈ dirtyOffs l keep) ↔
            (a / 256 = line ∧ l.dirty.getLsbD (a % 256) = true ∧ keep (a % 256) = true) := by
          rw [hmem]
          constructor
          · rintro ⟨h1, h2⟩; exact ⟨h1, h2.2⟩
          · rintro ⟨h1, h2⟩; exact ⟨h1, Nat.mod_lt _ (by decide), h2⟩
        simp only [this]
      · intro n hn
        rw [ht']; unfold State.setLine
        rw [core_setCore_same, hcore]
        exact tget_tset_ne _ _ hn
      · intro l' hl'
        rw [hl] at hl'; injection hl' with hl'; subst hl'
        refine ⟨l.dirty &&& ~~~ (List.foldl (fun (m : BitVec 256) o => m ||| BitVec.ofNat 256 (2 ^ o)) 0
          (dirtyOffs l keep)), ?_, ?_⟩
        · rw [ht']; unfold State.setLine
          rw [core_setCore_same]
          exact tget_tset_same _ _ _
        · intro i hi
          simp only [BitVec.getLsbD_and, BitVec.getLsbD_not, hi, decide_true, Bool.true_and]
          rw [foldl_or_bit _ _ _ hi]
          rw [show (0 : BitVec 256).getLsbD i = false by simp, Bool.false_or]
          have hc : (dirtyOffs l keep).contains i = (l.dirty.getLsbD i && keep i) := by
            rw [Bool.eq_iff_iff, List.contains_iff_mem, hmem]
            simp [hi]
          rw [hc]
          cases l.dirty.getLsbD i <;> cases keep i <;> rfl
      · intro h; rw [hl] at h; cases h

/-! ### What memory operations leave alone -/

/-- Two states that differ in their memory side only: memory with its tags, poison, errors and granules, the hash
regions' dirty leaves, the cores' caches, and the lines of L0. -/
def MemSide (s t : State) : Prop :=
  ∃ m l o k p i b g r c, ∃ q : Hart → Tbl (BitVec 512), t = { s with
    mem := m, l2 := l, posted := o, hostMem := k, poison := p, l2Poison := i, broken := b, grain := g, regions := r
    cores := c
    hart := { s.hart with l0 := q s.hart }
    others := s.others.map fun h => { h with l0 := q h } }

theorem MemSide.refl (s : State) : MemSide s s :=
  ⟨_, _, _, _, _, _, _, _, _, _, fun h => h.l0, by
    have : (fun h : Hart => ({ h with l0 := h.l0 } : Hart)) = id := rfl
    rw [this, List.map_id]⟩

theorem MemSide.trans {s t u : State} (h1 : MemSide s t) (h2 : MemSide t u) : MemSide s u := by
  obtain ⟨_, _, _, _, _, _, _, _, _, _, q, rfl⟩ := h1
  obtain ⟨m, l, o, k, p, i, b, g, r, c, q', rfl⟩ := h2
  refine ⟨m, l, o, k, p, i, b, g, r, c, fun h => q' { h with l0 := q h }, ?_⟩
  simp only [List.map_map]
  rfl

/-- Of the hart in focus, the lines of L0 only. -/
theorem MemSide.hart {s t : State} (h : MemSide s t) : ∃ l0, t.hart = { s.hart with l0 := l0 } := by
  obtain ⟨_, _, _, _, _, _, _, _, _, _, q, rfl⟩ := h
  exact ⟨_, rfl⟩

theorem L2Writes.memSide {s t : State} (h : L2Writes s t) : MemSide s t := by
  obtain ⟨m, l, o, k, p, i, b, g, r, rfl⟩ := h
  refine ⟨m, l, o, k, p, i, b, g, r, s.cores, fun h => h.l0, ?_⟩
  have : (fun h : Hart => ({ h with l0 := h.l0 } : Hart)) = id := rfl
  rw [this, List.map_id]

theorem TagsOnly.memSide {s t : State} (h : TagsOnly s t) : MemSide s t := h.writes.memSide

theorem memSide_l2Write (s : State) (g : BitVec 2) (l : List Host.Cell) : MemSide s (s.l2Write g l) :=
  (l2Write_writes s g l).memSide

theorem memSide_l2WriteAt (s : State) (g : BitVec 2) (pa : Nat) (bs : List Byte) :
    MemSide s (s.l2WriteAt g pa bs) := memSide_l2Write s g _

theorem memSide_setCore (s : State) (c : Nat) (k : Core) : MemSide s (s.setCore c k) := by
  refine ⟨s.mem, s.l2, s.posted, s.hostMem, s.poison, s.l2Poison, s.broken, s.grain, s.regions, tset s.cores c k, fun h => h.l0, ?_⟩
  have : (fun h : Hart => ({ h with l0 := h.l0 } : Hart)) = id := rfl
  rw [this, List.map_id]
  rfl

theorem memSide_setLine (s : State) (c n : Nat) (l : L1Line) : MemSide s (s.setLine c n l) := memSide_setCore s c _

theorem memSide_foldl {α : Type} (f : State → α → State) (h : ∀ s a, MemSide s (f s a)) (l : List α) (s : State) :
    MemSide s (l.foldl f s) := by
  induction l generalizing s with
  | nil => exact MemSide.refl s
  | cons a l ih => exact (h s a).trans (ih _)

/-- The lines of L0 that no byte of a range lies in. -/
def Hart.l0Without (h : Hart) (pa n : Nat) : Tbl (BitVec 512) :=
  h.l0.filter fun p => decide (64 * p.1 + 64 ≤ pa ∨ pa + n ≤ 64 * p.1)

/-- L0 lines dropped change L0 only. -/
theorem memSide_dropL0 (s : State) (c : Nat) (which : Nat → Bool) (pa n : Nat) : MemSide s (s.dropL0 c which pa n) := by
  have key : ∀ h : Hart, (if h.core = c ∧ which h.uid = true then { h with l0 := h.l0Without pa n } else h) =
      { h with l0 := if h.core = c ∧ which h.uid = true then h.l0Without pa n else h.l0 } := by
    intro h
    by_cases hc : h.core = c ∧ which h.uid = true
    · rw [if_pos hc, if_pos hc]
    · rw [if_neg hc, if_neg hc]
  refine ⟨s.mem, s.l2, s.posted, s.hostMem, s.poison, s.l2Poison, s.broken, s.grain, s.regions, s.cores,
    fun h => (if h.core = c ∧ which h.uid = true then h.l0Without pa n else h.l0), ?_⟩
  unfold State.dropL0 State.mapHarts
  have e := key s.hart
  have e' : s.others.map (fun h => if h.core = c ∧ which h.uid = true then { h with l0 := h.l0Without pa n } else h) =
      s.others.map fun h => { h with l0 := if h.core = c ∧ which h.uid = true then h.l0Without pa n else h.l0 } :=
    List.map_congr_left fun h _ => key h
  rw [← e, ← e']
  rfl

theorem memSide_writeBack (s : State) (c line : Nat) (keep : Nat → Bool) : MemSide s (s.writeBack c line keep) := by
  unfold State.writeBack
  split
  · exact MemSide.refl s
  · simp only
    split
    · exact MemSide.refl s
    · refine ((memSide_l2Write s _ _).trans (memSide_foldl _ ?_ _ _)).trans (memSide_setLine _ _ _ _)
      intro t o
      split
      · exact (addPoison_tags t _).memSide
      · exact MemSide.refl t

theorem memSide_dropLine (s : State) (c line : Nat) : MemSide s (s.dropLine c line) :=
  ((memSide_writeBack s c line _).trans (memSide_dropL0 _ _ _ _ _)).trans (memSide_setCore _ _ _)

theorem memSide_writeBackAll (s : State) (c : Nat) (b : Bool) : MemSide s (s.writeBackAll c b) :=
  memSide_foldl _ (fun t n => memSide_writeBack t c n _) _ s

theorem memSide_invalidate (s : State) (c : Nat) (b : Bool) : MemSide s (s.invalidate c b) :=
  (memSide_foldl _ (fun t n => memSide_dropLine t c n) _ s).trans (memSide_setCore _ _ _)

theorem memSide_dropGathered (s : State) (c pa n : Nat) : MemSide s (s.dropGathered c pa n) := by
  unfold State.dropGathered
  dsimp only
  split
  · exact MemSide.refl s
  · exact memSide_setCore _ _ _

theorem memSide_evictOne (s : State) (c : Nat) : MemSide s (s.evictOne c) := by
  unfold State.evictOne
  dsimp only
  split
  · exact memSide_setCore _ _ _
  · exact memSide_dropLine _ _ _

theorem memSide_evictTo (s : State) (c n f : Nat) : MemSide s (s.evictTo c n f) := by
  induction f generalizing s with
  | zero => exact MemSide.refl s
  | succ f ih =>
    unfold State.evictTo
    split
    · exact MemSide.refl s
    · exact (memSide_evictOne s c).trans (ih _)

theorem memSide_l1Room (s : State) (c : Nat) : MemSide s (s.l1Room c) := memSide_evictTo s c _ _

theorem memSide_l1Fill (s : State) (c : Nat) (t : Xlat) (p : BitVec 2) (n : Nat) : MemSide s (s.l1Fill c t p n) := by
  induction n with
  | zero => exact MemSide.refl s
  | succ n ih =>
    refine ih.trans ?_
    refine MemSide.trans ?_ (memSide_setLine _ _ _ _)
    split
    · exact MemSide.refl _
    · exact memSide_l1Room _ _

theorem memSide_putLine (c : Nat) (d k : Bool) (pa : Nat) (bs : List Byte) (s : State) :
    MemSide s (s.putLine c d k pa bs) := by
  induction bs generalizing s pa with
  | nil => exact MemSide.refl s
  | cons b bs ih =>
    unfold State.putLine
    dsimp only
    refine MemSide.trans ?_ (ih _ _)
    split
    · split
      · exact memSide_setLine _ _ _ _
      · exact MemSide.refl s
    · exact MemSide.refl s

theorem memSide_hostCopy (s : State) (t : Xlat) (n : Nat) : MemSide s (s.hostCopy t n) := (hostCopy_writes s t n).memSide

theorem memSide_l2Take (s : State) (t : Xlat) (pa n : Nat) : MemSide s (s.l2Take t pa n) := (l2Take_tags s t pa n).memSide

theorem memSide_l1Took (s : State) (t : Xlat) (n : Nat) : MemSide s (s.l1Took t n) := memSide_l2Take s t _ _

/-- A write at a translated address changes the memory side only. -/
theorem memSide_writePhys (s : State) (a : Alloc) (h : Bool) (t : Xlat) (bs : List Byte) :
    MemSide s (s.writePhys a h t bs) := by
  unfold State.writePhys
  dsimp only
  split
  · exact memSide_l2WriteAt _ _ _ _
  · refine (memSide_dropGathered s s.hart.core t.pa bs.length).trans ?_
    split
    · split
      · exact (((memSide_l2WriteAt _ _ _ _).trans (memSide_l1Fill _ _ _ _ _)).trans
          (memSide_putLine _ _ _ _ _ _)).trans (memSide_l1Took _ _ _)
      · exact ((memSide_l1Fill _ _ _ _ _).trans (memSide_putLine _ _ _ _ _ _)).trans (memSide_l1Took _ _ _)
    · exact (((memSide_hostCopy _ _ _).trans (memSide_l2WriteAt _ _ _ _)).trans
        (memSide_putLine _ _ _ _ _ _)).trans (memSide_hostCopy _ _ _)

/-- A read at a translated address changes the memory side only. -/
theorem memSide_readPhys {s t : State} {a : Alloc} {x : Xlat} {n : Nat} {bs : List Byte}
    (h : s.readPhys a x n = .ok (bs, t)) : MemSide s t := by
  unfold State.readPhys at h
  simp only [bind, Except.bind, pure, Except.pure] at h
  split at h
  · split at h
    · cases h
    · injection h with h; injection h with _ h; subst h; exact memSide_l2Take _ _ _ _
  · split at h
    · split at h
      · cases h
      · injection h with h; injection h with _ h; subst h
        exact ((memSide_foldl _ (fun t i => memSide_writeBack t _ _ _) _ s).trans (memSide_hostCopy _ _ _)).trans
          (memSide_l2Take _ _ _ _)
    · split at h
      · cases h
      · injection h with h; injection h with _ h; subst h; exact (memSide_hostCopy _ _ _).trans (memSide_l2Take _ _ _ _)
    · split at h
      · cases h
      · injection h with h; injection h with _ h; subst h
        exact (memSide_l1Fill _ _ _ _ _).trans (memSide_l1Took _ _ _)

/-! ### Write-backs of many lines -/

/-- A line with nothing dirty. -/
def L1Line.clean (l : L1Line) : L1Line := { l with dirty := 0 }

/-- What write-backs of whole lines do (R80, R111): memory takes their dirty bytes, and they are clean. -/
theorem writeBacks_spec (c : Nat) (ns : List Nat) (s : State) (hw : Memory.wf s.mem = true) :
    let t := ns.foldl (fun (t : State) n => t.writeBack c n fun _ => true) s
    Memory.wf t.mem = true ∧
    (∀ a, cellGet t.mem a = match tget (s.core c).l1 (a / 256) with
      | some l => if a / 256 ∈ ns ∧ l.dirty.getLsbD (a % 256) = true then l.byte (a % 256) else cellGet s.mem a
      | none => cellGet s.mem a) ∧
    (∀ n, tget (t.core c).l1 n = (tget (s.core c).l1 n).map fun l => if n ∈ ns then l.clean else l) := by
  induction ns generalizing s with
  | nil =>
    refine ⟨hw, fun a => ?_, fun n => ?_⟩
    · cases tget (s.core c).l1 (a / 256) <;> simp
    · cases h : tget (s.core c).l1 n <;> simp [h]
  | cons m ns ih =>
    obtain ⟨h1, _, h2, h3, h4, h5⟩ := writeBack_spec s c m (fun _ => true) hw
    obtain ⟨i1, i2, i3⟩ := ih _ h1
    have hline : ∀ n, tget ((s.writeBack c m fun _ => true).core c).l1 n =
        (tget (s.core c).l1 n).map fun l => if n = m then l.clean else l := by
      intro n
      by_cases hn : n = m
      · subst hn
        cases hl : tget (s.core c).l1 n with
        | none => rw [h5 hl]; rfl
        | some l =>
          obtain ⟨d, hd, hb⟩ := h4 l hl
          have : d = 0 := by
            apply BitVec.eq_of_getLsbD_eq
            intro i hi
            rw [hb i hi]; simp
          rw [hd, this]; simp [L1Line.clean]
      · rw [h3 n hn]
        cases tget (s.core c).l1 n <;> simp [hn]
    refine ⟨i1, fun a => ?_, fun n => ?_⟩
    · rw [List.foldl_cons, i2 a, hline, h2 a]
      cases hl : tget (s.core c).l1 (a / 256) with
      | none =>
        simp only [Option.map_none]
        cases hm : tget (s.core c).l1 m with
        | none => rfl
        | some l =>
          simp only
          rw [if_neg]
          rintro ⟨h, _⟩
          rw [h] at hl; rw [hl] at hm; cases hm
      | some l =>
        simp only [Option.map_some]
        by_cases ha : a / 256 = m
        · subst ha
          rw [hl]
          simp [L1Line.clean]
        · have : (match tget (s.core c).l1 m with
              | some l => if a / 256 = m ∧ l.dirty.getLsbD (a % 256) = true ∧ True then l.byte (a % 256)
                  else cellGet s.mem a
              | none => cellGet s.mem a) = cellGet s.mem a := by
            split
            · rw [if_neg fun h => ha h.1]
            · rfl
          rw [this]
          simp only [List.mem_cons, ha, false_or, if_false]
    · rw [List.foldl_cons, i3 n, hline]
      cases tget (s.core c).l1 n with
      | none => rfl
      | some l =>
        simp only [Option.map_some, List.mem_cons]
        by_cases hn : n = m
        · by_cases hm : n ∈ ns <;> simp [hn, L1Line.clean]
        · simp [hn]

theorem mem_lines {s : State} {c n : Nat} {b : Bool} {l : L1Line} (h : tget (s.core c).l1 n = some l)
    (hb : b = false ∨ l.shared = true) : n ∈ s.lines c b := by
  unfold State.lines
  refine List.mem_map.2 ⟨(n, l), List.mem_filter.2 ⟨tget_mem h, ?_⟩, rfl⟩
  rcases hb with hb | hb <;> simp [hb]

/-- After a write-back of all pages, memory holds the core's dirty bytes, and no byte is dirty (R111). -/
theorem writeBackAll_spec (s : State) (c : Nat) (hw : Memory.wf s.mem = true) :
    let t := s.writeBackAll c false
    Memory.wf t.mem = true ∧
    (∀ a, cellGet t.mem a = match tget (s.core c).l1 (a / 256) with
      | some l => if l.dirty.getLsbD (a % 256) = true then l.byte (a % 256) else cellGet s.mem a
      | none => cellGet s.mem a) ∧
    (∀ n, tget (t.core c).l1 n = (tget (s.core c).l1 n).map L1Line.clean) := by
  obtain ⟨h1, h2, h3⟩ := writeBacks_spec c (s.lines c false) s hw
  refine ⟨h1, fun a => ?_, fun n => ?_⟩
  · unfold State.writeBackAll
    rw [h2 a]
    cases hl : tget (s.core c).l1 (a / 256) with
    | none => rfl
    | some l => simp [mem_lines hl (.inl rfl)]
  · unfold State.writeBackAll
    rw [h3 n]
    cases hl : tget (s.core c).l1 n with
    | none => rfl
    | some l => simp [mem_lines hl (.inl rfl)]

end Sys2Proof.Machine
end

