-- ==== Sys2Proof/Laws/PerInstr.lean ====
section
/-! SUPPORT. The encoder and the decoder agree, instruction by instruction. -/

namespace Sys2Proof.Laws

/-- The word of a well-formed instruction decodes to it (R212 to R222, R203, R204). -/
def RoundTrip.Statement (i : Instr) : Prop :=
  i.wf = true →
    (i.wordClass = .semantic → decode (encode i) = .ok i) ∧
    (i.wordClass = .advice → decodeAdvice (encode i) = .ok i)


theorem RoundTrip.add (d : Reg) (a : Reg) (b : Reg) : RoundTrip.Statement (.add d a b) := by
  refine fun hw => ⟨fun _ => ?_, fun c => WordClass.noConfusion c⟩
  rw [show encode (.add d a b) = packRR 0x01 0 b a d 0 from rfl,
    decode_01 _ (by rw [major, fld_packRR_op]; rfl)]
  simp only [decodeInt, fld_packRR_m, fld_packRR_d, fld_packRR_a, fld_packRR_b, fld_packRR_fn, rrFn, rrB,
    rrA, rrD, rrM]
  rfl

theorem RoundTrip.sub (d : Reg) (a : Reg) (b : Reg) : RoundTrip.Statement (.sub d a b) := by
  refine fun hw => ⟨fun _ => ?_, fun c => WordClass.noConfusion c⟩
  rw [show encode (.sub d a b) = packRR 0x01 1 b a d 0 from rfl,
    decode_01 _ (by rw [major, fld_packRR_op]; rfl)]
  simp only [decodeInt, fld_packRR_m, fld_packRR_d, fld_packRR_a, fld_packRR_b, fld_packRR_fn, rrFn, rrB,
    rrA, rrD, rrM]
  rfl

theorem RoundTrip.and (d : Reg) (a : Reg) (b : Reg) : RoundTrip.Statement (.and d a b) := by
  refine fun hw => ⟨fun _ => ?_, fun c => WordClass.noConfusion c⟩
  rw [show encode (.and d a b) = packRR 0x01 2 b a d 0 from rfl,
    decode_01 _ (by rw [major, fld_packRR_op]; rfl)]
  simp only [decodeInt, fld_packRR_m, fld_packRR_d, fld_packRR_a, fld_packRR_b, fld_packRR_fn, rrFn, rrB,
    rrA, rrD, rrM]
  rfl

theorem RoundTrip.or (d : Reg) (a : Reg) (b : Reg) : RoundTrip.Statement (.or d a b) := by
  refine fun hw => ⟨fun _ => ?_, fun c => WordClass.noConfusion c⟩
  rw [show encode (.or d a b) = packRR 0x01 3 b a d 0 from rfl,
    decode_01 _ (by rw [major, fld_packRR_op]; rfl)]
  simp only [decodeInt, fld_packRR_m, fld_packRR_d, fld_packRR_a, fld_packRR_b, fld_packRR_fn, rrFn, rrB,
    rrA, rrD, rrM]
  rfl

theorem RoundTrip.xor (d : Reg) (a : Reg) (b : Reg) : RoundTrip.Statement (.xor d a b) := by
  refine fun hw => ⟨fun _ => ?_, fun c => WordClass.noConfusion c⟩
  rw [show encode (.xor d a b) = packRR 0x01 4 b a d 0 from rfl,
    decode_01 _ (by rw [major, fld_packRR_op]; rfl)]
  simp only [decodeInt, fld_packRR_m, fld_packRR_d, fld_packRR_a, fld_packRR_b, fld_packRR_fn, rrFn, rrB,
    rrA, rrD, rrM]
  rfl

theorem RoundTrip.sll (d : Reg) (a : Reg) (b : Reg) : RoundTrip.Statement (.sll d a b) := by
  refine fun hw => ⟨fun _ => ?_, fun c => WordClass.noConfusion c⟩
  rw [show encode (.sll d a b) = packRR 0x01 5 b a d 0 from rfl,
    decode_01 _ (by rw [major, fld_packRR_op]; rfl)]
  simp only [decodeInt, fld_packRR_m, fld_packRR_d, fld_packRR_a, fld_packRR_b, fld_packRR_fn, rrFn, rrB,
    rrA, rrD, rrM]
  rfl

theorem RoundTrip.srl (d : Reg) (a : Reg) (b : Reg) : RoundTrip.Statement (.srl d a b) := by
  refine fun hw => ⟨fun _ => ?_, fun c => WordClass.noConfusion c⟩
  rw [show encode (.srl d a b) = packRR 0x01 6 b a d 0 from rfl,
    decode_01 _ (by rw [major, fld_packRR_op]; rfl)]
  simp only [decodeInt, fld_packRR_m, fld_packRR_d, fld_packRR_a, fld_packRR_b, fld_packRR_fn, rrFn, rrB,
    rrA, rrD, rrM]
  rfl

theorem RoundTrip.sra (d : Reg) (a : Reg) (b : Reg) : RoundTrip.Statement (.sra d a b) := by
  refine fun hw => ⟨fun _ => ?_, fun c => WordClass.noConfusion c⟩
  rw [show encode (.sra d a b) = packRR 0x01 7 b a d 0 from rfl,
    decode_01 _ (by rw [major, fld_packRR_op]; rfl)]
  simp only [decodeInt, fld_packRR_m, fld_packRR_d, fld_packRR_a, fld_packRR_b, fld_packRR_fn, rrFn, rrB,
    rrA, rrD, rrM]
  rfl

theorem RoundTrip.slt (d : Reg) (a : Reg) (b : Reg) : RoundTrip.Statement (.slt d a b) := by
  refine fun hw => ⟨fun _ => ?_, fun c => WordClass.noConfusion c⟩
  rw [show encode (.slt d a b) = packRR 0x01 8 b a d 0 from rfl,
    decode_01 _ (by rw [major, fld_packRR_op]; rfl)]
  simp only [decodeInt, fld_packRR_m, fld_packRR_d, fld_packRR_a, fld_packRR_b, fld_packRR_fn, rrFn, rrB,
    rrA, rrD, rrM]
  rfl

theorem RoundTrip.sltu (d : Reg) (a : Reg) (b : Reg) : RoundTrip.Statement (.sltu d a b) := by
  refine fun hw => ⟨fun _ => ?_, fun c => WordClass.noConfusion c⟩
  rw [show encode (.sltu d a b) = packRR 0x01 9 b a d 0 from rfl,
    decode_01 _ (by rw [major, fld_packRR_op]; rfl)]
  simp only [decodeInt, fld_packRR_m, fld_packRR_d, fld_packRR_a, fld_packRR_b, fld_packRR_fn, rrFn, rrB,
    rrA, rrD, rrM]
  rfl

theorem RoundTrip.mul (d : Reg) (a : Reg) (b : Reg) : RoundTrip.Statement (.mul d a b) := by
  refine fun hw => ⟨fun _ => ?_, fun c => WordClass.noConfusion c⟩
  rw [show encode (.mul d a b) = packRR 0x01 10 b a d 0 from rfl,
    decode_01 _ (by rw [major, fld_packRR_op]; rfl)]
  simp only [decodeInt, fld_packRR_m, fld_packRR_d, fld_packRR_a, fld_packRR_b, fld_packRR_fn, rrFn, rrB,
    rrA, rrD, rrM]
  rfl

theorem RoundTrip.mulh (d : Reg) (a : Reg) (b : Reg) : RoundTrip.Statement (.mulh d a b) := by
  refine fun hw => ⟨fun _ => ?_, fun c => WordClass.noConfusion c⟩
  rw [show encode (.mulh d a b) = packRR 0x01 11 b a d 0 from rfl,
    decode_01 _ (by rw [major, fld_packRR_op]; rfl)]
  simp only [decodeInt, fld_packRR_m, fld_packRR_d, fld_packRR_a, fld_packRR_b, fld_packRR_fn, rrFn, rrB,
    rrA, rrD, rrM]
  rfl

theorem RoundTrip.mulhu (d : Reg) (a : Reg) (b : Reg) : RoundTrip.Statement (.mulhu d a b) := by
  refine fun hw => ⟨fun _ => ?_, fun c => WordClass.noConfusion c⟩
  rw [show encode (.mulhu d a b) = packRR 0x01 12 b a d 0 from rfl,
    decode_01 _ (by rw [major, fld_packRR_op]; rfl)]
  simp only [decodeInt, fld_packRR_m, fld_packRR_d, fld_packRR_a, fld_packRR_b, fld_packRR_fn, rrFn, rrB,
    rrA, rrD, rrM]
  rfl

theorem RoundTrip.div (d : Reg) (a : Reg) (b : Reg) : RoundTrip.Statement (.div d a b) := by
  refine fun hw => ⟨fun _ => ?_, fun c => WordClass.noConfusion c⟩
  rw [show encode (.div d a b) = packRR 0x01 13 b a d 0 from rfl,
    decode_01 _ (by rw [major, fld_packRR_op]; rfl)]
  simp only [decodeInt, fld_packRR_m, fld_packRR_d, fld_packRR_a, fld_packRR_b, fld_packRR_fn, rrFn, rrB,
    rrA, rrD, rrM]
  rfl

theorem RoundTrip.divu (d : Reg) (a : Reg) (b : Reg) : RoundTrip.Statement (.divu d a b) := by
  refine fun hw => ⟨fun _ => ?_, fun c => WordClass.noConfusion c⟩
  rw [show encode (.divu d a b) = packRR 0x01 14 b a d 0 from rfl,
    decode_01 _ (by rw [major, fld_packRR_op]; rfl)]
  simp only [decodeInt, fld_packRR_m, fld_packRR_d, fld_packRR_a, fld_packRR_b, fld_packRR_fn, rrFn, rrB,
    rrA, rrD, rrM]
  rfl

theorem RoundTrip.rem (d : Reg) (a : Reg) (b : Reg) : RoundTrip.Statement (.rem d a b) := by
  refine fun hw => ⟨fun _ => ?_, fun c => WordClass.noConfusion c⟩
  rw [show encode (.rem d a b) = packRR 0x01 15 b a d 0 from rfl,
    decode_01 _ (by rw [major, fld_packRR_op]; rfl)]
  simp only [decodeInt, fld_packRR_m, fld_packRR_d, fld_packRR_a, fld_packRR_b, fld_packRR_fn, rrFn, rrB,
    rrA, rrD, rrM]
  rfl

theorem RoundTrip.remu (d : Reg) (a : Reg) (b : Reg) : RoundTrip.Statement (.remu d a b) := by
  refine fun hw => ⟨fun _ => ?_, fun c => WordClass.noConfusion c⟩
  rw [show encode (.remu d a b) = packRR 0x01 16 b a d 0 from rfl,
    decode_01 _ (by rw [major, fld_packRR_op]; rfl)]
  simp only [decodeInt, fld_packRR_m, fld_packRR_d, fld_packRR_a, fld_packRR_b, fld_packRR_fn, rrFn, rrB,
    rrA, rrD, rrM]
  rfl

theorem RoundTrip.min (d : Reg) (a : Reg) (b : Reg) : RoundTrip.Statement (.min d a b) := by
  refine fun hw => ⟨fun _ => ?_, fun c => WordClass.noConfusion c⟩
  rw [show encode (.min d a b) = packRR 0x01 17 b a d 0 from rfl,
    decode_01 _ (by rw [major, fld_packRR_op]; rfl)]
  simp only [decodeInt, fld_packRR_m, fld_packRR_d, fld_packRR_a, fld_packRR_b, fld_packRR_fn, rrFn, rrB,
    rrA, rrD, rrM]
  rfl

theorem RoundTrip.max (d : Reg) (a : Reg) (b : Reg) : RoundTrip.Statement (.max d a b) := by
  refine fun hw => ⟨fun _ => ?_, fun c => WordClass.noConfusion c⟩
  rw [show encode (.max d a b) = packRR 0x01 18 b a d 0 from rfl,
    decode_01 _ (by rw [major, fld_packRR_op]; rfl)]
  simp only [decodeInt, fld_packRR_m, fld_packRR_d, fld_packRR_a, fld_packRR_b, fld_packRR_fn, rrFn, rrB,
    rrA, rrD, rrM]
  rfl

theorem RoundTrip.minu (d : Reg) (a : Reg) (b : Reg) : RoundTrip.Statement (.minu d a b) := by
  refine fun hw => ⟨fun _ => ?_, fun c => WordClass.noConfusion c⟩
  rw [show encode (.minu d a b) = packRR 0x01 19 b a d 0 from rfl,
    decode_01 _ (by rw [major, fld_packRR_op]; rfl)]
  simp only [decodeInt, fld_packRR_m, fld_packRR_d, fld_packRR_a, fld_packRR_b, fld_packRR_fn, rrFn, rrB,
    rrA, rrD, rrM]
  rfl

theorem RoundTrip.maxu (d : Reg) (a : Reg) (b : Reg) : RoundTrip.Statement (.maxu d a b) := by
  refine fun hw => ⟨fun _ => ?_, fun c => WordClass.noConfusion c⟩
  rw [show encode (.maxu d a b) = packRR 0x01 20 b a d 0 from rfl,
    decode_01 _ (by rw [major, fld_packRR_op]; rfl)]
  simp only [decodeInt, fld_packRR_m, fld_packRR_d, fld_packRR_a, fld_packRR_b, fld_packRR_fn, rrFn, rrB,
    rrA, rrD, rrM]
  rfl

theorem RoundTrip.clz (d : Reg) (a : Reg) : RoundTrip.Statement (.clz d a) := by
  refine fun hw => ⟨fun _ => ?_, fun c => WordClass.noConfusion c⟩
  rw [show encode (.clz d a) = packRR 0x01 21 0 a d 0 from rfl,
    decode_01 _ (by rw [major, fld_packRR_op]; rfl)]
  simp only [decodeInt, fld_packRR_m, fld_packRR_d, fld_packRR_a, fld_packRR_b, fld_packRR_fn, rrFn, rrB,
    rrA, rrD, rrM]
  rfl

theorem RoundTrip.ctz (d : Reg) (a : Reg) : RoundTrip.Statement (.ctz d a) := by
  refine fun hw => ⟨fun _ => ?_, fun c => WordClass.noConfusion c⟩
  rw [show encode (.ctz d a) = packRR 0x01 22 0 a d 0 from rfl,
    decode_01 _ (by rw [major, fld_packRR_op]; rfl)]
  simp only [decodeInt, fld_packRR_m, fld_packRR_d, fld_packRR_a, fld_packRR_b, fld_packRR_fn, rrFn, rrB,
    rrA, rrD, rrM]
  rfl

theorem RoundTrip.popc (d : Reg) (a : Reg) : RoundTrip.Statement (.popc d a) := by
  refine fun hw => ⟨fun _ => ?_, fun c => WordClass.noConfusion c⟩
  rw [show encode (.popc d a) = packRR 0x01 23 0 a d 0 from rfl,
    decode_01 _ (by rw [major, fld_packRR_op]; rfl)]
  simp only [decodeInt, fld_packRR_m, fld_packRR_d, fld_packRR_a, fld_packRR_b, fld_packRR_fn, rrFn, rrB,
    rrA, rrD, rrM]
  rfl

theorem RoundTrip.jalr (d : Reg) (a : Reg) : RoundTrip.Statement (.jalr d a) := by
  refine fun hw => ⟨fun _ => ?_, fun c => WordClass.noConfusion c⟩
  rw [show encode (.jalr d a) = packRR 0x01 24 0 a d 0 from rfl,
    decode_01 _ (by rw [major, fld_packRR_op]; rfl)]
  simp only [decodeInt, fld_packRR_m, fld_packRR_d, fld_packRR_a, fld_packRR_b, fld_packRR_fn, rrFn, rrB,
    rrA, rrD, rrM]
  rfl

theorem RoundTrip.addi (d : Reg) (a : Reg) (c : BitVec 16) : RoundTrip.Statement (.addi d a c) := by
  refine fun hw => ⟨fun _ => ?_, fun c => WordClass.noConfusion c⟩
  rw [show encode (.addi d a c) = packRI 0x2 c a d from rfl, decode_02 _ (by rw [major, fld_packRI_op]; rfl)]
  simp only [fld_packRI_d, fld_packRI_a, fld_packRI_imm, riImm, riA, riD]

theorem RoundTrip.andi (d : Reg) (a : Reg) (c : BitVec 16) : RoundTrip.Statement (.andi d a c) := by
  refine fun hw => ⟨fun _ => ?_, fun c => WordClass.noConfusion c⟩
  rw [show encode (.andi d a c) = packRI 0x3 c a d from rfl, decode_03 _ (by rw [major, fld_packRI_op]; rfl)]
  simp only [fld_packRI_d, fld_packRI_a, fld_packRI_imm, riImm, riA, riD]

theorem RoundTrip.ori (d : Reg) (a : Reg) (c : BitVec 16) : RoundTrip.Statement (.ori d a c) := by
  refine fun hw => ⟨fun _ => ?_, fun c => WordClass.noConfusion c⟩
  rw [show encode (.ori d a c) = packRI 0x4 c a d from rfl, decode_04 _ (by rw [major, fld_packRI_op]; rfl)]
  simp only [fld_packRI_d, fld_packRI_a, fld_packRI_imm, riImm, riA, riD]

theorem RoundTrip.xori (d : Reg) (a : Reg) (c : BitVec 16) : RoundTrip.Statement (.xori d a c) := by
  refine fun hw => ⟨fun _ => ?_, fun c => WordClass.noConfusion c⟩
  rw [show encode (.xori d a c) = packRI 0x5 c a d from rfl, decode_05 _ (by rw [major, fld_packRI_op]; rfl)]
  simp only [fld_packRI_d, fld_packRI_a, fld_packRI_imm, riImm, riA, riD]

theorem RoundTrip.slti (d : Reg) (a : Reg) (c : BitVec 16) : RoundTrip.Statement (.slti d a c) := by
  refine fun hw => ⟨fun _ => ?_, fun c => WordClass.noConfusion c⟩
  rw [show encode (.slti d a c) = packRI 0x6 c a d from rfl, decode_06 _ (by rw [major, fld_packRI_op]; rfl)]
  simp only [fld_packRI_d, fld_packRI_a, fld_packRI_imm, riImm, riA, riD]

theorem RoundTrip.sltiu (d : Reg) (a : Reg) (c : BitVec 16) : RoundTrip.Statement (.sltiu d a c) := by
  refine fun hw => ⟨fun _ => ?_, fun c => WordClass.noConfusion c⟩
  rw [show encode (.sltiu d a c) = packRI 0x7 c a d from rfl, decode_07 _ (by rw [major, fld_packRI_op]; rfl)]
  simp only [fld_packRI_d, fld_packRI_a, fld_packRI_imm, riImm, riA, riD]

theorem RoundTrip.lui (d : Reg) (c : BitVec 16) : RoundTrip.Statement (.lui d c) := by
  refine fun hw => ⟨fun _ => ?_, fun c => WordClass.noConfusion c⟩
  rw [show encode (.lui d c) = packRI 0x08 c 0 d from rfl, decode_08 _ (by rw [major, fld_packRI_op]; rfl)]
  simp only [fld_packRI_d, fld_packRI_a, fld_packRI_imm, riImm, riA, riD]
  rfl

theorem RoundTrip.slli (d : Reg) (a : Reg) (c : BitVec 6) : RoundTrip.Statement (.slli d a c) := by
  refine fun hw => ⟨fun _ => ?_, fun c => WordClass.noConfusion c⟩
  rw [show encode (.slli d a c) = packRI 0x09 (BitVec.ofNat 16 (c.toNat + 0)) a d from rfl,
    decode_09 _ (by rw [major, fld_packRI_op]; rfl)]
  simp only [decodeShi, fld_packRI_d, fld_packRI_a, fld_packRI_22_2, fld_packRI_24_8, fld_packRI_16_6, riA,
    riD, shift_0, shift_hi0, shift_lo0]
  rfl

theorem RoundTrip.srli (d : Reg) (a : Reg) (c : BitVec 6) : RoundTrip.Statement (.srli d a c) := by
  refine fun hw => ⟨fun _ => ?_, fun c => WordClass.noConfusion c⟩
  rw [show encode (.srli d a c) = packRI 0x09 (BitVec.ofNat 16 (c.toNat + 64)) a d from rfl,
    decode_09 _ (by rw [major, fld_packRI_op]; rfl)]
  simp only [decodeShi, fld_packRI_d, fld_packRI_a, fld_packRI_22_2, fld_packRI_24_8, fld_packRI_16_6, riA,
    riD, shift_1, shift_hi1, shift_lo1]
  rfl

theorem RoundTrip.srai (d : Reg) (a : Reg) (c : BitVec 6) : RoundTrip.Statement (.srai d a c) := by
  refine fun hw => ⟨fun _ => ?_, fun c => WordClass.noConfusion c⟩
  rw [show encode (.srai d a c) = packRI 0x09 (BitVec.ofNat 16 (c.toNat + 128)) a d from rfl,
    decode_09 _ (by rw [major, fld_packRI_op]; rfl)]
  simp only [decodeShi, fld_packRI_d, fld_packRI_a, fld_packRI_22_2, fld_packRI_24_8, fld_packRI_16_6, riA,
    riD, shift_2, shift_hi2, shift_lo2]
  rfl

theorem RoundTrip.ldB (d : Reg) (a : Reg) (c : BitVec 16) : RoundTrip.Statement (.ldB d a c) := by
  refine fun hw => ⟨fun _ => ?_, fun c => WordClass.noConfusion c⟩
  rw [show encode (.ldB d a c) = packRI 0x10 c a d from rfl, decode_10 _ (by rw [major, fld_packRI_op]; rfl)]
  simp only [fld_packRI_d, fld_packRI_a, fld_packRI_imm, riImm, riA, riD]

theorem RoundTrip.ldH (d : Reg) (a : Reg) (c : BitVec 16) : RoundTrip.Statement (.ldH d a c) := by
  refine fun hw => ⟨fun _ => ?_, fun c => WordClass.noConfusion c⟩
  rw [show encode (.ldH d a c) = packRI 0x11 c a d from rfl, decode_11 _ (by rw [major, fld_packRI_op]; rfl)]
  simp only [fld_packRI_d, fld_packRI_a, fld_packRI_imm, riImm, riA, riD]

theorem RoundTrip.ldW (d : Reg) (a : Reg) (c : BitVec 16) : RoundTrip.Statement (.ldW d a c) := by
  refine fun hw => ⟨fun _ => ?_, fun c => WordClass.noConfusion c⟩
  rw [show encode (.ldW d a c) = packRI 0x12 c a d from rfl, decode_12 _ (by rw [major, fld_packRI_op]; rfl)]
  simp only [fld_packRI_d, fld_packRI_a, fld_packRI_imm, riImm, riA, riD]

theorem RoundTrip.ldD (d : Reg) (a : Reg) (c : BitVec 16) : RoundTrip.Statement (.ldD d a c) := by
  refine fun hw => ⟨fun _ => ?_, fun c => WordClass.noConfusion c⟩
  rw [show encode (.ldD d a c) = packRI 0x13 c a d from rfl, decode_13 _ (by rw [major, fld_packRI_op]; rfl)]
  simp only [fld_packRI_d, fld_packRI_a, fld_packRI_imm, riImm, riA, riD]

theorem RoundTrip.ldWNc (d : Reg) (a : Reg) (c : BitVec 16) : RoundTrip.Statement (.ldWNc d a c) := by
  refine fun hw => ⟨fun _ => ?_, fun c => WordClass.noConfusion c⟩
  rw [show encode (.ldWNc d a c) = packRI 0x14 c a d from rfl,
    decode_14 _ (by rw [major, fld_packRI_op]; rfl)]
  simp only [fld_packRI_d, fld_packRI_a, fld_packRI_imm, riImm, riA, riD]

theorem RoundTrip.ldDNc (d : Reg) (a : Reg) (c : BitVec 16) : RoundTrip.Statement (.ldDNc d a c) := by
  refine fun hw => ⟨fun _ => ?_, fun c => WordClass.noConfusion c⟩
  rw [show encode (.ldDNc d a c) = packRI 0x15 c a d from rfl,
    decode_15 _ (by rw [major, fld_packRI_op]; rfl)]
  simp only [fld_packRI_d, fld_packRI_a, fld_packRI_imm, riImm, riA, riD]

theorem RoundTrip.stB (d : Reg) (a : Reg) (c : BitVec 16) : RoundTrip.Statement (.stB d a c) := by
  refine fun hw => ⟨fun _ => ?_, fun c => WordClass.noConfusion c⟩
  rw [show encode (.stB d a c) = packRI 0x16 c a d from rfl, decode_16 _ (by rw [major, fld_packRI_op]; rfl)]
  simp only [fld_packRI_d, fld_packRI_a, fld_packRI_imm, riImm, riA, riD]

theorem RoundTrip.stH (d : Reg) (a : Reg) (c : BitVec 16) : RoundTrip.Statement (.stH d a c) := by
  refine fun hw => ⟨fun _ => ?_, fun c => WordClass.noConfusion c⟩
  rw [show encode (.stH d a c) = packRI 0x17 c a d from rfl, decode_17 _ (by rw [major, fld_packRI_op]; rfl)]
  simp only [fld_packRI_d, fld_packRI_a, fld_packRI_imm, riImm, riA, riD]

theorem RoundTrip.stW (d : Reg) (a : Reg) (c : BitVec 16) : RoundTrip.Statement (.stW d a c) := by
  refine fun hw => ⟨fun _ => ?_, fun c => WordClass.noConfusion c⟩
  rw [show encode (.stW d a c) = packRI 0x18 c a d from rfl, decode_18 _ (by rw [major, fld_packRI_op]; rfl)]
  simp only [fld_packRI_d, fld_packRI_a, fld_packRI_imm, riImm, riA, riD]

theorem RoundTrip.stD (d : Reg) (a : Reg) (c : BitVec 16) : RoundTrip.Statement (.stD d a c) := by
  refine fun hw => ⟨fun _ => ?_, fun c => WordClass.noConfusion c⟩
  rw [show encode (.stD d a c) = packRI 0x19 c a d from rfl, decode_19 _ (by rw [major, fld_packRI_op]; rfl)]
  simp only [fld_packRI_d, fld_packRI_a, fld_packRI_imm, riImm, riA, riD]

theorem RoundTrip.fldS (d : Reg) (a : Reg) (c : BitVec 16) : RoundTrip.Statement (.fldS d a c) := by
  refine fun hw => ⟨fun _ => ?_, fun c => WordClass.noConfusion c⟩
  rw [show encode (.fldS d a c) = packRI 0x1a c a d from rfl, decode_1a _ (by rw [major, fld_packRI_op]; rfl)]
  simp only [fld_packRI_d, fld_packRI_a, fld_packRI_imm, riImm, riA, riD]

theorem RoundTrip.fldD (d : Reg) (a : Reg) (c : BitVec 16) : RoundTrip.Statement (.fldD d a c) := by
  refine fun hw => ⟨fun _ => ?_, fun c => WordClass.noConfusion c⟩
  rw [show encode (.fldD d a c) = packRI 0x1b c a d from rfl, decode_1b _ (by rw [major, fld_packRI_op]; rfl)]
  simp only [fld_packRI_d, fld_packRI_a, fld_packRI_imm, riImm, riA, riD]

theorem RoundTrip.fstS (d : Reg) (a : Reg) (c : BitVec 16) : RoundTrip.Statement (.fstS d a c) := by
  refine fun hw => ⟨fun _ => ?_, fun c => WordClass.noConfusion c⟩
  rw [show encode (.fstS d a c) = packRI 0x1c c a d from rfl, decode_1c _ (by rw [major, fld_packRI_op]; rfl)]
  simp only [fld_packRI_d, fld_packRI_a, fld_packRI_imm, riImm, riA, riD]

theorem RoundTrip.fstD (d : Reg) (a : Reg) (c : BitVec 16) : RoundTrip.Statement (.fstD d a c) := by
  refine fun hw => ⟨fun _ => ?_, fun c => WordClass.noConfusion c⟩
  rw [show encode (.fstD d a c) = packRI 0x1d c a d from rfl, decode_1d _ (by rw [major, fld_packRI_op]; rfl)]
  simp only [fld_packRI_d, fld_packRI_a, fld_packRI_imm, riImm, riA, riD]

theorem RoundTrip.beq (a : Reg) (b : Reg) (off : BitVec 16) : RoundTrip.Statement (.beq a b off) := by
  refine fun hw => ⟨fun _ => ?_, fun c => WordClass.noConfusion c⟩
  rw [show encode (.beq a b off) = packRI 0x20 off a b from rfl,
    decode_20 _ (by rw [major, fld_packRI_op]; rfl)]
  simp only [fld_packRI_d, fld_packRI_a, fld_packRI_imm, riImm, riA, riD]

theorem RoundTrip.bne (a : Reg) (b : Reg) (off : BitVec 16) : RoundTrip.Statement (.bne a b off) := by
  refine fun hw => ⟨fun _ => ?_, fun c => WordClass.noConfusion c⟩
  rw [show encode (.bne a b off) = packRI 0x21 off a b from rfl,
    decode_21 _ (by rw [major, fld_packRI_op]; rfl)]
  simp only [fld_packRI_d, fld_packRI_a, fld_packRI_imm, riImm, riA, riD]

theorem RoundTrip.blt (a : Reg) (b : Reg) (off : BitVec 16) : RoundTrip.Statement (.blt a b off) := by
  refine fun hw => ⟨fun _ => ?_, fun c => WordClass.noConfusion c⟩
  rw [show encode (.blt a b off) = packRI 0x22 off a b from rfl,
    decode_22 _ (by rw [major, fld_packRI_op]; rfl)]
  simp only [fld_packRI_d, fld_packRI_a, fld_packRI_imm, riImm, riA, riD]

theorem RoundTrip.bge (a : Reg) (b : Reg) (off : BitVec 16) : RoundTrip.Statement (.bge a b off) := by
  refine fun hw => ⟨fun _ => ?_, fun c => WordClass.noConfusion c⟩
  rw [show encode (.bge a b off) = packRI 0x23 off a b from rfl,
    decode_23 _ (by rw [major, fld_packRI_op]; rfl)]
  simp only [fld_packRI_d, fld_packRI_a, fld_packRI_imm, riImm, riA, riD]

theorem RoundTrip.bltu (a : Reg) (b : Reg) (off : BitVec 16) : RoundTrip.Statement (.bltu a b off) := by
  refine fun hw => ⟨fun _ => ?_, fun c => WordClass.noConfusion c⟩
  rw [show encode (.bltu a b off) = packRI 0x24 off a b from rfl,
    decode_24 _ (by rw [major, fld_packRI_op]; rfl)]
  simp only [fld_packRI_d, fld_packRI_a, fld_packRI_imm, riImm, riA, riD]

theorem RoundTrip.bgeu (a : Reg) (b : Reg) (off : BitVec 16) : RoundTrip.Statement (.bgeu a b off) := by
  refine fun hw => ⟨fun _ => ?_, fun c => WordClass.noConfusion c⟩
  rw [show encode (.bgeu a b off) = packRI 0x25 off a b from rfl,
    decode_25 _ (by rw [major, fld_packRI_op]; rfl)]
  simp only [fld_packRI_d, fld_packRI_a, fld_packRI_imm, riImm, riA, riD]

theorem RoundTrip.j (off : BitVec 26) : RoundTrip.Statement (.j off) := by
  refine fun hw => ⟨fun _ => ?_, fun c => WordClass.noConfusion c⟩
  rw [show encode (.j off) = packJ 0x26 off from rfl, decode_26 _ (by rw [major, fld_packJ_op]; rfl)]
  simp only [fld_packJ_off]

theorem RoundTrip.jal (off : BitVec 26) : RoundTrip.Statement (.jal off) := by
  refine fun hw => ⟨fun _ => ?_, fun c => WordClass.noConfusion c⟩
  rw [show encode (.jal off) = packJ 0x27 off from rfl, decode_27 _ (by rw [major, fld_packJ_op]; rfl)]
  simp only [fld_packJ_off]

theorem RoundTrip.amoswap (d : Reg) (a : Reg) (b : Reg) (dbl : Bool) (aq : Bool) (rl : Bool) (sc : Scope) :
    RoundTrip.Statement (.amoswap d a b dbl aq rl sc) := by
  refine fun hw => ⟨fun _ => ?_, fun c => WordClass.noConfusion c⟩
  rw [show encode (.amoswap d a b dbl aq rl sc) = packRR 0x28 (fnDbl 0 dbl) b a d (scopeField aq rl sc) from rfl,
    decode_28 _ (by rw [major, fld_packRR_op]; rfl)]
  simp only [decodeAmo, fld_packRR_d, fld_packRR_a, fld_packRR_b, fld_packRR_31_1, fld_packRR_26_5,
    fld_packRR_6_3, fld_packRR_9_1, fld_packRR_10_1, rrB, rrA, rrD]
  cases dbl <;> cases aq <;> cases rl <;> cases sc <;> rfl

theorem RoundTrip.amocas (d : Reg) (a : Reg) (b : Reg) (dbl : Bool) (aq : Bool) (rl : Bool) (sc : Scope) :
    RoundTrip.Statement (.amocas d a b dbl aq rl sc) := by
  refine fun hw => ⟨fun _ => ?_, fun c => WordClass.noConfusion c⟩
  rw [show encode (.amocas d a b dbl aq rl sc) = packRR 0x28 (fnDbl 1 dbl) b a d (scopeField aq rl sc) from rfl,
    decode_28 _ (by rw [major, fld_packRR_op]; rfl)]
  simp only [decodeAmo, fld_packRR_d, fld_packRR_a, fld_packRR_b, fld_packRR_31_1, fld_packRR_26_5,
    fld_packRR_6_3, fld_packRR_9_1, fld_packRR_10_1, rrB, rrA, rrD]
  cases dbl <;> cases aq <;> cases rl <;> cases sc <;> rfl

theorem RoundTrip.amoadd (d : Reg) (a : Reg) (b : Reg) (dbl : Bool) (aq : Bool) (rl : Bool) (sc : Scope) :
    RoundTrip.Statement (.amoadd d a b dbl aq rl sc) := by
  refine fun hw => ⟨fun _ => ?_, fun c => WordClass.noConfusion c⟩
  rw [show encode (.amoadd d a b dbl aq rl sc) = packRR 0x28 (fnDbl 2 dbl) b a d (scopeField aq rl sc) from rfl,
    decode_28 _ (by rw [major, fld_packRR_op]; rfl)]
  simp only [decodeAmo, fld_packRR_d, fld_packRR_a, fld_packRR_b, fld_packRR_31_1, fld_packRR_26_5,
    fld_packRR_6_3, fld_packRR_9_1, fld_packRR_10_1, rrB, rrA, rrD]
  cases dbl <;> cases aq <;> cases rl <;> cases sc <;> rfl

theorem RoundTrip.amoand (d : Reg) (a : Reg) (b : Reg) (dbl : Bool) (aq : Bool) (rl : Bool) (sc : Scope) :
    RoundTrip.Statement (.amoand d a b dbl aq rl sc) := by
  refine fun hw => ⟨fun _ => ?_, fun c => WordClass.noConfusion c⟩
  rw [show encode (.amoand d a b dbl aq rl sc) = packRR 0x28 (fnDbl 3 dbl) b a d (scopeField aq rl sc) from rfl,
    decode_28 _ (by rw [major, fld_packRR_op]; rfl)]
  simp only [decodeAmo, fld_packRR_d, fld_packRR_a, fld_packRR_b, fld_packRR_31_1, fld_packRR_26_5,
    fld_packRR_6_3, fld_packRR_9_1, fld_packRR_10_1, rrB, rrA, rrD]
  cases dbl <;> cases aq <;> cases rl <;> cases sc <;> rfl

theorem RoundTrip.amoor (d : Reg) (a : Reg) (b : Reg) (dbl : Bool) (aq : Bool) (rl : Bool) (sc : Scope) :
    RoundTrip.Statement (.amoor d a b dbl aq rl sc) := by
  refine fun hw => ⟨fun _ => ?_, fun c => WordClass.noConfusion c⟩
  rw [show encode (.amoor d a b dbl aq rl sc) = packRR 0x28 (fnDbl 4 dbl) b a d (scopeField aq rl sc) from rfl,
    decode_28 _ (by rw [major, fld_packRR_op]; rfl)]
  simp only [decodeAmo, fld_packRR_d, fld_packRR_a, fld_packRR_b, fld_packRR_31_1, fld_packRR_26_5,
    fld_packRR_6_3, fld_packRR_9_1, fld_packRR_10_1, rrB, rrA, rrD]
  cases dbl <;> cases aq <;> cases rl <;> cases sc <;> rfl

theorem RoundTrip.amoxor (d : Reg) (a : Reg) (b : Reg) (dbl : Bool) (aq : Bool) (rl : Bool) (sc : Scope) :
    RoundTrip.Statement (.amoxor d a b dbl aq rl sc) := by
  refine fun hw => ⟨fun _ => ?_, fun c => WordClass.noConfusion c⟩
  rw [show encode (.amoxor d a b dbl aq rl sc) = packRR 0x28 (fnDbl 5 dbl) b a d (scopeField aq rl sc) from rfl,
    decode_28 _ (by rw [major, fld_packRR_op]; rfl)]
  simp only [decodeAmo, fld_packRR_d, fld_packRR_a, fld_packRR_b, fld_packRR_31_1, fld_packRR_26_5,
    fld_packRR_6_3, fld_packRR_9_1, fld_packRR_10_1, rrB, rrA, rrD]
  cases dbl <;> cases aq <;> cases rl <;> cases sc <;> rfl

theorem RoundTrip.fence (o : FenceOrder) (sc : Scope) : RoundTrip.Statement (.fence o sc) := by
  refine fun hw => ⟨fun _ => ?_, fun c => WordClass.noConfusion c⟩
  rw [show encode (.fence o sc) = packRR 0x29 0 (BitVec.ofNat 5 o.code) 0 0 (scopeField false false sc) from rfl,
    decode_29 _ (by rw [major, fld_packRR_op]; rfl)]
  simp only [decodeSync, fld_packRR_d, fld_packRR_a, fld_packRR_b, fld_packRR_fn, fld_packRR_6_3,
    fld_packRR_9_1, fld_packRR_10_1, fld_packRR_6_4, fld_packRR_9_2, fld_packRR_16_3, fld_packRR_19_2,
    fld_packRR_21_2, fld_packRR_23_3, fld_packRR_21_3, fld_packRR_24_2, rrFn, rrB, rrA, rrD]
  cases o <;> cases sc <;> rfl

theorem RoundTrip.fenceP (p : Path) (q : Path) (sc : Scope) : RoundTrip.Statement (.fenceP p q sc) := by
  refine fun hw => ⟨fun _ => ?_, fun c => WordClass.noConfusion c⟩
  rw [show encode (.fenceP p q sc) = packRR 0x29 1 (BitVec.ofNat 5 q.code) (BitVec.ofNat 5 p.code) 0 (scopeField false false sc) from rfl,
    decode_29 _ (by rw [major, fld_packRR_op]; rfl)]
  simp only [decodeSync, fld_packRR_d, fld_packRR_a, fld_packRR_b, fld_packRR_fn, fld_packRR_6_3,
    fld_packRR_9_1, fld_packRR_10_1, fld_packRR_6_4, fld_packRR_9_2, fld_packRR_16_3, fld_packRR_19_2,
    fld_packRR_21_2, fld_packRR_23_3, fld_packRR_21_3, fld_packRR_24_2, rrFn, rrB, rrA, rrD]
  cases p <;> cases q <;> cases sc <;> first | rfl | exact absurd hw Bool.false_ne_true

theorem RoundTrip.waitaEq (d : Reg) (a : Reg) (b : Reg) (w32 : Bool) (sc : Scope) :
    RoundTrip.Statement (.waitaEq d a b w32 sc) := by
  refine fun hw => ⟨fun _ => ?_, fun c => WordClass.noConfusion c⟩
  rw [show encode (.waitaEq d a b w32 sc) = packRR 0x29 2 b a d (scopeField false w32 sc) from rfl,
    decode_29 _ (by rw [major, fld_packRR_op]; rfl)]
  simp only [decodeSync, fld_packRR_d, fld_packRR_a, fld_packRR_b, fld_packRR_fn, fld_packRR_6_3,
    fld_packRR_9_1, fld_packRR_10_1, fld_packRR_6_4, fld_packRR_9_2, fld_packRR_16_3, fld_packRR_19_2,
    fld_packRR_21_2, fld_packRR_23_3, fld_packRR_21_3, fld_packRR_24_2, rrFn, rrB, rrA, rrD]
  cases w32 <;> cases sc <;> rfl

theorem RoundTrip.waitaNe (d : Reg) (a : Reg) (b : Reg) (w32 : Bool) (sc : Scope) :
    RoundTrip.Statement (.waitaNe d a b w32 sc) := by
  refine fun hw => ⟨fun _ => ?_, fun c => WordClass.noConfusion c⟩
  rw [show encode (.waitaNe d a b w32 sc) = packRR 0x29 3 b a d (scopeField false w32 sc) from rfl,
    decode_29 _ (by rw [major, fld_packRR_op]; rfl)]
  simp only [decodeSync, fld_packRR_d, fld_packRR_a, fld_packRR_b, fld_packRR_fn, fld_packRR_6_3,
    fld_packRR_9_1, fld_packRR_10_1, fld_packRR_6_4, fld_packRR_9_2, fld_packRR_16_3, fld_packRR_19_2,
    fld_packRR_21_2, fld_packRR_23_3, fld_packRR_21_3, fld_packRR_24_2, rrFn, rrB, rrA, rrD]
  cases w32 <;> cases sc <;> rfl

theorem RoundTrip.waitaLt (d : Reg) (a : Reg) (b : Reg) (w32 : Bool) (sc : Scope) :
    RoundTrip.Statement (.waitaLt d a b w32 sc) := by
  refine fun hw => ⟨fun _ => ?_, fun c => WordClass.noConfusion c⟩
  rw [show encode (.waitaLt d a b w32 sc) = packRR 0x29 4 b a d (scopeField false w32 sc) from rfl,
    decode_29 _ (by rw [major, fld_packRR_op]; rfl)]
  simp only [decodeSync, fld_packRR_d, fld_packRR_a, fld_packRR_b, fld_packRR_fn, fld_packRR_6_3,
    fld_packRR_9_1, fld_packRR_10_1, fld_packRR_6_4, fld_packRR_9_2, fld_packRR_16_3, fld_packRR_19_2,
    fld_packRR_21_2, fld_packRR_23_3, fld_packRR_21_3, fld_packRR_24_2, rrFn, rrB, rrA, rrD]
  cases w32 <;> cases sc <;> rfl

theorem RoundTrip.waitaGe (d : Reg) (a : Reg) (b : Reg) (w32 : Bool) (sc : Scope) :
    RoundTrip.Statement (.waitaGe d a b w32 sc) := by
  refine fun hw => ⟨fun _ => ?_, fun c => WordClass.noConfusion c⟩
  rw [show encode (.waitaGe d a b w32 sc) = packRR 0x29 5 b a d (scopeField false w32 sc) from rfl,
    decode_29 _ (by rw [major, fld_packRR_op]; rfl)]
  simp only [decodeSync, fld_packRR_d, fld_packRR_a, fld_packRR_b, fld_packRR_fn, fld_packRR_6_3,
    fld_packRR_9_1, fld_packRR_10_1, fld_packRR_6_4, fld_packRR_9_2, fld_packRR_16_3, fld_packRR_19_2,
    fld_packRR_21_2, fld_packRR_23_3, fld_packRR_21_3, fld_packRR_24_2, rrFn, rrB, rrA, rrD]
  cases w32 <;> cases sc <;> rfl

theorem RoundTrip.waitaLtu (d : Reg) (a : Reg) (b : Reg) (w32 : Bool) (sc : Scope) :
    RoundTrip.Statement (.waitaLtu d a b w32 sc) := by
  refine fun hw => ⟨fun _ => ?_, fun c => WordClass.noConfusion c⟩
  rw [show encode (.waitaLtu d a b w32 sc) = packRR 0x29 6 b a d (scopeField false w32 sc) from rfl,
    decode_29 _ (by rw [major, fld_packRR_op]; rfl)]
  simp only [decodeSync, fld_packRR_d, fld_packRR_a, fld_packRR_b, fld_packRR_fn, fld_packRR_6_3,
    fld_packRR_9_1, fld_packRR_10_1, fld_packRR_6_4, fld_packRR_9_2, fld_packRR_16_3, fld_packRR_19_2,
    fld_packRR_21_2, fld_packRR_23_3, fld_packRR_21_3, fld_packRR_24_2, rrFn, rrB, rrA, rrD]
  cases w32 <;> cases sc <;> rfl

theorem RoundTrip.waitaGeu (d : Reg) (a : Reg) (b : Reg) (w32 : Bool) (sc : Scope) :
    RoundTrip.Statement (.waitaGeu d a b w32 sc) := by
  refine fun hw => ⟨fun _ => ?_, fun c => WordClass.noConfusion c⟩
  rw [show encode (.waitaGeu d a b w32 sc) = packRR 0x29 7 b a d (scopeField false w32 sc) from rfl,
    decode_29 _ (by rw [major, fld_packRR_op]; rfl)]
  simp only [decodeSync, fld_packRR_d, fld_packRR_a, fld_packRR_b, fld_packRR_fn, fld_packRR_6_3,
    fld_packRR_9_1, fld_packRR_10_1, fld_packRR_6_4, fld_packRR_9_2, fld_packRR_16_3, fld_packRR_19_2,
    fld_packRR_21_2, fld_packRR_23_3, fld_packRR_21_3, fld_packRR_24_2, rrFn, rrB, rrA, rrD]
  cases w32 <;> cases sc <;> rfl

theorem RoundTrip.barArrive (n : BitVec 4) : RoundTrip.Statement (.barArrive n) := by
  refine fun hw => ⟨fun _ => ?_, fun c => WordClass.noConfusion c⟩
  rw [show encode (.barArrive n) = packRR 0x29 8 0 0 0 (n.setWidth 5) from rfl,
    decode_29 _ (by rw [major, fld_packRR_op]; rfl)]
  simp only [decodeSync, fld_packRR_d, fld_packRR_a, fld_packRR_b, fld_packRR_fn, fld_packRR_6_3,
    fld_packRR_9_1, fld_packRR_10_1, fld_packRR_6_4, fld_packRR_9_2, fld_packRR_16_3, fld_packRR_19_2,
    fld_packRR_21_2, fld_packRR_23_3, fld_packRR_21_3, fld_packRR_24_2, rrFn, rrB, rrA, rrD, bar_lo, bar_hi]
  rfl

theorem RoundTrip.barWait (n : BitVec 4) : RoundTrip.Statement (.barWait n) := by
  refine fun hw => ⟨fun _ => ?_, fun c => WordClass.noConfusion c⟩
  rw [show encode (.barWait n) = packRR 0x29 9 0 0 0 (n.setWidth 5) from rfl,
    decode_29 _ (by rw [major, fld_packRR_op]; rfl)]
  simp only [decodeSync, fld_packRR_d, fld_packRR_a, fld_packRR_b, fld_packRR_fn, fld_packRR_6_3,
    fld_packRR_9_1, fld_packRR_10_1, fld_packRR_6_4, fld_packRR_9_2, fld_packRR_16_3, fld_packRR_19_2,
    fld_packRR_21_2, fld_packRR_23_3, fld_packRR_21_3, fld_packRR_24_2, rrFn, rrB, rrA, rrD, bar_lo, bar_hi]
  rfl

theorem RoundTrip.fadd (d : Reg) (a : Reg) (b : Reg) (dbl : Bool) :
    RoundTrip.Statement (.fadd d a b dbl) := by
  refine fun hw => ⟨fun _ => ?_, fun c => WordClass.noConfusion c⟩
  rw [show encode (.fadd d a b dbl) = packRR 0x2A (fnDbl 0 dbl) b a d 0 from rfl,
    decode_2a _ (by rw [major, fld_packRR_op]; rfl)]
  simp only [decodeFp, fld_packRR_m, fld_packRR_d, fld_packRR_a, fld_packRR_b, fld_packRR_31_1,
    fld_packRR_26_5, rrB, rrA, rrD, rrM]
  cases dbl <;> rfl

theorem RoundTrip.fsub (d : Reg) (a : Reg) (b : Reg) (dbl : Bool) :
    RoundTrip.Statement (.fsub d a b dbl) := by
  refine fun hw => ⟨fun _ => ?_, fun c => WordClass.noConfusion c⟩
  rw [show encode (.fsub d a b dbl) = packRR 0x2A (fnDbl 1 dbl) b a d 0 from rfl,
    decode_2a _ (by rw [major, fld_packRR_op]; rfl)]
  simp only [decodeFp, fld_packRR_m, fld_packRR_d, fld_packRR_a, fld_packRR_b, fld_packRR_31_1,
    fld_packRR_26_5, rrB, rrA, rrD, rrM]
  cases dbl <;> rfl

theorem RoundTrip.fmul (d : Reg) (a : Reg) (b : Reg) (dbl : Bool) :
    RoundTrip.Statement (.fmul d a b dbl) := by
  refine fun hw => ⟨fun _ => ?_, fun c => WordClass.noConfusion c⟩
  rw [show encode (.fmul d a b dbl) = packRR 0x2A (fnDbl 2 dbl) b a d 0 from rfl,
    decode_2a _ (by rw [major, fld_packRR_op]; rfl)]
  simp only [decodeFp, fld_packRR_m, fld_packRR_d, fld_packRR_a, fld_packRR_b, fld_packRR_31_1,
    fld_packRR_26_5, rrB, rrA, rrD, rrM]
  cases dbl <;> rfl

theorem RoundTrip.fdiv (d : Reg) (a : Reg) (b : Reg) (dbl : Bool) :
    RoundTrip.Statement (.fdiv d a b dbl) := by
  refine fun hw => ⟨fun _ => ?_, fun c => WordClass.noConfusion c⟩
  rw [show encode (.fdiv d a b dbl) = packRR 0x2A (fnDbl 3 dbl) b a d 0 from rfl,
    decode_2a _ (by rw [major, fld_packRR_op]; rfl)]
  simp only [decodeFp, fld_packRR_m, fld_packRR_d, fld_packRR_a, fld_packRR_b, fld_packRR_31_1,
    fld_packRR_26_5, rrB, rrA, rrD, rrM]
  cases dbl <;> rfl

theorem RoundTrip.fsqrt (d : Reg) (a : Reg) (dbl : Bool) : RoundTrip.Statement (.fsqrt d a dbl) := by
  refine fun hw => ⟨fun _ => ?_, fun c => WordClass.noConfusion c⟩
  rw [show encode (.fsqrt d a dbl) = packRR 0x2A (fnDbl 4 dbl) 0 a d 0 from rfl,
    decode_2a _ (by rw [major, fld_packRR_op]; rfl)]
  simp only [decodeFp, fld_packRR_m, fld_packRR_d, fld_packRR_a, fld_packRR_b, fld_packRR_31_1,
    fld_packRR_26_5, rrB, rrA, rrD, rrM]
  cases dbl <;> rfl

theorem RoundTrip.fma (d : Reg) (a : Reg) (b : Reg) (c : Reg) (dbl : Bool) :
    RoundTrip.Statement (.fma d a b c dbl) := by
  refine fun hw => ⟨fun _ => ?_, fun c => WordClass.noConfusion c⟩
  rw [show encode (.fma d a b c dbl) = packRR 0x2A (fnDbl 5 dbl) b a d c from rfl,
    decode_2a _ (by rw [major, fld_packRR_op]; rfl)]
  simp only [decodeFp, fld_packRR_m, fld_packRR_d, fld_packRR_a, fld_packRR_b, fld_packRR_31_1,
    fld_packRR_26_5, rrB, rrA, rrD, rrM]
  cases dbl <;> rfl

theorem RoundTrip.fmin (d : Reg) (a : Reg) (b : Reg) (dbl : Bool) :
    RoundTrip.Statement (.fmin d a b dbl) := by
  refine fun hw => ⟨fun _ => ?_, fun c => WordClass.noConfusion c⟩
  rw [show encode (.fmin d a b dbl) = packRR 0x2A (fnDbl 6 dbl) b a d 0 from rfl,
    decode_2a _ (by rw [major, fld_packRR_op]; rfl)]
  simp only [decodeFp, fld_packRR_m, fld_packRR_d, fld_packRR_a, fld_packRR_b, fld_packRR_31_1,
    fld_packRR_26_5, rrB, rrA, rrD, rrM]
  cases dbl <;> rfl

theorem RoundTrip.fmax (d : Reg) (a : Reg) (b : Reg) (dbl : Bool) :
    RoundTrip.Statement (.fmax d a b dbl) := by
  refine fun hw => ⟨fun _ => ?_, fun c => WordClass.noConfusion c⟩
  rw [show encode (.fmax d a b dbl) = packRR 0x2A (fnDbl 7 dbl) b a d 0 from rfl,
    decode_2a _ (by rw [major, fld_packRR_op]; rfl)]
  simp only [decodeFp, fld_packRR_m, fld_packRR_d, fld_packRR_a, fld_packRR_b, fld_packRR_31_1,
    fld_packRR_26_5, rrB, rrA, rrD, rrM]
  cases dbl <;> rfl

theorem RoundTrip.feq (d : Reg) (a : Reg) (b : Reg) (dbl : Bool) : RoundTrip.Statement (.feq d a b dbl) := by
  refine fun hw => ⟨fun _ => ?_, fun c => WordClass.noConfusion c⟩
  rw [show encode (.feq d a b dbl) = packRR 0x2A (fnDbl 8 dbl) b a d 0 from rfl,
    decode_2a _ (by rw [major, fld_packRR_op]; rfl)]
  simp only [decodeFp, fld_packRR_m, fld_packRR_d, fld_packRR_a, fld_packRR_b, fld_packRR_31_1,
    fld_packRR_26_5, rrB, rrA, rrD, rrM]
  cases dbl <;> rfl

theorem RoundTrip.flt (d : Reg) (a : Reg) (b : Reg) (dbl : Bool) : RoundTrip.Statement (.flt d a b dbl) := by
  refine fun hw => ⟨fun _ => ?_, fun c => WordClass.noConfusion c⟩
  rw [show encode (.flt d a b dbl) = packRR 0x2A (fnDbl 9 dbl) b a d 0 from rfl,
    decode_2a _ (by rw [major, fld_packRR_op]; rfl)]
  simp only [decodeFp, fld_packRR_m, fld_packRR_d, fld_packRR_a, fld_packRR_b, fld_packRR_31_1,
    fld_packRR_26_5, rrB, rrA, rrD, rrM]
  cases dbl <;> rfl

theorem RoundTrip.fle (d : Reg) (a : Reg) (b : Reg) (dbl : Bool) : RoundTrip.Statement (.fle d a b dbl) := by
  refine fun hw => ⟨fun _ => ?_, fun c => WordClass.noConfusion c⟩
  rw [show encode (.fle d a b dbl) = packRR 0x2A (fnDbl 10 dbl) b a d 0 from rfl,
    decode_2a _ (by rw [major, fld_packRR_op]; rfl)]
  simp only [decodeFp, fld_packRR_m, fld_packRR_d, fld_packRR_a, fld_packRR_b, fld_packRR_31_1,
    fld_packRR_26_5, rrB, rrA, rrD, rrM]
  cases dbl <;> rfl

theorem RoundTrip.fcvtFX (d : Reg) (a : Reg) (dbl : Bool) : RoundTrip.Statement (.fcvtFX d a dbl) := by
  refine fun hw => ⟨fun _ => ?_, fun c => WordClass.noConfusion c⟩
  rw [show encode (.fcvtFX d a dbl) = packRR 0x2A (fnDbl 11 dbl) 0 a d 0 from rfl,
    decode_2a _ (by rw [major, fld_packRR_op]; rfl)]
  simp only [decodeFp, fld_packRR_m, fld_packRR_d, fld_packRR_a, fld_packRR_b, fld_packRR_31_1,
    fld_packRR_26_5, rrB, rrA, rrD, rrM]
  cases dbl <;> rfl

theorem RoundTrip.fcvtXF (d : Reg) (a : Reg) (dbl : Bool) : RoundTrip.Statement (.fcvtXF d a dbl) := by
  refine fun hw => ⟨fun _ => ?_, fun c => WordClass.noConfusion c⟩
  rw [show encode (.fcvtXF d a dbl) = packRR 0x2A (fnDbl 12 dbl) 0 a d 0 from rfl,
    decode_2a _ (by rw [major, fld_packRR_op]; rfl)]
  simp only [decodeFp, fld_packRR_m, fld_packRR_d, fld_packRR_a, fld_packRR_b, fld_packRR_31_1,
    fld_packRR_26_5, rrB, rrA, rrD, rrM]
  cases dbl <;> rfl

theorem RoundTrip.fmvFX (d : Reg) (a : Reg) (dbl : Bool) : RoundTrip.Statement (.fmvFX d a dbl) := by
  refine fun hw => ⟨fun _ => ?_, fun c => WordClass.noConfusion c⟩
  rw [show encode (.fmvFX d a dbl) = packRR 0x2A (fnDbl 13 dbl) 0 a d 0 from rfl,
    decode_2a _ (by rw [major, fld_packRR_op]; rfl)]
  simp only [decodeFp, fld_packRR_m, fld_packRR_d, fld_packRR_a, fld_packRR_b, fld_packRR_31_1,
    fld_packRR_26_5, rrB, rrA, rrD, rrM]
  cases dbl <;> rfl

theorem RoundTrip.fmvXF (d : Reg) (a : Reg) (dbl : Bool) : RoundTrip.Statement (.fmvXF d a dbl) := by
  refine fun hw => ⟨fun _ => ?_, fun c => WordClass.noConfusion c⟩
  rw [show encode (.fmvXF d a dbl) = packRR 0x2A (fnDbl 14 dbl) 0 a d 0 from rfl,
    decode_2a _ (by rw [major, fld_packRR_op]; rfl)]
  simp only [decodeFp, fld_packRR_m, fld_packRR_d, fld_packRR_a, fld_packRR_b, fld_packRR_31_1,
    fld_packRR_26_5, rrB, rrA, rrD, rrM]
  cases dbl <;> rfl

theorem RoundTrip.fsgnj (d : Reg) (a : Reg) (b : Reg) (dbl : Bool) :
    RoundTrip.Statement (.fsgnj d a b dbl) := by
  refine fun hw => ⟨fun _ => ?_, fun c => WordClass.noConfusion c⟩
  rw [show encode (.fsgnj d a b dbl) = packRR 0x2A (fnDbl 15 dbl) b a d 0 from rfl,
    decode_2a _ (by rw [major, fld_packRR_op]; rfl)]
  simp only [decodeFp, fld_packRR_m, fld_packRR_d, fld_packRR_a, fld_packRR_b, fld_packRR_31_1,
    fld_packRR_26_5, rrB, rrA, rrD, rrM]
  cases dbl <;> rfl

theorem RoundTrip.cread (d : Reg) (csr : BitVec 12) : RoundTrip.Statement (.cread d csr) := by
  refine fun hw => ⟨fun _ => ?_, fun c => WordClass.noConfusion c⟩
  rw [show encode (.cread d csr) = packS 0x2B csr 0 d 0 from rfl,
    decode_2b _ (by rw [major, fld_packS_op]; rfl)]
  simp only [decodeSys, fld_packS_fn, fld_packS_d, fld_packS_a, fld_packS_csr, fld_packS_26_6, fld_packS_20_6]
  rfl

theorem RoundTrip.cwrite (csr : BitVec 12) (a : Reg) : RoundTrip.Statement (.cwrite csr a) := by
  refine fun hw => ⟨fun _ => ?_, fun c => WordClass.noConfusion c⟩
  rw [show encode (.cwrite csr a) = packS 0x2B csr a 0 1 from rfl,
    decode_2b _ (by rw [major, fld_packS_op]; rfl)]
  simp only [decodeSys, fld_packS_fn, fld_packS_d, fld_packS_a, fld_packS_csr, fld_packS_26_6, fld_packS_20_6]
  rfl

theorem RoundTrip.cbset (csr : BitVec 12) (a : Reg) : RoundTrip.Statement (.cbset csr a) := by
  refine fun hw => ⟨fun _ => ?_, fun c => WordClass.noConfusion c⟩
  rw [show encode (.cbset csr a) = packS 0x2B csr a 0 2 from rfl,
    decode_2b _ (by rw [major, fld_packS_op]; rfl)]
  simp only [decodeSys, fld_packS_fn, fld_packS_d, fld_packS_a, fld_packS_csr, fld_packS_26_6, fld_packS_20_6]
  rfl

theorem RoundTrip.cbclr (csr : BitVec 12) (a : Reg) : RoundTrip.Statement (.cbclr csr a) := by
  refine fun hw => ⟨fun _ => ?_, fun c => WordClass.noConfusion c⟩
  rw [show encode (.cbclr csr a) = packS 0x2B csr a 0 3 from rfl,
    decode_2b _ (by rw [major, fld_packS_op]; rfl)]
  simp only [decodeSys, fld_packS_fn, fld_packS_d, fld_packS_a, fld_packS_csr, fld_packS_26_6, fld_packS_20_6]
  rfl

theorem RoundTrip.syscall (n : BitVec 6) : RoundTrip.Statement (.syscall n) := by
  refine fun hw => ⟨fun _ => ?_, fun c => WordClass.noConfusion c⟩
  rw [show encode (.syscall n) = packS 0x2B (n.setWidth 12) 0 0 4 from rfl,
    decode_2b _ (by rw [major, fld_packS_op]; rfl)]
  simp only [decodeSys, fld_packS_fn, fld_packS_d, fld_packS_a, fld_packS_csr, fld_packS_26_6,
    fld_packS_20_6, fld_packS_zero_10_10, call_hi, call_lo]
  rfl

theorem RoundTrip.brk (n : BitVec 6) : RoundTrip.Statement (.brk n) := by
  refine fun hw => ⟨fun _ => ?_, fun c => WordClass.noConfusion c⟩
  rw [show encode (.brk n) = packS 0x2B (n.setWidth 12) 0 0 5 from rfl,
    decode_2b _ (by rw [major, fld_packS_op]; rfl)]
  simp only [decodeSys, fld_packS_fn, fld_packS_d, fld_packS_a, fld_packS_csr, fld_packS_26_6,
    fld_packS_20_6, fld_packS_zero_10_10, call_hi, call_lo]
  rfl

theorem RoundTrip.tret : RoundTrip.Statement (.tret) := by
  refine fun hw => ⟨fun _ => ?_, fun c => WordClass.noConfusion c⟩
  rw [show encode (.tret) = packS 0x2B 0 0 0 6 from rfl, decode_2b _ (by rw [major, fld_packS_op]; rfl)]
  simp only [decodeSys, fld_packS_fn, fld_packS_d, fld_packS_a, fld_packS_csr, fld_packS_26_6,
    fld_packS_20_6, fld_packS_zero_10_10, fld_packS_zero_10_22]
  rfl

theorem RoundTrip.wfi : RoundTrip.Statement (.wfi) := by
  refine fun hw => ⟨fun _ => ?_, fun c => WordClass.noConfusion c⟩
  rw [show encode (.wfi) = packS 0x2B 0 0 0 7 from rfl, decode_2b _ (by rw [major, fld_packS_op]; rfl)]
  simp only [decodeSys, fld_packS_fn, fld_packS_d, fld_packS_a, fld_packS_csr, fld_packS_26_6,
    fld_packS_20_6, fld_packS_zero_10_10, fld_packS_zero_10_22]
  rfl

theorem RoundTrip.tfenceS (a : Reg) : RoundTrip.Statement (.tfenceS a) := by
  refine fun hw => ⟨fun _ => ?_, fun c => WordClass.noConfusion c⟩
  rw [show encode (.tfenceS a) = packS 0x2B 0 a 0 8 from rfl, decode_2b _ (by rw [major, fld_packS_op]; rfl)]
  simp only [decodeSys, fld_packS_fn, fld_packS_d, fld_packS_a, fld_packS_csr, fld_packS_26_6, fld_packS_20_6]
  rfl

theorem RoundTrip.tfenceV (a : Reg) : RoundTrip.Statement (.tfenceV a) := by
  refine fun hw => ⟨fun _ => ?_, fun c => WordClass.noConfusion c⟩
  rw [show encode (.tfenceV a) = packS 0x2B 0 a 0 9 from rfl, decode_2b _ (by rw [major, fld_packS_op]; rfl)]
  simp only [decodeSys, fld_packS_fn, fld_packS_d, fld_packS_a, fld_packS_csr, fld_packS_26_6, fld_packS_20_6]
  rfl

theorem RoundTrip.setvt (imm : BitVec 16) : RoundTrip.Statement (.setvt imm) := by
  refine fun hw => ⟨fun _ => ?_, fun c => WordClass.noConfusion c⟩
  rw [show encode (.setvt imm) = packRI 0x2C imm 0 0 from rfl,
    decode_2c _ (by rw [major, fld_packRI_op]; rfl)]
  simp only [fld_packRI_imm, fld_packRI_zero_6_10, riImm]
  rfl

theorem RoundTrip.setvl (d : Reg) (a : Reg) : RoundTrip.Statement (.setvl d a) := by
  refine fun hw => ⟨fun _ => ?_, fun c => WordClass.noConfusion c⟩
  rw [show encode (.setvl d a) = packRR 0x2D 0 0 a d 0 from rfl,
    decode_2d _ (by rw [major, fld_packRR_op]; rfl)]
  simp only [decodeVcfg, fld_packRR_m, fld_packRR_d, fld_packRR_a, fld_packRR_b, fld_packRR_fn, rrFn, rrB,
    rrA, rrD, rrM]
  rfl

theorem RoundTrip.claim (d : Reg) (a : Reg) (b : Reg) : RoundTrip.Statement (.claim d a b) := by
  refine fun hw => ⟨fun _ => ?_, fun c => WordClass.noConfusion c⟩
  rw [show encode (.claim d a b) = packRR 0x2D 1 b a d 0 from rfl,
    decode_2d _ (by rw [major, fld_packRR_op]; rfl)]
  simp only [decodeVcfg, fld_packRR_m, fld_packRR_d, fld_packRR_a, fld_packRR_b, fld_packRR_fn, rrFn, rrB,
    rrA, rrD, rrM]
  rfl

theorem RoundTrip.vpidx (d : Reg) (a : Reg) : RoundTrip.Statement (.vpidx d a) := by
  refine fun hw => ⟨fun _ => ?_, fun c => WordClass.noConfusion c⟩
  rw [show encode (.vpidx d a) = packRR 0x2D 2 0 a d 0 from rfl,
    decode_2d _ (by rw [major, fld_packRR_op]; rfl)]
  simp only [decodeVcfg, fld_packRR_m, fld_packRR_d, fld_packRR_a, fld_packRR_b, fld_packRR_fn, rrFn, rrB,
    rrA, rrD, rrM]
  rfl

theorem RoundTrip.vadd (d : Reg) (a : Reg) (b : VSrc) (k : KReg) : RoundTrip.Statement (.vadd d a b k) := by
  refine fun hw => ⟨fun _ => ?_, fun c => WordClass.noConfusion c⟩
  rw [show encode (.vadd d a b k) = packV 0x2E 0 b.field a d k b.form from rfl,
    decode_2e _ (by rw [major, fld_packV_op]; rfl)]
  simp only [decodeVint, fld_packV_form, fld_packV_k, fld_packV_d, fld_packV_a, fld_packV_b, fld_packV_fn,
    rrFn, rrB, rrA, rrD, vK, vForm, vsrcOf_src, isInt_form]
  exact rsv_true hw

theorem RoundTrip.vsub (d : Reg) (a : Reg) (b : VSrc) (k : KReg) : RoundTrip.Statement (.vsub d a b k) := by
  refine fun hw => ⟨fun _ => ?_, fun c => WordClass.noConfusion c⟩
  rw [show encode (.vsub d a b k) = packV 0x2E 1 b.field a d k b.form from rfl,
    decode_2e _ (by rw [major, fld_packV_op]; rfl)]
  simp only [decodeVint, fld_packV_form, fld_packV_k, fld_packV_d, fld_packV_a, fld_packV_b, fld_packV_fn,
    rrFn, rrB, rrA, rrD, vK, vForm, vsrcOf_src, isInt_form]
  exact rsv_true hw

theorem RoundTrip.vmul (d : Reg) (a : Reg) (b : VSrc) (k : KReg) : RoundTrip.Statement (.vmul d a b k) := by
  refine fun hw => ⟨fun _ => ?_, fun c => WordClass.noConfusion c⟩
  rw [show encode (.vmul d a b k) = packV 0x2E 2 b.field a d k b.form from rfl,
    decode_2e _ (by rw [major, fld_packV_op]; rfl)]
  simp only [decodeVint, fld_packV_form, fld_packV_k, fld_packV_d, fld_packV_a, fld_packV_b, fld_packV_fn,
    rrFn, rrB, rrA, rrD, vK, vForm, vsrcOf_src, isInt_form]
  exact rsv_true hw

theorem RoundTrip.vmulh (d : Reg) (a : Reg) (b : VSrc) (k : KReg) : RoundTrip.Statement (.vmulh d a b k) := by
  refine fun hw => ⟨fun _ => ?_, fun c => WordClass.noConfusion c⟩
  rw [show encode (.vmulh d a b k) = packV 0x2E 3 b.field a d k b.form from rfl,
    decode_2e _ (by rw [major, fld_packV_op]; rfl)]
  simp only [decodeVint, fld_packV_form, fld_packV_k, fld_packV_d, fld_packV_a, fld_packV_b, fld_packV_fn,
    rrFn, rrB, rrA, rrD, vK, vForm, vsrcOf_src, isInt_form]
  exact rsv_true hw

theorem RoundTrip.vdiv (d : Reg) (a : Reg) (b : VSrc) (k : KReg) : RoundTrip.Statement (.vdiv d a b k) := by
  refine fun hw => ⟨fun _ => ?_, fun c => WordClass.noConfusion c⟩
  rw [show encode (.vdiv d a b k) = packV 0x2E 4 b.field a d k b.form from rfl,
    decode_2e _ (by rw [major, fld_packV_op]; rfl)]
  simp only [decodeVint, fld_packV_form, fld_packV_k, fld_packV_d, fld_packV_a, fld_packV_b, fld_packV_fn,
    rrFn, rrB, rrA, rrD, vK, vForm, vsrcOf_src, isInt_form]
  exact rsv_true hw

theorem RoundTrip.vrem (d : Reg) (a : Reg) (b : VSrc) (k : KReg) : RoundTrip.Statement (.vrem d a b k) := by
  refine fun hw => ⟨fun _ => ?_, fun c => WordClass.noConfusion c⟩
  rw [show encode (.vrem d a b k) = packV 0x2E 5 b.field a d k b.form from rfl,
    decode_2e _ (by rw [major, fld_packV_op]; rfl)]
  simp only [decodeVint, fld_packV_form, fld_packV_k, fld_packV_d, fld_packV_a, fld_packV_b, fld_packV_fn,
    rrFn, rrB, rrA, rrD, vK, vForm, vsrcOf_src, isInt_form]
  exact rsv_true hw

theorem RoundTrip.vand (d : Reg) (a : Reg) (b : VSrc) (k : KReg) : RoundTrip.Statement (.vand d a b k) := by
  refine fun hw => ⟨fun _ => ?_, fun c => WordClass.noConfusion c⟩
  rw [show encode (.vand d a b k) = packV 0x2E 6 b.field a d k b.form from rfl,
    decode_2e _ (by rw [major, fld_packV_op]; rfl)]
  simp only [decodeVint, fld_packV_form, fld_packV_k, fld_packV_d, fld_packV_a, fld_packV_b, fld_packV_fn,
    rrFn, rrB, rrA, rrD, vK, vForm, vsrcOf_src, isInt_form]
  exact rsv_true hw

theorem RoundTrip.vor (d : Reg) (a : Reg) (b : VSrc) (k : KReg) : RoundTrip.Statement (.vor d a b k) := by
  refine fun hw => ⟨fun _ => ?_, fun c => WordClass.noConfusion c⟩
  rw [show encode (.vor d a b k) = packV 0x2E 7 b.field a d k b.form from rfl,
    decode_2e _ (by rw [major, fld_packV_op]; rfl)]
  simp only [decodeVint, fld_packV_form, fld_packV_k, fld_packV_d, fld_packV_a, fld_packV_b, fld_packV_fn,
    rrFn, rrB, rrA, rrD, vK, vForm, vsrcOf_src, isInt_form]
  exact rsv_true hw

theorem RoundTrip.vxor (d : Reg) (a : Reg) (b : VSrc) (k : KReg) : RoundTrip.Statement (.vxor d a b k) := by
  refine fun hw => ⟨fun _ => ?_, fun c => WordClass.noConfusion c⟩
  rw [show encode (.vxor d a b k) = packV 0x2E 8 b.field a d k b.form from rfl,
    decode_2e _ (by rw [major, fld_packV_op]; rfl)]
  simp only [decodeVint, fld_packV_form, fld_packV_k, fld_packV_d, fld_packV_a, fld_packV_b, fld_packV_fn,
    rrFn, rrB, rrA, rrD, vK, vForm, vsrcOf_src, isInt_form]
  exact rsv_true hw

theorem RoundTrip.vsll (d : Reg) (a : Reg) (b : VSrc) (k : KReg) : RoundTrip.Statement (.vsll d a b k) := by
  refine fun hw => ⟨fun _ => ?_, fun c => WordClass.noConfusion c⟩
  rw [show encode (.vsll d a b k) = packV 0x2E 9 b.field a d k b.form from rfl,
    decode_2e _ (by rw [major, fld_packV_op]; rfl)]
  simp only [decodeVint, fld_packV_form, fld_packV_k, fld_packV_d, fld_packV_a, fld_packV_b, fld_packV_fn,
    rrFn, rrB, rrA, rrD, vK, vForm, vsrcOf_src, isInt_form]
  exact rsv_true hw

theorem RoundTrip.vsrl (d : Reg) (a : Reg) (b : VSrc) (k : KReg) : RoundTrip.Statement (.vsrl d a b k) := by
  refine fun hw => ⟨fun _ => ?_, fun c => WordClass.noConfusion c⟩
  rw [show encode (.vsrl d a b k) = packV 0x2E 10 b.field a d k b.form from rfl,
    decode_2e _ (by rw [major, fld_packV_op]; rfl)]
  simp only [decodeVint, fld_packV_form, fld_packV_k, fld_packV_d, fld_packV_a, fld_packV_b, fld_packV_fn,
    rrFn, rrB, rrA, rrD, vK, vForm, vsrcOf_src, isInt_form]
  exact rsv_true hw

theorem RoundTrip.vsra (d : Reg) (a : Reg) (b : VSrc) (k : KReg) : RoundTrip.Statement (.vsra d a b k) := by
  refine fun hw => ⟨fun _ => ?_, fun c => WordClass.noConfusion c⟩
  rw [show encode (.vsra d a b k) = packV 0x2E 11 b.field a d k b.form from rfl,
    decode_2e _ (by rw [major, fld_packV_op]; rfl)]
  simp only [decodeVint, fld_packV_form, fld_packV_k, fld_packV_d, fld_packV_a, fld_packV_b, fld_packV_fn,
    rrFn, rrB, rrA, rrD, vK, vForm, vsrcOf_src, isInt_form]
  exact rsv_true hw

theorem RoundTrip.vmin (d : Reg) (a : Reg) (b : VSrc) (k : KReg) : RoundTrip.Statement (.vmin d a b k) := by
  refine fun hw => ⟨fun _ => ?_, fun c => WordClass.noConfusion c⟩
  rw [show encode (.vmin d a b k) = packV 0x2E 12 b.field a d k b.form from rfl,
    decode_2e _ (by rw [major, fld_packV_op]; rfl)]
  simp only [decodeVint, fld_packV_form, fld_packV_k, fld_packV_d, fld_packV_a, fld_packV_b, fld_packV_fn,
    rrFn, rrB, rrA, rrD, vK, vForm, vsrcOf_src, isInt_form]
  exact rsv_true hw

theorem RoundTrip.vmax (d : Reg) (a : Reg) (b : VSrc) (k : KReg) : RoundTrip.Statement (.vmax d a b k) := by
  refine fun hw => ⟨fun _ => ?_, fun c => WordClass.noConfusion c⟩
  rw [show encode (.vmax d a b k) = packV 0x2E 13 b.field a d k b.form from rfl,
    decode_2e _ (by rw [major, fld_packV_op]; rfl)]
  simp only [decodeVint, fld_packV_form, fld_packV_k, fld_packV_d, fld_packV_a, fld_packV_b, fld_packV_fn,
    rrFn, rrB, rrA, rrD, vK, vForm, vsrcOf_src, isInt_form]
  exact rsv_true hw

theorem RoundTrip.vsadd (d : Reg) (a : Reg) (b : VSrc) (k : KReg) : RoundTrip.Statement (.vsadd d a b k) := by
  refine fun hw => ⟨fun _ => ?_, fun c => WordClass.noConfusion c⟩
  rw [show encode (.vsadd d a b k) = packV 0x2E 14 b.field a d k b.form from rfl,
    decode_2e _ (by rw [major, fld_packV_op]; rfl)]
  simp only [decodeVint, fld_packV_form, fld_packV_k, fld_packV_d, fld_packV_a, fld_packV_b, fld_packV_fn,
    rrFn, rrB, rrA, rrD, vK, vForm, vsrcOf_src, isInt_form]
  exact rsv_true hw

theorem RoundTrip.vssub (d : Reg) (a : Reg) (b : VSrc) (k : KReg) : RoundTrip.Statement (.vssub d a b k) := by
  refine fun hw => ⟨fun _ => ?_, fun c => WordClass.noConfusion c⟩
  rw [show encode (.vssub d a b k) = packV 0x2E 15 b.field a d k b.form from rfl,
    decode_2e _ (by rw [major, fld_packV_op]; rfl)]
  simp only [decodeVint, fld_packV_form, fld_packV_k, fld_packV_d, fld_packV_a, fld_packV_b, fld_packV_fn,
    rrFn, rrB, rrA, rrD, vK, vForm, vsrcOf_src, isInt_form]
  exact rsv_true hw

theorem RoundTrip.vmerge (d : Reg) (a : Reg) (b : VSrc) (k : KReg) :
    RoundTrip.Statement (.vmerge d a b k) := by
  refine fun hw => ⟨fun _ => ?_, fun c => WordClass.noConfusion c⟩
  rw [show encode (.vmerge d a b k) = packV 0x2E 16 b.field a d k b.form from rfl,
    decode_2e _ (by rw [major, fld_packV_op]; rfl)]
  simp only [decodeVint, fld_packV_form, fld_packV_k, fld_packV_d, fld_packV_a, fld_packV_b, fld_packV_fn,
    rrFn, rrB, rrA, rrD, vK, vForm, vsrcOf_src, isInt_form]
  exact rsv_true hw

theorem RoundTrip.vmv (d : Reg) (a : Reg) (k : KReg) : RoundTrip.Statement (.vmv d a k) := by
  refine fun hw => ⟨fun _ => ?_, fun c => WordClass.noConfusion c⟩
  rw [show encode (.vmv d a k) = packV 0x2E 17 0 a d k 0 from rfl,
    decode_2e _ (by rw [major, fld_packV_op]; rfl)]
  simp only [decodeVint, fld_packV_form, fld_packV_k, fld_packV_d, fld_packV_a, fld_packV_b, fld_packV_fn,
    rrFn, rrB, rrA, rrD, vK, vForm]
  rfl

theorem RoundTrip.vfadd (d : Reg) (a : Reg) (b : VSrc) (k : KReg) : RoundTrip.Statement (.vfadd d a b k) := by
  refine fun hw => ⟨fun _ => ?_, fun c => WordClass.noConfusion c⟩
  rw [show encode (.vfadd d a b k) = packV 0x2F 0 b.field a d k b.form from rfl,
    decode_2f _ (by rw [major, fld_packV_op]; rfl)]
  simp only [decodeVfp, fld_packV_form, fld_packV_k, fld_packV_d, fld_packV_a, fld_packV_b, fld_packV_fn,
    rrFn, rrB, rrA, rrD, vK, vForm, vsrcOf_src, isFp_form]
  exact rsv_true hw

theorem RoundTrip.vfsub (d : Reg) (a : Reg) (b : VSrc) (k : KReg) : RoundTrip.Statement (.vfsub d a b k) := by
  refine fun hw => ⟨fun _ => ?_, fun c => WordClass.noConfusion c⟩
  rw [show encode (.vfsub d a b k) = packV 0x2F 1 b.field a d k b.form from rfl,
    decode_2f _ (by rw [major, fld_packV_op]; rfl)]
  simp only [decodeVfp, fld_packV_form, fld_packV_k, fld_packV_d, fld_packV_a, fld_packV_b, fld_packV_fn,
    rrFn, rrB, rrA, rrD, vK, vForm, vsrcOf_src, isFp_form]
  exact rsv_true hw

theorem RoundTrip.vfmul (d : Reg) (a : Reg) (b : VSrc) (k : KReg) : RoundTrip.Statement (.vfmul d a b k) := by
  refine fun hw => ⟨fun _ => ?_, fun c => WordClass.noConfusion c⟩
  rw [show encode (.vfmul d a b k) = packV 0x2F 2 b.field a d k b.form from rfl,
    decode_2f _ (by rw [major, fld_packV_op]; rfl)]
  simp only [decodeVfp, fld_packV_form, fld_packV_k, fld_packV_d, fld_packV_a, fld_packV_b, fld_packV_fn,
    rrFn, rrB, rrA, rrD, vK, vForm, vsrcOf_src, isFp_form]
  exact rsv_true hw

theorem RoundTrip.vfdiv (d : Reg) (a : Reg) (b : VSrc) (k : KReg) : RoundTrip.Statement (.vfdiv d a b k) := by
  refine fun hw => ⟨fun _ => ?_, fun c => WordClass.noConfusion c⟩
  rw [show encode (.vfdiv d a b k) = packV 0x2F 3 b.field a d k b.form from rfl,
    decode_2f _ (by rw [major, fld_packV_op]; rfl)]
  simp only [decodeVfp, fld_packV_form, fld_packV_k, fld_packV_d, fld_packV_a, fld_packV_b, fld_packV_fn,
    rrFn, rrB, rrA, rrD, vK, vForm, vsrcOf_src, isFp_form]
  exact rsv_true hw

theorem RoundTrip.vfma (d : Reg) (a : Reg) (b : VSrc) (k : KReg) : RoundTrip.Statement (.vfma d a b k) := by
  refine fun hw => ⟨fun _ => ?_, fun c => WordClass.noConfusion c⟩
  rw [show encode (.vfma d a b k) = packV 0x2F 4 b.field a d k b.form from rfl,
    decode_2f _ (by rw [major, fld_packV_op]; rfl)]
  simp only [decodeVfp, fld_packV_form, fld_packV_k, fld_packV_d, fld_packV_a, fld_packV_b, fld_packV_fn,
    rrFn, rrB, rrA, rrD, vK, vForm, vsrcOf_src, isFp_form]
  exact rsv_true hw

theorem RoundTrip.vfms (d : Reg) (a : Reg) (b : VSrc) (k : KReg) : RoundTrip.Statement (.vfms d a b k) := by
  refine fun hw => ⟨fun _ => ?_, fun c => WordClass.noConfusion c⟩
  rw [show encode (.vfms d a b k) = packV 0x2F 5 b.field a d k b.form from rfl,
    decode_2f _ (by rw [major, fld_packV_op]; rfl)]
  simp only [decodeVfp, fld_packV_form, fld_packV_k, fld_packV_d, fld_packV_a, fld_packV_b, fld_packV_fn,
    rrFn, rrB, rrA, rrD, vK, vForm, vsrcOf_src, isFp_form]
  exact rsv_true hw

theorem RoundTrip.vfnma (d : Reg) (a : Reg) (b : VSrc) (k : KReg) : RoundTrip.Statement (.vfnma d a b k) := by
  refine fun hw => ⟨fun _ => ?_, fun c => WordClass.noConfusion c⟩
  rw [show encode (.vfnma d a b k) = packV 0x2F 6 b.field a d k b.form from rfl,
    decode_2f _ (by rw [major, fld_packV_op]; rfl)]
  simp only [decodeVfp, fld_packV_form, fld_packV_k, fld_packV_d, fld_packV_a, fld_packV_b, fld_packV_fn,
    rrFn, rrB, rrA, rrD, vK, vForm, vsrcOf_src, isFp_form]
  exact rsv_true hw

theorem RoundTrip.vfmin (d : Reg) (a : Reg) (b : VSrc) (k : KReg) : RoundTrip.Statement (.vfmin d a b k) := by
  refine fun hw => ⟨fun _ => ?_, fun c => WordClass.noConfusion c⟩
  rw [show encode (.vfmin d a b k) = packV 0x2F 7 b.field a d k b.form from rfl,
    decode_2f _ (by rw [major, fld_packV_op]; rfl)]
  simp only [decodeVfp, fld_packV_form, fld_packV_k, fld_packV_d, fld_packV_a, fld_packV_b, fld_packV_fn,
    rrFn, rrB, rrA, rrD, vK, vForm, vsrcOf_src, isFp_form]
  exact rsv_true hw

theorem RoundTrip.vfmax (d : Reg) (a : Reg) (b : VSrc) (k : KReg) : RoundTrip.Statement (.vfmax d a b k) := by
  refine fun hw => ⟨fun _ => ?_, fun c => WordClass.noConfusion c⟩
  rw [show encode (.vfmax d a b k) = packV 0x2F 8 b.field a d k b.form from rfl,
    decode_2f _ (by rw [major, fld_packV_op]; rfl)]
  simp only [decodeVfp, fld_packV_form, fld_packV_k, fld_packV_d, fld_packV_a, fld_packV_b, fld_packV_fn,
    rrFn, rrB, rrA, rrD, vK, vForm, vsrcOf_src, isFp_form]
  exact rsv_true hw

theorem RoundTrip.vfsqrt (d : Reg) (a : Reg) (k : KReg) : RoundTrip.Statement (.vfsqrt d a k) := by
  refine fun hw => ⟨fun _ => ?_, fun c => WordClass.noConfusion c⟩
  rw [show encode (.vfsqrt d a k) = packV 0x2F 9 0 a d k 0 from rfl,
    decode_2f _ (by rw [major, fld_packV_op]; rfl)]
  simp only [decodeVfp, fld_packV_form, fld_packV_k, fld_packV_d, fld_packV_a, fld_packV_b, fld_packV_fn,
    rrFn, rrB, rrA, rrD, vK, vForm]
  rfl

theorem RoundTrip.vfrsqrt (d : Reg) (a : Reg) (k : KReg) : RoundTrip.Statement (.vfrsqrt d a k) := by
  refine fun hw => ⟨fun _ => ?_, fun c => WordClass.noConfusion c⟩
  rw [show encode (.vfrsqrt d a k) = packV 0x2F 10 0 a d k 0 from rfl,
    decode_2f _ (by rw [major, fld_packV_op]; rfl)]
  simp only [decodeVfp, fld_packV_form, fld_packV_k, fld_packV_d, fld_packV_a, fld_packV_b, fld_packV_fn,
    rrFn, rrB, rrA, rrD, vK, vForm]
  rfl

theorem RoundTrip.vfexp (d : Reg) (a : Reg) (k : KReg) : RoundTrip.Statement (.vfexp d a k) := by
  refine fun hw => ⟨fun _ => ?_, fun c => WordClass.noConfusion c⟩
  rw [show encode (.vfexp d a k) = packV 0x2F 11 0 a d k 0 from rfl,
    decode_2f _ (by rw [major, fld_packV_op]; rfl)]
  simp only [decodeVfp, fld_packV_form, fld_packV_k, fld_packV_d, fld_packV_a, fld_packV_b, fld_packV_fn,
    rrFn, rrB, rrA, rrD, vK, vForm]
  rfl

theorem RoundTrip.vfsgnj (d : Reg) (a : Reg) (b : VSrc) (k : KReg) :
    RoundTrip.Statement (.vfsgnj d a b k) := by
  refine fun hw => ⟨fun _ => ?_, fun c => WordClass.noConfusion c⟩
  rw [show encode (.vfsgnj d a b k) = packV 0x2F 12 b.field a d k b.form from rfl,
    decode_2f _ (by rw [major, fld_packV_op]; rfl)]
  simp only [decodeVfp, fld_packV_form, fld_packV_k, fld_packV_d, fld_packV_a, fld_packV_b, fld_packV_fn,
    rrFn, rrB, rrA, rrD, vK, vForm, vsrcOf_src, isFp_form]
  exact rsv_true hw

theorem RoundTrip.vfcvtXF (d : Reg) (a : Reg) (k : KReg) : RoundTrip.Statement (.vfcvtXF d a k) := by
  refine fun hw => ⟨fun _ => ?_, fun c => WordClass.noConfusion c⟩
  rw [show encode (.vfcvtXF d a k) = packV 0x2F 13 0 a d k 0 from rfl,
    decode_2f _ (by rw [major, fld_packV_op]; rfl)]
  simp only [decodeVfp, fld_packV_form, fld_packV_k, fld_packV_d, fld_packV_a, fld_packV_b, fld_packV_fn,
    rrFn, rrB, rrA, rrD, vK, vForm]
  rfl

theorem RoundTrip.vfcvtFX (d : Reg) (a : Reg) (k : KReg) : RoundTrip.Statement (.vfcvtFX d a k) := by
  refine fun hw => ⟨fun _ => ?_, fun c => WordClass.noConfusion c⟩
  rw [show encode (.vfcvtFX d a k) = packV 0x2F 14 0 a d k 0 from rfl,
    decode_2f _ (by rw [major, fld_packV_op]; rfl)]
  simp only [decodeVfp, fld_packV_form, fld_packV_k, fld_packV_d, fld_packV_a, fld_packV_b, fld_packV_fn,
    rrFn, rrB, rrA, rrD, vK, vForm]
  rfl

theorem RoundTrip.vfclass (d : Reg) (a : Reg) (k : KReg) : RoundTrip.Statement (.vfclass d a k) := by
  refine fun hw => ⟨fun _ => ?_, fun c => WordClass.noConfusion c⟩
  rw [show encode (.vfclass d a k) = packV 0x2F 15 0 a d k 0 from rfl,
    decode_2f _ (by rw [major, fld_packV_op]; rfl)]
  simp only [decodeVfp, fld_packV_form, fld_packV_k, fld_packV_d, fld_packV_a, fld_packV_b, fld_packV_fn,
    rrFn, rrB, rrA, rrD, vK, vForm]
  rfl

theorem RoundTrip.vcmpEq (kd : KReg) (a : Reg) (b : VSrc) (k : KReg) :
    RoundTrip.Statement (.vcmpEq kd a b k) := by
  refine fun hw => ⟨fun _ => ?_, fun c => WordClass.noConfusion c⟩
  rw [show encode (.vcmpEq kd a b k) = packV 0x30 0 b.field a (wide3 kd) k b.form from rfl,
    decode_30 _ (by rw [major, fld_packV_op]; rfl)]
  simp only [decodeVcmp, fld_packV_form, fld_packV_k, fld_packV_d, fld_packV_a, fld_packV_b, fld_packV_fn,
    rrFn, rrB, rrA, rrD, vK, vForm, lo3_wide3, below8_wide3, wide3_ne, vsrcOf_src]
  exact rsv_true hw

theorem RoundTrip.vcmpNe (kd : KReg) (a : Reg) (b : VSrc) (k : KReg) :
    RoundTrip.Statement (.vcmpNe kd a b k) := by
  refine fun hw => ⟨fun _ => ?_, fun c => WordClass.noConfusion c⟩
  rw [show encode (.vcmpNe kd a b k) = packV 0x30 1 b.field a (wide3 kd) k b.form from rfl,
    decode_30 _ (by rw [major, fld_packV_op]; rfl)]
  simp only [decodeVcmp, fld_packV_form, fld_packV_k, fld_packV_d, fld_packV_a, fld_packV_b, fld_packV_fn,
    rrFn, rrB, rrA, rrD, vK, vForm, lo3_wide3, below8_wide3, wide3_ne, vsrcOf_src]
  exact rsv_true hw

theorem RoundTrip.vcmpLt (kd : KReg) (a : Reg) (b : VSrc) (k : KReg) :
    RoundTrip.Statement (.vcmpLt kd a b k) := by
  refine fun hw => ⟨fun _ => ?_, fun c => WordClass.noConfusion c⟩
  rw [show encode (.vcmpLt kd a b k) = packV 0x30 2 b.field a (wide3 kd) k b.form from rfl,
    decode_30 _ (by rw [major, fld_packV_op]; rfl)]
  simp only [decodeVcmp, fld_packV_form, fld_packV_k, fld_packV_d, fld_packV_a, fld_packV_b, fld_packV_fn,
    rrFn, rrB, rrA, rrD, vK, vForm, lo3_wide3, below8_wide3, wide3_ne, vsrcOf_src]
  exact rsv_true hw

theorem RoundTrip.vcmpLe (kd : KReg) (a : Reg) (b : VSrc) (k : KReg) :
    RoundTrip.Statement (.vcmpLe kd a b k) := by
  refine fun hw => ⟨fun _ => ?_, fun c => WordClass.noConfusion c⟩
  rw [show encode (.vcmpLe kd a b k) = packV 0x30 3 b.field a (wide3 kd) k b.form from rfl,
    decode_30 _ (by rw [major, fld_packV_op]; rfl)]
  simp only [decodeVcmp, fld_packV_form, fld_packV_k, fld_packV_d, fld_packV_a, fld_packV_b, fld_packV_fn,
    rrFn, rrB, rrA, rrD, vK, vForm, lo3_wide3, below8_wide3, wide3_ne, vsrcOf_src]
  exact rsv_true hw

theorem RoundTrip.vcmpGt (kd : KReg) (a : Reg) (b : VSrc) (k : KReg) :
    RoundTrip.Statement (.vcmpGt kd a b k) := by
  refine fun hw => ⟨fun _ => ?_, fun c => WordClass.noConfusion c⟩
  rw [show encode (.vcmpGt kd a b k) = packV 0x30 4 b.field a (wide3 kd) k b.form from rfl,
    decode_30 _ (by rw [major, fld_packV_op]; rfl)]
  simp only [decodeVcmp, fld_packV_form, fld_packV_k, fld_packV_d, fld_packV_a, fld_packV_b, fld_packV_fn,
    rrFn, rrB, rrA, rrD, vK, vForm, lo3_wide3, below8_wide3, wide3_ne, vsrcOf_src]
  exact rsv_true hw

theorem RoundTrip.vcmpGe (kd : KReg) (a : Reg) (b : VSrc) (k : KReg) :
    RoundTrip.Statement (.vcmpGe kd a b k) := by
  refine fun hw => ⟨fun _ => ?_, fun c => WordClass.noConfusion c⟩
  rw [show encode (.vcmpGe kd a b k) = packV 0x30 5 b.field a (wide3 kd) k b.form from rfl,
    decode_30 _ (by rw [major, fld_packV_op]; rfl)]
  simp only [decodeVcmp, fld_packV_form, fld_packV_k, fld_packV_d, fld_packV_a, fld_packV_b, fld_packV_fn,
    rrFn, rrB, rrA, rrD, vK, vForm, lo3_wide3, below8_wide3, wide3_ne, vsrcOf_src]
  exact rsv_true hw

theorem RoundTrip.kand (kd : KReg) (ka : KReg) (kb : KReg) : RoundTrip.Statement (.kand kd ka kb) := by
  refine fun hw => ⟨fun _ => ?_, fun c => WordClass.noConfusion c⟩
  rw [show encode (.kand kd ka kb) = packV 0x30 6 (wide3 kb) (wide3 ka) (wide3 kd) 0 0 from rfl,
    decode_30 _ (by rw [major, fld_packV_op]; rfl)]
  simp only [decodeVcmp, fld_packV_form, fld_packV_k, fld_packV_d, fld_packV_a, fld_packV_b, fld_packV_fn,
    rrFn, rrB, rrA, rrD, vK, vForm, lo3_wide3, below8_wide3, wide3_ne]
  exact rsv_true hw

theorem RoundTrip.kor (kd : KReg) (ka : KReg) (kb : KReg) : RoundTrip.Statement (.kor kd ka kb) := by
  refine fun hw => ⟨fun _ => ?_, fun c => WordClass.noConfusion c⟩
  rw [show encode (.kor kd ka kb) = packV 0x30 7 (wide3 kb) (wide3 ka) (wide3 kd) 0 0 from rfl,
    decode_30 _ (by rw [major, fld_packV_op]; rfl)]
  simp only [decodeVcmp, fld_packV_form, fld_packV_k, fld_packV_d, fld_packV_a, fld_packV_b, fld_packV_fn,
    rrFn, rrB, rrA, rrD, vK, vForm, lo3_wide3, below8_wide3, wide3_ne]
  exact rsv_true hw

theorem RoundTrip.kxor (kd : KReg) (ka : KReg) (kb : KReg) : RoundTrip.Statement (.kxor kd ka kb) := by
  refine fun hw => ⟨fun _ => ?_, fun c => WordClass.noConfusion c⟩
  rw [show encode (.kxor kd ka kb) = packV 0x30 8 (wide3 kb) (wide3 ka) (wide3 kd) 0 0 from rfl,
    decode_30 _ (by rw [major, fld_packV_op]; rfl)]
  simp only [decodeVcmp, fld_packV_form, fld_packV_k, fld_packV_d, fld_packV_a, fld_packV_b, fld_packV_fn,
    rrFn, rrB, rrA, rrD, vK, vForm, lo3_wide3, below8_wide3, wide3_ne]
  exact rsv_true hw

theorem RoundTrip.knot (kd : KReg) (ka : KReg) : RoundTrip.Statement (.knot kd ka) := by
  refine fun hw => ⟨fun _ => ?_, fun c => WordClass.noConfusion c⟩
  rw [show encode (.knot kd ka) = packV 0x30 9 0 (wide3 ka) (wide3 kd) 0 0 from rfl,
    decode_30 _ (by rw [major, fld_packV_op]; rfl)]
  simp only [decodeVcmp, fld_packV_form, fld_packV_k, fld_packV_d, fld_packV_a, fld_packV_b, fld_packV_fn,
    rrFn, rrB, rrA, rrD, vK, vForm, lo3_wide3, below8_wide3, wide3_ne]
  exact rsv_true hw

theorem RoundTrip.kany (d : Reg) (ka : KReg) : RoundTrip.Statement (.kany d ka) := by
  refine fun hw => ⟨fun _ => ?_, fun c => WordClass.noConfusion c⟩
  rw [show encode (.kany d ka) = packV 0x30 10 0 (wide3 ka) d 0 0 from rfl,
    decode_30 _ (by rw [major, fld_packV_op]; rfl)]
  simp only [decodeVcmp, fld_packV_form, fld_packV_k, fld_packV_d, fld_packV_a, fld_packV_b, fld_packV_fn,
    rrFn, rrB, rrA, rrD, vK, vForm, lo3_wide3, below8_wide3]
  rfl

theorem RoundTrip.kall (d : Reg) (ka : KReg) : RoundTrip.Statement (.kall d ka) := by
  refine fun hw => ⟨fun _ => ?_, fun c => WordClass.noConfusion c⟩
  rw [show encode (.kall d ka) = packV 0x30 11 0 (wide3 ka) d 0 0 from rfl,
    decode_30 _ (by rw [major, fld_packV_op]; rfl)]
  simp only [decodeVcmp, fld_packV_form, fld_packV_k, fld_packV_d, fld_packV_a, fld_packV_b, fld_packV_fn,
    rrFn, rrB, rrA, rrD, vK, vForm, lo3_wide3, below8_wide3]
  rfl

theorem RoundTrip.kcount (d : Reg) (ka : KReg) : RoundTrip.Statement (.kcount d ka) := by
  refine fun hw => ⟨fun _ => ?_, fun c => WordClass.noConfusion c⟩
  rw [show encode (.kcount d ka) = packV 0x30 12 0 (wide3 ka) d 0 0 from rfl,
    decode_30 _ (by rw [major, fld_packV_op]; rfl)]
  simp only [decodeVcmp, fld_packV_form, fld_packV_k, fld_packV_d, fld_packV_a, fld_packV_b, fld_packV_fn,
    rrFn, rrB, rrA, rrD, vK, vForm, lo3_wide3, below8_wide3]
  rfl

theorem RoundTrip.vshup (d : Reg) (a : Reg) (b : VSrc) (k : KReg) : RoundTrip.Statement (.vshup d a b k) := by
  refine fun hw => ⟨fun _ => ?_, fun c => WordClass.noConfusion c⟩
  rw [show encode (.vshup d a b k) = packV 0x31 0 b.field a d k b.form from rfl,
    decode_31 _ (by rw [major, fld_packV_op]; rfl)]
  simp only [decodeVperm, fld_packV_form, fld_packV_k, fld_packV_d, fld_packV_a, fld_packV_b, fld_packV_fn,
    rrFn, rrB, rrA, rrD, vK, vForm, vsrcOf_src, isInt_form, isCopy_form, isShift_form]
  exact rsv_true hw

theorem RoundTrip.vshdn (d : Reg) (a : Reg) (b : VSrc) (k : KReg) : RoundTrip.Statement (.vshdn d a b k) := by
  refine fun hw => ⟨fun _ => ?_, fun c => WordClass.noConfusion c⟩
  rw [show encode (.vshdn d a b k) = packV 0x31 1 b.field a d k b.form from rfl,
    decode_31 _ (by rw [major, fld_packV_op]; rfl)]
  simp only [decodeVperm, fld_packV_form, fld_packV_k, fld_packV_d, fld_packV_a, fld_packV_b, fld_packV_fn,
    rrFn, rrB, rrA, rrD, vK, vForm, vsrcOf_src, isInt_form, isCopy_form, isShift_form]
  exact rsv_true hw

theorem RoundTrip.vpick (d : Reg) (a : Reg) (b : Reg) (k : KReg) : RoundTrip.Statement (.vpick d a b k) := by
  refine fun hw => ⟨fun _ => ?_, fun c => WordClass.noConfusion c⟩
  rw [show encode (.vpick d a b k) = packV 0x31 2 b a d k 0 from rfl,
    decode_31 _ (by rw [major, fld_packV_op]; rfl)]
  simp only [decodeVperm, fld_packV_form, fld_packV_k, fld_packV_d, fld_packV_a, fld_packV_b, fld_packV_fn,
    rrFn, rrB, rrA, rrD, vK, vForm]
  rfl

theorem RoundTrip.vcondense (d : Reg) (a : Reg) (k : KReg) : RoundTrip.Statement (.vcondense d a k) := by
  refine fun hw => ⟨fun _ => ?_, fun c => WordClass.noConfusion c⟩
  rw [show encode (.vcondense d a k) = packV 0x31 3 0 a d k 0 from rfl,
    decode_31 _ (by rw [major, fld_packV_op]; rfl)]
  simp only [decodeVperm, fld_packV_form, fld_packV_k, fld_packV_d, fld_packV_a, fld_packV_b, fld_packV_fn,
    rrFn, rrB, rrA, rrD, vK, vForm]
  rfl

theorem RoundTrip.vrev (d : Reg) (a : Reg) (k : KReg) : RoundTrip.Statement (.vrev d a k) := by
  refine fun hw => ⟨fun _ => ?_, fun c => WordClass.noConfusion c⟩
  rw [show encode (.vrev d a k) = packV 0x31 4 0 a d k 0 from rfl,
    decode_31 _ (by rw [major, fld_packV_op]; rfl)]
  simp only [decodeVperm, fld_packV_form, fld_packV_k, fld_packV_d, fld_packV_a, fld_packV_b, fld_packV_fn,
    rrFn, rrB, rrA, rrD, vK, vForm]
  rfl

theorem RoundTrip.vbcast (d : Reg) (a : Reg) (b : VSrc) (k : KReg) :
    RoundTrip.Statement (.vbcast d a b k) := by
  refine fun hw => ⟨fun _ => ?_, fun c => WordClass.noConfusion c⟩
  rw [show encode (.vbcast d a b k) = packV 0x31 5 b.field a d k b.form from rfl,
    decode_31 _ (by rw [major, fld_packV_op]; rfl)]
  simp only [decodeVperm, fld_packV_form, fld_packV_k, fld_packV_d, fld_packV_a, fld_packV_b, fld_packV_fn,
    rrFn, rrB, rrA, rrD, vK, vForm, vsrcOf_src, isInt_form, isCopy_form, isShift_form]
  exact rsv_true hw

theorem RoundTrip.vinsx (d : Reg) (a : Reg) (b : VSrc) (k : KReg) : RoundTrip.Statement (.vinsx d a b k) := by
  refine fun hw => ⟨fun _ => ?_, fun c => WordClass.noConfusion c⟩
  rw [show encode (.vinsx d a b k) = packV 0x31 6 b.field a d k b.form from rfl,
    decode_31 _ (by rw [major, fld_packV_op]; rfl)]
  simp only [decodeVperm, fld_packV_form, fld_packV_k, fld_packV_d, fld_packV_a, fld_packV_b, fld_packV_fn,
    rrFn, rrB, rrA, rrD, vK, vForm, vsrcOf_src, isInt_form, isCopy_form, isShift_form]
  exact rsv_true hw

theorem RoundTrip.vextx (d : Reg) (a : Reg) (b : Reg) : RoundTrip.Statement (.vextx d a b) := by
  refine fun hw => ⟨fun _ => ?_, fun c => WordClass.noConfusion c⟩
  rw [show encode (.vextx d a b) = packV 0x31 7 b a d 0 1 from rfl,
    decode_31 _ (by rw [major, fld_packV_op]; rfl)]
  simp only [decodeVperm, fld_packV_form, fld_packV_k, fld_packV_d, fld_packV_a, fld_packV_b, fld_packV_fn,
    rrFn, rrB, rrA, rrD, vK, vForm]
  rfl

theorem RoundTrip.vredsumO (d : Reg) (a : Reg) (b : Reg) (k : KReg) :
    RoundTrip.Statement (.vredsumO d a b k) := by
  refine fun hw => ⟨fun _ => ?_, fun c => WordClass.noConfusion c⟩
  rw [show encode (.vredsumO d a b k) = packV 0x31 8 b a d k 0 from rfl,
    decode_31 _ (by rw [major, fld_packV_op]; rfl)]
  simp only [decodeVperm, fld_packV_form, fld_packV_k, fld_packV_d, fld_packV_a, fld_packV_b, fld_packV_fn,
    rrFn, rrB, rrA, rrD, vK, vForm]
  rfl

theorem RoundTrip.vredsum (d : Reg) (a : Reg) (b : Reg) (k : KReg) :
    RoundTrip.Statement (.vredsum d a b k) := by
  refine fun hw => ⟨fun _ => ?_, fun c => WordClass.noConfusion c⟩
  rw [show encode (.vredsum d a b k) = packV 0x31 9 b a d k 0 from rfl,
    decode_31 _ (by rw [major, fld_packV_op]; rfl)]
  simp only [decodeVperm, fld_packV_form, fld_packV_k, fld_packV_d, fld_packV_a, fld_packV_b, fld_packV_fn,
    rrFn, rrB, rrA, rrD, vK, vForm]
  rfl

theorem RoundTrip.vredmax (d : Reg) (a : Reg) (b : Reg) (k : KReg) :
    RoundTrip.Statement (.vredmax d a b k) := by
  refine fun hw => ⟨fun _ => ?_, fun c => WordClass.noConfusion c⟩
  rw [show encode (.vredmax d a b k) = packV 0x31 10 b a d k 0 from rfl,
    decode_31 _ (by rw [major, fld_packV_op]; rfl)]
  simp only [decodeVperm, fld_packV_form, fld_packV_k, fld_packV_d, fld_packV_a, fld_packV_b, fld_packV_fn,
    rrFn, rrB, rrA, rrD, vK, vForm]
  rfl

theorem RoundTrip.vredmin (d : Reg) (a : Reg) (b : Reg) (k : KReg) :
    RoundTrip.Statement (.vredmin d a b k) := by
  refine fun hw => ⟨fun _ => ?_, fun c => WordClass.noConfusion c⟩
  rw [show encode (.vredmin d a b k) = packV 0x31 11 b a d k 0 from rfl,
    decode_31 _ (by rw [major, fld_packV_op]; rfl)]
  simp only [decodeVperm, fld_packV_form, fld_packV_k, fld_packV_d, fld_packV_a, fld_packV_b, fld_packV_fn,
    rrFn, rrB, rrA, rrD, vK, vForm]
  rfl

theorem RoundTrip.vsegredO (d : Reg) (a : Reg) (b : Reg) (k : KReg) :
    RoundTrip.Statement (.vsegredO d a b k) := by
  refine fun hw => ⟨fun _ => ?_, fun c => WordClass.noConfusion c⟩
  rw [show encode (.vsegredO d a b k) = packV 0x31 12 b a d k 0 from rfl,
    decode_31 _ (by rw [major, fld_packV_op]; rfl)]
  simp only [decodeVperm, fld_packV_form, fld_packV_k, fld_packV_d, fld_packV_a, fld_packV_b, fld_packV_fn,
    rrFn, rrB, rrA, rrD, vK, vForm]
  rfl

theorem RoundTrip.vscanO (d : Reg) (a : Reg) (b : Reg) (k : KReg) :
    RoundTrip.Statement (.vscanO d a b k) := by
  refine fun hw => ⟨fun _ => ?_, fun c => WordClass.noConfusion c⟩
  rw [show encode (.vscanO d a b k) = packV 0x31 13 b a d k 0 from rfl,
    decode_31 _ (by rw [major, fld_packV_op]; rfl)]
  simp only [decodeVperm, fld_packV_form, fld_packV_k, fld_packV_d, fld_packV_a, fld_packV_b, fld_packV_fn,
    rrFn, rrB, rrA, rrD, vK, vForm]
  rfl

theorem RoundTrip.vscan (d : Reg) (a : Reg) (b : Reg) (k : KReg) : RoundTrip.Statement (.vscan d a b k) := by
  refine fun hw => ⟨fun _ => ?_, fun c => WordClass.noConfusion c⟩
  rw [show encode (.vscan d a b k) = packV 0x31 14 b a d k 0 from rfl,
    decode_31 _ (by rw [major, fld_packV_op]; rfl)]
  simp only [decodeVperm, fld_packV_form, fld_packV_k, fld_packV_d, fld_packV_a, fld_packV_b, fld_packV_fn,
    rrFn, rrB, rrA, rrD, vK, vForm]
  rfl

theorem RoundTrip.vscanmax (d : Reg) (a : Reg) (b : Reg) (k : KReg) :
    RoundTrip.Statement (.vscanmax d a b k) := by
  refine fun hw => ⟨fun _ => ?_, fun c => WordClass.noConfusion c⟩
  rw [show encode (.vscanmax d a b k) = packV 0x31 15 b a d k 0 from rfl,
    decode_31 _ (by rw [major, fld_packV_op]; rfl)]
  simp only [decodeVperm, fld_packV_form, fld_packV_k, fld_packV_d, fld_packV_a, fld_packV_b, fld_packV_fn,
    rrFn, rrB, rrA, rrD, vK, vForm]
  rfl

theorem RoundTrip.vdot16 (d : Reg) (a : Reg) (b : Reg) (fd : Reg) (k : KReg) :
    RoundTrip.Statement (.vdot16 d a b fd k) := by
  refine fun hw => ⟨fun _ => ?_, fun c => WordClass.noConfusion c⟩
  rw [show encode (.vdot16 d a b fd k) = packVN 0x32 fd b a d k 0 from rfl,
    decode_32 _ (by rw [major, fld_packVN_op]; rfl)]
  simp only [decodeVnar, fld_packVN_fn, fld_packVN_k, fld_packVN_d, fld_packVN_a, fld_packVN_b, fld_packVN_fd]
  rfl

theorem RoundTrip.vquant (d : Reg) (a : Reg) (fd : Reg) (k : KReg) :
    RoundTrip.Statement (.vquant d a fd k) := by
  refine fun hw => ⟨fun _ => ?_, fun c => WordClass.noConfusion c⟩
  rw [show encode (.vquant d a fd k) = packVN 0x32 fd 0 a d k 1 from rfl,
    decode_32 _ (by rw [major, fld_packVN_op]; rfl)]
  simp only [decodeVnar, fld_packVN_fn, fld_packVN_k, fld_packVN_d, fld_packVN_a, fld_packVN_b, fld_packVN_fd]
  rfl

theorem RoundTrip.vdeq (d : Reg) (a : Reg) (fd : Reg) (k : KReg) : RoundTrip.Statement (.vdeq d a fd k) := by
  refine fun hw => ⟨fun _ => ?_, fun c => WordClass.noConfusion c⟩
  rw [show encode (.vdeq d a fd k) = packVN 0x32 fd 0 a d k 2 from rfl,
    decode_32 _ (by rw [major, fld_packVN_op]; rfl)]
  simp only [decodeVnar, fld_packVN_fn, fld_packVN_k, fld_packVN_d, fld_packVN_a, fld_packVN_b, fld_packVN_fd]
  rfl

theorem RoundTrip.vbpack (d : Reg) (a : Reg) (fd : Reg) (k : KReg) :
    RoundTrip.Statement (.vbpack d a fd k) := by
  refine fun hw => ⟨fun _ => ?_, fun c => WordClass.noConfusion c⟩
  rw [show encode (.vbpack d a fd k) = packVN 0x32 fd 0 a d k 3 from rfl,
    decode_32 _ (by rw [major, fld_packVN_op]; rfl)]
  simp only [decodeVnar, fld_packVN_fn, fld_packVN_k, fld_packVN_d, fld_packVN_a, fld_packVN_b, fld_packVN_fd]
  rfl

theorem RoundTrip.vbunpack (d : Reg) (a : Reg) (fd : Reg) (k : KReg) :
    RoundTrip.Statement (.vbunpack d a fd k) := by
  refine fun hw => ⟨fun _ => ?_, fun c => WordClass.noConfusion c⟩
  rw [show encode (.vbunpack d a fd k) = packVN 0x32 fd 0 a d k 4 from rfl,
    decode_32 _ (by rw [major, fld_packVN_op]; rfl)]
  simp only [decodeVnar, fld_packVN_fn, fld_packVN_k, fld_packVN_d, fld_packVN_a, fld_packVN_b, fld_packVN_fd]
  rfl

theorem RoundTrip.vcvt (d : Reg) (a : Reg) (fd : Reg) (k : KReg) : RoundTrip.Statement (.vcvt d a fd k) := by
  refine fun hw => ⟨fun _ => ?_, fun c => WordClass.noConfusion c⟩
  rw [show encode (.vcvt d a fd k) = packVN 0x32 fd 0 a d k 5 from rfl,
    decode_32 _ (by rw [major, fld_packVN_op]; rfl)]
  simp only [decodeVnar, fld_packVN_fn, fld_packVN_k, fld_packVN_d, fld_packVN_a, fld_packVN_b, fld_packVN_fd]
  rfl

theorem RoundTrip.vscore (a : Reg) (xb : Reg) (k : KReg) : RoundTrip.Statement (.vscore a xb k) := by
  refine fun hw => ⟨fun _ => ?_, fun c => WordClass.noConfusion c⟩
  rw [show encode (.vscore a xb k) = packV 0x33 0 xb a 0 k 1 from rfl,
    decode_33 _ (by rw [major, fld_packV_op]; rfl)]
  simp only [decodeVatt, fld_packV_form, fld_packV_k, fld_packV_d, fld_packV_a, fld_packV_b, fld_packV_fn,
    rrFn, rrB, rrA, rrD, vK, vForm]
  rfl

theorem RoundTrip.vexpm : RoundTrip.Statement (.vexpm) := by
  refine fun hw => ⟨fun _ => ?_, fun c => WordClass.noConfusion c⟩
  rw [show encode (.vexpm) = packV 0x33 1 0 0 0 0 0 from rfl, decode_33 _ (by rw [major, fld_packV_op]; rfl)]
  simp only [decodeVatt, fld_packV_form, fld_packV_k, fld_packV_d, fld_packV_a, fld_packV_b, fld_packV_fn,
    rrFn, rrB, rrA, rrD, vK, vForm]
  rfl

theorem RoundTrip.vaccv (d : Reg) (xb : Reg) : RoundTrip.Statement (.vaccv d xb) := by
  refine fun hw => ⟨fun _ => ?_, fun c => WordClass.noConfusion c⟩
  rw [show encode (.vaccv d xb) = packV 0x33 2 xb 0 d 0 1 from rfl,
    decode_33 _ (by rw [major, fld_packV_op]; rfl)]
  simp only [decodeVatt, fld_packV_form, fld_packV_k, fld_packV_d, fld_packV_a, fld_packV_b, fld_packV_fn,
    rrFn, rrB, rrA, rrD, vK, vForm]
  rfl

theorem RoundTrip.vsegmax (d : Reg) : RoundTrip.Statement (.vsegmax d) := by
  refine fun hw => ⟨fun _ => ?_, fun c => WordClass.noConfusion c⟩
  rw [show encode (.vsegmax d) = packV 0x33 3 0 0 d 0 0 from rfl,
    decode_33 _ (by rw [major, fld_packV_op]; rfl)]
  simp only [decodeVatt, fld_packV_form, fld_packV_k, fld_packV_d, fld_packV_a, fld_packV_b, fld_packV_fn,
    rrFn, rrB, rrA, rrD, vK, vForm]
  rfl

theorem RoundTrip.vsegsum (d : Reg) (ks : KReg) : RoundTrip.Statement (.vsegsum d ks) := by
  refine fun hw => ⟨fun _ => ?_, fun c => WordClass.noConfusion c⟩
  rw [show encode (.vsegsum d ks) = packV 0x33 4 0 0 d ks 0 from rfl,
    decode_33 _ (by rw [major, fld_packV_op]; rfl)]
  simp only [decodeVatt, fld_packV_form, fld_packV_k, fld_packV_d, fld_packV_a, fld_packV_b, fld_packV_fn,
    rrFn, rrB, rrA, rrD, vK, vForm]
  exact rsv_true hw

theorem RoundTrip.vbound (d : Reg) (a : Reg) (xb : Reg) (k : KReg) :
    RoundTrip.Statement (.vbound d a xb k) := by
  refine fun hw => ⟨fun _ => ?_, fun c => WordClass.noConfusion c⟩
  rw [show encode (.vbound d a xb k) = packV 0x33 5 xb a d k 1 from rfl,
    decode_33 _ (by rw [major, fld_packV_op]; rfl)]
  simp only [decodeVatt, fld_packV_form, fld_packV_k, fld_packV_d, fld_packV_a, fld_packV_b, fld_packV_fn,
    rrFn, rrB, rrA, rrD, vK, vForm]
  rfl

theorem RoundTrip.vtopk (d : Reg) (a : Reg) (xb : Reg) (k : KReg) :
    RoundTrip.Statement (.vtopk d a xb k) := by
  refine fun hw => ⟨fun _ => ?_, fun c => WordClass.noConfusion c⟩
  rw [show encode (.vtopk d a xb k) = packV 0x33 6 xb a d k 1 from rfl,
    decode_33 _ (by rw [major, fld_packV_op]; rfl)]
  simp only [decodeVatt, fld_packV_form, fld_packV_k, fld_packV_d, fld_packV_a, fld_packV_b, fld_packV_fn,
    rrFn, rrB, rrA, rrD, vK, vForm]
  rfl

theorem RoundTrip.vrand (d : Reg) (xa : Reg) (xb : Reg) (k : KReg) :
    RoundTrip.Statement (.vrand d xa xb k) := by
  refine fun hw => ⟨fun _ => ?_, fun c => WordClass.noConfusion c⟩
  rw [show encode (.vrand d xa xb k) = packV 0x33 7 xb xa d k 1 from rfl,
    decode_33 _ (by rw [major, fld_packV_op]; rfl)]
  simp only [decodeVatt, fld_packV_form, fld_packV_k, fld_packV_d, fld_packV_a, fld_packV_b, fld_packV_fn,
    rrFn, rrB, rrA, rrD, vK, vForm]
  rfl

theorem RoundTrip.vsamp (d : Reg) (a : Reg) (b : Reg) (k : KReg) : RoundTrip.Statement (.vsamp d a b k) := by
  refine fun hw => ⟨fun _ => ?_, fun c => WordClass.noConfusion c⟩
  rw [show encode (.vsamp d a b k) = packV 0x33 8 b a d k 0 from rfl,
    decode_33 _ (by rw [major, fld_packV_op]; rfl)]
  simp only [decodeVatt, fld_packV_form, fld_packV_k, fld_packV_d, fld_packV_a, fld_packV_b, fld_packV_fn,
    rrFn, rrB, rrA, rrD, vK, vForm]
  rfl

theorem RoundTrip.vargmax (d : Reg) (a : Reg) (k : KReg) : RoundTrip.Statement (.vargmax d a k) := by
  refine fun hw => ⟨fun _ => ?_, fun c => WordClass.noConfusion c⟩
  rw [show encode (.vargmax d a k) = packV 0x33 9 0 a d k 0 from rfl,
    decode_33 _ (by rw [major, fld_packV_op]; rfl)]
  simp only [decodeVatt, fld_packV_form, fld_packV_k, fld_packV_d, fld_packV_a, fld_packV_b, fld_packV_fn,
    rrFn, rrB, rrA, rrD, vK, vForm]
  rfl

theorem RoundTrip.vspeck (d : Reg) (a : Reg) (b : Reg) (k : KReg) :
    RoundTrip.Statement (.vspeck d a b k) := by
  refine fun hw => ⟨fun _ => ?_, fun c => WordClass.noConfusion c⟩
  rw [show encode (.vspeck d a b k) = packV 0x33 10 b a d k 0 from rfl,
    decode_33 _ (by rw [major, fld_packV_op]; rfl)]
  simp only [decodeVatt, fld_packV_form, fld_packV_k, fld_packV_d, fld_packV_a, fld_packV_b, fld_packV_fn,
    rrFn, rrB, rrA, rrD, vK, vForm]
  rfl

theorem RoundTrip.vld (d : Reg) (base : Reg) (k : KReg) (h : Hint) :
    RoundTrip.Statement (.vld d base k h) := by
  refine fun hw => ⟨fun _ => ?_, fun c => WordClass.noConfusion c⟩
  rw [show encode (.vld d base k h) = packV 0x34 0 0 base d k h from rfl,
    decode_34 _ (by rw [major, fld_packV_op]; rfl)]
  simp only [decodeVld, fld_packV_form, fld_packV_k, fld_packV_d, fld_packV_a, fld_packV_b, fld_packV_fn,
    rrFn, rrB, rrA, rrD, vK, vForm]
  rfl

theorem RoundTrip.vlds (d : Reg) (base : Reg) (stride : Reg) (k : KReg) (h : Hint) :
    RoundTrip.Statement (.vlds d base stride k h) := by
  refine fun hw => ⟨fun _ => ?_, fun c => WordClass.noConfusion c⟩
  rw [show encode (.vlds d base stride k h) = packV 0x34 1 stride base d k h from rfl,
    decode_34 _ (by rw [major, fld_packV_op]; rfl)]
  simp only [decodeVld, fld_packV_form, fld_packV_k, fld_packV_d, fld_packV_a, fld_packV_b, fld_packV_fn,
    rrFn, rrB, rrA, rrD, vK, vForm]
  rfl

theorem RoundTrip.vldx (d : Reg) (base : Reg) (idx : Reg) (k : KReg) (h : Hint) :
    RoundTrip.Statement (.vldx d base idx k h) := by
  refine fun hw => ⟨fun _ => ?_, fun c => WordClass.noConfusion c⟩
  rw [show encode (.vldx d base idx k h) = packV 0x34 2 idx base d k h from rfl,
    decode_34 _ (by rw [major, fld_packV_op]; rfl)]
  simp only [decodeVld, fld_packV_form, fld_packV_k, fld_packV_d, fld_packV_a, fld_packV_b, fld_packV_fn,
    rrFn, rrB, rrA, rrD, vK, vForm]
  rfl

theorem RoundTrip.vldp (d : Reg) (base : Reg) (h : Hint) : RoundTrip.Statement (.vldp d base h) := by
  refine fun hw => ⟨fun _ => ?_, fun c => WordClass.noConfusion c⟩
  rw [show encode (.vldp d base h) = packV 0x34 3 0 base d 0 h from rfl,
    decode_34 _ (by rw [major, fld_packV_op]; rfl)]
  simp only [decodeVld, fld_packV_form, fld_packV_k, fld_packV_d, fld_packV_a, fld_packV_b, fld_packV_fn,
    rrFn, rrB, rrA, rrD, vK, vForm]
  rfl

theorem RoundTrip.vldNc (d : Reg) (base : Reg) (k : KReg) : RoundTrip.Statement (.vldNc d base k) := by
  refine fun hw => ⟨fun _ => ?_, fun c => WordClass.noConfusion c⟩
  rw [show encode (.vldNc d base k) = packV 0x34 4 0 base d k 0 from rfl,
    decode_34 _ (by rw [major, fld_packV_op]; rfl)]
  simp only [decodeVld, fld_packV_form, fld_packV_k, fld_packV_d, fld_packV_a, fld_packV_b, fld_packV_fn,
    rrFn, rrB, rrA, rrD, vK, vForm]
  rfl

theorem RoundTrip.vldsNc (d : Reg) (base : Reg) (stride : Reg) (k : KReg) :
    RoundTrip.Statement (.vldsNc d base stride k) := by
  refine fun hw => ⟨fun _ => ?_, fun c => WordClass.noConfusion c⟩
  rw [show encode (.vldsNc d base stride k) = packV 0x34 5 stride base d k 0 from rfl,
    decode_34 _ (by rw [major, fld_packV_op]; rfl)]
  simp only [decodeVld, fld_packV_form, fld_packV_k, fld_packV_d, fld_packV_a, fld_packV_b, fld_packV_fn,
    rrFn, rrB, rrA, rrD, vK, vForm]
  rfl

theorem RoundTrip.vldxNc (d : Reg) (base : Reg) (idx : Reg) (k : KReg) :
    RoundTrip.Statement (.vldxNc d base idx k) := by
  refine fun hw => ⟨fun _ => ?_, fun c => WordClass.noConfusion c⟩
  rw [show encode (.vldxNc d base idx k) = packV 0x34 6 idx base d k 0 from rfl,
    decode_34 _ (by rw [major, fld_packV_op]; rfl)]
  simp only [decodeVld, fld_packV_form, fld_packV_k, fld_packV_d, fld_packV_a, fld_packV_b, fld_packV_fn,
    rrFn, rrB, rrA, rrD, vK, vForm]
  rfl

theorem RoundTrip.vst (d : Reg) (base : Reg) (k : KReg) (h : Hint) :
    RoundTrip.Statement (.vst d base k h) := by
  refine fun hw => ⟨fun _ => ?_, fun c => WordClass.noConfusion c⟩
  rw [show encode (.vst d base k h) = packV 0x35 0 0 base d k h from rfl,
    decode_35 _ (by rw [major, fld_packV_op]; rfl)]
  simp only [decodeVst, fld_packV_form, fld_packV_k, fld_packV_d, fld_packV_a, fld_packV_b, fld_packV_fn,
    rrFn, rrB, rrA, rrD, vK, vForm]
  rfl

theorem RoundTrip.vsts (d : Reg) (base : Reg) (stride : Reg) (k : KReg) (h : Hint) :
    RoundTrip.Statement (.vsts d base stride k h) := by
  refine fun hw => ⟨fun _ => ?_, fun c => WordClass.noConfusion c⟩
  rw [show encode (.vsts d base stride k h) = packV 0x35 1 stride base d k h from rfl,
    decode_35 _ (by rw [major, fld_packV_op]; rfl)]
  simp only [decodeVst, fld_packV_form, fld_packV_k, fld_packV_d, fld_packV_a, fld_packV_b, fld_packV_fn,
    rrFn, rrB, rrA, rrD, vK, vForm]
  rfl

theorem RoundTrip.vstx (d : Reg) (base : Reg) (idx : Reg) (k : KReg) (h : Hint) :
    RoundTrip.Statement (.vstx d base idx k h) := by
  refine fun hw => ⟨fun _ => ?_, fun c => WordClass.noConfusion c⟩
  rw [show encode (.vstx d base idx k h) = packV 0x35 2 idx base d k h from rfl,
    decode_35 _ (by rw [major, fld_packV_op]; rfl)]
  simp only [decodeVst, fld_packV_form, fld_packV_k, fld_packV_d, fld_packV_a, fld_packV_b, fld_packV_fn,
    rrFn, rrB, rrA, rrD, vK, vForm]
  rfl

theorem RoundTrip.vstxO (d : Reg) (base : Reg) (idx : Reg) (k : KReg) (h : Hint) :
    RoundTrip.Statement (.vstxO d base idx k h) := by
  refine fun hw => ⟨fun _ => ?_, fun c => WordClass.noConfusion c⟩
  rw [show encode (.vstxO d base idx k h) = packV 0x35 3 idx base d k h from rfl,
    decode_35 _ (by rw [major, fld_packV_op]; rfl)]
  simp only [decodeVst, fld_packV_form, fld_packV_k, fld_packV_d, fld_packV_a, fld_packV_b, fld_packV_fn,
    rrFn, rrB, rrA, rrD, vK, vForm]
  rfl

theorem RoundTrip.vstxAdd (d : Reg) (base : Reg) (idx : Reg) (k : KReg) (h : Hint) :
    RoundTrip.Statement (.vstxAdd d base idx k h) := by
  refine fun hw => ⟨fun _ => ?_, fun c => WordClass.noConfusion c⟩
  rw [show encode (.vstxAdd d base idx k h) = packV 0x35 4 idx base d k h from rfl,
    decode_35 _ (by rw [major, fld_packV_op]; rfl)]
  simp only [decodeVst, fld_packV_form, fld_packV_k, fld_packV_d, fld_packV_a, fld_packV_b, fld_packV_fn,
    rrFn, rrB, rrA, rrD, vK, vForm]
  rfl

theorem RoundTrip.sqst (d : Reg) (h : SqReg) (first : Reg) (k : KReg) :
    RoundTrip.Statement (.sqst d h first k) := by
  refine fun hw => ⟨fun _ => ?_, fun c => WordClass.noConfusion c⟩
  rw [show encode (.sqst d h first k) = packV 0x36 0 first (wide3 h) d k 0 from rfl,
    decode_36 _ (by rw [major, fld_packV_op]; rfl)]
  simp only [decodeSqv, fld_packV_form, fld_packV_k, fld_packV_d, fld_packV_a, fld_packV_b, fld_packV_fn,
    rrFn, rrB, rrA, rrD, vK, vForm, lo3_wide3, below8_wide3]
  rfl

theorem RoundTrip.sqld (d : Reg) (kd : KReg) (h : SqReg) (first : Reg) :
    RoundTrip.Statement (.sqld d kd h first) := by
  refine fun hw => ⟨fun _ => ?_, fun c => WordClass.noConfusion c⟩
  rw [show encode (.sqld d kd h first) = packV 0x36 1 first (wide3 h) d kd 0 from rfl,
    decode_36 _ (by rw [major, fld_packV_op]; rfl)]
  simp only [decodeSqv, fld_packV_form, fld_packV_k, fld_packV_d, fld_packV_a, fld_packV_b, fld_packV_fn,
    rrFn, rrB, rrA, rrD, vK, vForm, lo3_wide3, below8_wide3]
  exact rsv_true hw

theorem RoundTrip.vamoaddC (d : Reg) (base : Reg) (idx : Reg) (k : KReg) (h : Hint) (aq : Bool) (rl : Bool) (o : Bool) :
    RoundTrip.Statement (.vamoaddC d base idx k h aq rl o) := by
  refine fun hw => ⟨fun _ => ?_, fun c => WordClass.noConfusion c⟩
  rw [show encode (.vamoaddC d base idx k h aq rl o) = packV 0xa (fnVamo 0 aq rl o) idx base d k h from rfl,
    decode_0a _ (by rw [major, fld_packV_op]; rfl)]
  simp only [decodeVamoC, fld_packV_form, fld_packV_k, fld_packV_d, fld_packV_a, fld_packV_b, fld_packV_29_3,
    fld_packV_28_1, fld_packV_27_1, fld_packV_26_1, rrB, rrA, rrD, vK, vForm]
  cases aq <;> cases rl <;> cases o <;> rfl

theorem RoundTrip.vamoaddD (d : Reg) (base : Reg) (idx : Reg) (k : KReg) (h : Hint) (aq : Bool) (rl : Bool) (o : Bool) :
    RoundTrip.Statement (.vamoaddD d base idx k h aq rl o) := by
  refine fun hw => ⟨fun _ => ?_, fun c => WordClass.noConfusion c⟩
  rw [show encode (.vamoaddD d base idx k h aq rl o) = packV 0xb (fnVamo 0 aq rl o) idx base d k h from rfl,
    decode_0b _ (by rw [major, fld_packV_op]; rfl)]
  simp only [decodeVamoD, fld_packV_form, fld_packV_k, fld_packV_d, fld_packV_a, fld_packV_b, fld_packV_29_3,
    fld_packV_28_1, fld_packV_27_1, fld_packV_26_1, rrB, rrA, rrD, vK, vForm]
  cases aq <;> cases rl <;> cases o <;> rfl

theorem RoundTrip.vamoaddV (d : Reg) (base : Reg) (idx : Reg) (k : KReg) (h : Hint) (aq : Bool) (rl : Bool) (o : Bool) :
    RoundTrip.Statement (.vamoaddV d base idx k h aq rl o) := by
  refine fun hw => ⟨fun _ => ?_, fun c => WordClass.noConfusion c⟩
  rw [show encode (.vamoaddV d base idx k h aq rl o) = packV 0xc (fnVamo 0 aq rl o) idx base d k h from rfl,
    decode_0c _ (by rw [major, fld_packV_op]; rfl)]
  simp only [decodeVamoV, fld_packV_form, fld_packV_k, fld_packV_d, fld_packV_a, fld_packV_b, fld_packV_29_3,
    fld_packV_28_1, fld_packV_27_1, fld_packV_26_1, rrB, rrA, rrD, vK, vForm]
  cases aq <;> cases rl <;> cases o <;> rfl

theorem RoundTrip.vamoaddX (d : Reg) (base : Reg) (idx : Reg) (k : KReg) (h : Hint) (aq : Bool) (rl : Bool) (o : Bool) :
    RoundTrip.Statement (.vamoaddX d base idx k h aq rl o) := by
  refine fun hw => ⟨fun _ => ?_, fun c => WordClass.noConfusion c⟩
  rw [show encode (.vamoaddX d base idx k h aq rl o) = packV 0xd (fnVamo 0 aq rl o) idx base d k h from rfl,
    decode_0d _ (by rw [major, fld_packV_op]; rfl)]
  simp only [decodeVamoX, fld_packV_form, fld_packV_k, fld_packV_d, fld_packV_a, fld_packV_b, fld_packV_29_3,
    fld_packV_28_1, fld_packV_27_1, fld_packV_26_1, rrB, rrA, rrD, vK, vForm]
  cases aq <;> cases rl <;> cases o <;> rfl

theorem RoundTrip.vamoandC (d : Reg) (base : Reg) (idx : Reg) (k : KReg) (h : Hint) (aq : Bool) (rl : Bool) (o : Bool) :
    RoundTrip.Statement (.vamoandC d base idx k h aq rl o) := by
  refine fun hw => ⟨fun _ => ?_, fun c => WordClass.noConfusion c⟩
  rw [show encode (.vamoandC d base idx k h aq rl o) = packV 0xa (fnVamo 1 aq rl o) idx base d k h from rfl,
    decode_0a _ (by rw [major, fld_packV_op]; rfl)]
  simp only [decodeVamoC, fld_packV_form, fld_packV_k, fld_packV_d, fld_packV_a, fld_packV_b, fld_packV_29_3,
    fld_packV_28_1, fld_packV_27_1, fld_packV_26_1, rrB, rrA, rrD, vK, vForm]
  cases aq <;> cases rl <;> cases o <;> rfl

theorem RoundTrip.vamoandD (d : Reg) (base : Reg) (idx : Reg) (k : KReg) (h : Hint) (aq : Bool) (rl : Bool) (o : Bool) :
    RoundTrip.Statement (.vamoandD d base idx k h aq rl o) := by
  refine fun hw => ⟨fun _ => ?_, fun c => WordClass.noConfusion c⟩
  rw [show encode (.vamoandD d base idx k h aq rl o) = packV 0xb (fnVamo 1 aq rl o) idx base d k h from rfl,
    decode_0b _ (by rw [major, fld_packV_op]; rfl)]
  simp only [decodeVamoD, fld_packV_form, fld_packV_k, fld_packV_d, fld_packV_a, fld_packV_b, fld_packV_29_3,
    fld_packV_28_1, fld_packV_27_1, fld_packV_26_1, rrB, rrA, rrD, vK, vForm]
  cases aq <;> cases rl <;> cases o <;> rfl

theorem RoundTrip.vamoandV (d : Reg) (base : Reg) (idx : Reg) (k : KReg) (h : Hint) (aq : Bool) (rl : Bool) (o : Bool) :
    RoundTrip.Statement (.vamoandV d base idx k h aq rl o) := by
  refine fun hw => ⟨fun _ => ?_, fun c => WordClass.noConfusion c⟩
  rw [show encode (.vamoandV d base idx k h aq rl o) = packV 0xc (fnVamo 1 aq rl o) idx base d k h from rfl,
    decode_0c _ (by rw [major, fld_packV_op]; rfl)]
  simp only [decodeVamoV, fld_packV_form, fld_packV_k, fld_packV_d, fld_packV_a, fld_packV_b, fld_packV_29_3,
    fld_packV_28_1, fld_packV_27_1, fld_packV_26_1, rrB, rrA, rrD, vK, vForm]
  cases aq <;> cases rl <;> cases o <;> rfl

theorem RoundTrip.vamoandX (d : Reg) (base : Reg) (idx : Reg) (k : KReg) (h : Hint) (aq : Bool) (rl : Bool) (o : Bool) :
    RoundTrip.Statement (.vamoandX d base idx k h aq rl o) := by
  refine fun hw => ⟨fun _ => ?_, fun c => WordClass.noConfusion c⟩
  rw [show encode (.vamoandX d base idx k h aq rl o) = packV 0xd (fnVamo 1 aq rl o) idx base d k h from rfl,
    decode_0d _ (by rw [major, fld_packV_op]; rfl)]
  simp only [decodeVamoX, fld_packV_form, fld_packV_k, fld_packV_d, fld_packV_a, fld_packV_b, fld_packV_29_3,
    fld_packV_28_1, fld_packV_27_1, fld_packV_26_1, rrB, rrA, rrD, vK, vForm]
  cases aq <;> cases rl <;> cases o <;> rfl

theorem RoundTrip.vamoorC (d : Reg) (base : Reg) (idx : Reg) (k : KReg) (h : Hint) (aq : Bool) (rl : Bool) (o : Bool) :
    RoundTrip.Statement (.vamoorC d base idx k h aq rl o) := by
  refine fun hw => ⟨fun _ => ?_, fun c => WordClass.noConfusion c⟩
  rw [show encode (.vamoorC d base idx k h aq rl o) = packV 0xa (fnVamo 2 aq rl o) idx base d k h from rfl,
    decode_0a _ (by rw [major, fld_packV_op]; rfl)]
  simp only [decodeVamoC, fld_packV_form, fld_packV_k, fld_packV_d, fld_packV_a, fld_packV_b, fld_packV_29_3,
    fld_packV_28_1, fld_packV_27_1, fld_packV_26_1, rrB, rrA, rrD, vK, vForm]
  cases aq <;> cases rl <;> cases o <;> rfl

theorem RoundTrip.vamoorD (d : Reg) (base : Reg) (idx : Reg) (k : KReg) (h : Hint) (aq : Bool) (rl : Bool) (o : Bool) :
    RoundTrip.Statement (.vamoorD d base idx k h aq rl o) := by
  refine fun hw => ⟨fun _ => ?_, fun c => WordClass.noConfusion c⟩
  rw [show encode (.vamoorD d base idx k h aq rl o) = packV 0xb (fnVamo 2 aq rl o) idx base d k h from rfl,
    decode_0b _ (by rw [major, fld_packV_op]; rfl)]
  simp only [decodeVamoD, fld_packV_form, fld_packV_k, fld_packV_d, fld_packV_a, fld_packV_b, fld_packV_29_3,
    fld_packV_28_1, fld_packV_27_1, fld_packV_26_1, rrB, rrA, rrD, vK, vForm]
  cases aq <;> cases rl <;> cases o <;> rfl

theorem RoundTrip.vamoorV (d : Reg) (base : Reg) (idx : Reg) (k : KReg) (h : Hint) (aq : Bool) (rl : Bool) (o : Bool) :
    RoundTrip.Statement (.vamoorV d base idx k h aq rl o) := by
  refine fun hw => ⟨fun _ => ?_, fun c => WordClass.noConfusion c⟩
  rw [show encode (.vamoorV d base idx k h aq rl o) = packV 0xc (fnVamo 2 aq rl o) idx base d k h from rfl,
    decode_0c _ (by rw [major, fld_packV_op]; rfl)]
  simp only [decodeVamoV, fld_packV_form, fld_packV_k, fld_packV_d, fld_packV_a, fld_packV_b, fld_packV_29_3,
    fld_packV_28_1, fld_packV_27_1, fld_packV_26_1, rrB, rrA, rrD, vK, vForm]
  cases aq <;> cases rl <;> cases o <;> rfl

theorem RoundTrip.vamoorX (d : Reg) (base : Reg) (idx : Reg) (k : KReg) (h : Hint) (aq : Bool) (rl : Bool) (o : Bool) :
    RoundTrip.Statement (.vamoorX d base idx k h aq rl o) := by
  refine fun hw => ⟨fun _ => ?_, fun c => WordClass.noConfusion c⟩
  rw [show encode (.vamoorX d base idx k h aq rl o) = packV 0xd (fnVamo 2 aq rl o) idx base d k h from rfl,
    decode_0d _ (by rw [major, fld_packV_op]; rfl)]
  simp only [decodeVamoX, fld_packV_form, fld_packV_k, fld_packV_d, fld_packV_a, fld_packV_b, fld_packV_29_3,
    fld_packV_28_1, fld_packV_27_1, fld_packV_26_1, rrB, rrA, rrD, vK, vForm]
  cases aq <;> cases rl <;> cases o <;> rfl

theorem RoundTrip.vamoxorC (d : Reg) (base : Reg) (idx : Reg) (k : KReg) (h : Hint) (aq : Bool) (rl : Bool) (o : Bool) :
    RoundTrip.Statement (.vamoxorC d base idx k h aq rl o) := by
  refine fun hw => ⟨fun _ => ?_, fun c => WordClass.noConfusion c⟩
  rw [show encode (.vamoxorC d base idx k h aq rl o) = packV 0xa (fnVamo 3 aq rl o) idx base d k h from rfl,
    decode_0a _ (by rw [major, fld_packV_op]; rfl)]
  simp only [decodeVamoC, fld_packV_form, fld_packV_k, fld_packV_d, fld_packV_a, fld_packV_b, fld_packV_29_3,
    fld_packV_28_1, fld_packV_27_1, fld_packV_26_1, rrB, rrA, rrD, vK, vForm]
  cases aq <;> cases rl <;> cases o <;> rfl

theorem RoundTrip.vamoxorD (d : Reg) (base : Reg) (idx : Reg) (k : KReg) (h : Hint) (aq : Bool) (rl : Bool) (o : Bool) :
    RoundTrip.Statement (.vamoxorD d base idx k h aq rl o) := by
  refine fun hw => ⟨fun _ => ?_, fun c => WordClass.noConfusion c⟩
  rw [show encode (.vamoxorD d base idx k h aq rl o) = packV 0xb (fnVamo 3 aq rl o) idx base d k h from rfl,
    decode_0b _ (by rw [major, fld_packV_op]; rfl)]
  simp only [decodeVamoD, fld_packV_form, fld_packV_k, fld_packV_d, fld_packV_a, fld_packV_b, fld_packV_29_3,
    fld_packV_28_1, fld_packV_27_1, fld_packV_26_1, rrB, rrA, rrD, vK, vForm]
  cases aq <;> cases rl <;> cases o <;> rfl

theorem RoundTrip.vamoxorV (d : Reg) (base : Reg) (idx : Reg) (k : KReg) (h : Hint) (aq : Bool) (rl : Bool) (o : Bool) :
    RoundTrip.Statement (.vamoxorV d base idx k h aq rl o) := by
  refine fun hw => ⟨fun _ => ?_, fun c => WordClass.noConfusion c⟩
  rw [show encode (.vamoxorV d base idx k h aq rl o) = packV 0xc (fnVamo 3 aq rl o) idx base d k h from rfl,
    decode_0c _ (by rw [major, fld_packV_op]; rfl)]
  simp only [decodeVamoV, fld_packV_form, fld_packV_k, fld_packV_d, fld_packV_a, fld_packV_b, fld_packV_29_3,
    fld_packV_28_1, fld_packV_27_1, fld_packV_26_1, rrB, rrA, rrD, vK, vForm]
  cases aq <;> cases rl <;> cases o <;> rfl

theorem RoundTrip.vamoxorX (d : Reg) (base : Reg) (idx : Reg) (k : KReg) (h : Hint) (aq : Bool) (rl : Bool) (o : Bool) :
    RoundTrip.Statement (.vamoxorX d base idx k h aq rl o) := by
  refine fun hw => ⟨fun _ => ?_, fun c => WordClass.noConfusion c⟩
  rw [show encode (.vamoxorX d base idx k h aq rl o) = packV 0xd (fnVamo 3 aq rl o) idx base d k h from rfl,
    decode_0d _ (by rw [major, fld_packV_op]; rfl)]
  simp only [decodeVamoX, fld_packV_form, fld_packV_k, fld_packV_d, fld_packV_a, fld_packV_b, fld_packV_29_3,
    fld_packV_28_1, fld_packV_27_1, fld_packV_26_1, rrB, rrA, rrD, vK, vForm]
  cases aq <;> cases rl <;> cases o <;> rfl

theorem RoundTrip.vamomaxC (d : Reg) (base : Reg) (idx : Reg) (k : KReg) (h : Hint) (aq : Bool) (rl : Bool) (o : Bool) :
    RoundTrip.Statement (.vamomaxC d base idx k h aq rl o) := by
  refine fun hw => ⟨fun _ => ?_, fun c => WordClass.noConfusion c⟩
  rw [show encode (.vamomaxC d base idx k h aq rl o) = packV 0xa (fnVamo 4 aq rl o) idx base d k h from rfl,
    decode_0a _ (by rw [major, fld_packV_op]; rfl)]
  simp only [decodeVamoC, fld_packV_form, fld_packV_k, fld_packV_d, fld_packV_a, fld_packV_b, fld_packV_29_3,
    fld_packV_28_1, fld_packV_27_1, fld_packV_26_1, rrB, rrA, rrD, vK, vForm]
  cases aq <;> cases rl <;> cases o <;> rfl

theorem RoundTrip.vamomaxD (d : Reg) (base : Reg) (idx : Reg) (k : KReg) (h : Hint) (aq : Bool) (rl : Bool) (o : Bool) :
    RoundTrip.Statement (.vamomaxD d base idx k h aq rl o) := by
  refine fun hw => ⟨fun _ => ?_, fun c => WordClass.noConfusion c⟩
  rw [show encode (.vamomaxD d base idx k h aq rl o) = packV 0xb (fnVamo 4 aq rl o) idx base d k h from rfl,
    decode_0b _ (by rw [major, fld_packV_op]; rfl)]
  simp only [decodeVamoD, fld_packV_form, fld_packV_k, fld_packV_d, fld_packV_a, fld_packV_b, fld_packV_29_3,
    fld_packV_28_1, fld_packV_27_1, fld_packV_26_1, rrB, rrA, rrD, vK, vForm]
  cases aq <;> cases rl <;> cases o <;> rfl

theorem RoundTrip.vamomaxV (d : Reg) (base : Reg) (idx : Reg) (k : KReg) (h : Hint) (aq : Bool) (rl : Bool) (o : Bool) :
    RoundTrip.Statement (.vamomaxV d base idx k h aq rl o) := by
  refine fun hw => ⟨fun _ => ?_, fun c => WordClass.noConfusion c⟩
  rw [show encode (.vamomaxV d base idx k h aq rl o) = packV 0xc (fnVamo 4 aq rl o) idx base d k h from rfl,
    decode_0c _ (by rw [major, fld_packV_op]; rfl)]
  simp only [decodeVamoV, fld_packV_form, fld_packV_k, fld_packV_d, fld_packV_a, fld_packV_b, fld_packV_29_3,
    fld_packV_28_1, fld_packV_27_1, fld_packV_26_1, rrB, rrA, rrD, vK, vForm]
  cases aq <;> cases rl <;> cases o <;> rfl

theorem RoundTrip.vamomaxX (d : Reg) (base : Reg) (idx : Reg) (k : KReg) (h : Hint) (aq : Bool) (rl : Bool) (o : Bool) :
    RoundTrip.Statement (.vamomaxX d base idx k h aq rl o) := by
  refine fun hw => ⟨fun _ => ?_, fun c => WordClass.noConfusion c⟩
  rw [show encode (.vamomaxX d base idx k h aq rl o) = packV 0xd (fnVamo 4 aq rl o) idx base d k h from rfl,
    decode_0d _ (by rw [major, fld_packV_op]; rfl)]
  simp only [decodeVamoX, fld_packV_form, fld_packV_k, fld_packV_d, fld_packV_a, fld_packV_b, fld_packV_29_3,
    fld_packV_28_1, fld_packV_27_1, fld_packV_26_1, rrB, rrA, rrD, vK, vForm]
  cases aq <;> cases rl <;> cases o <;> rfl

theorem RoundTrip.vamominC (d : Reg) (base : Reg) (idx : Reg) (k : KReg) (h : Hint) (aq : Bool) (rl : Bool) (o : Bool) :
    RoundTrip.Statement (.vamominC d base idx k h aq rl o) := by
  refine fun hw => ⟨fun _ => ?_, fun c => WordClass.noConfusion c⟩
  rw [show encode (.vamominC d base idx k h aq rl o) = packV 0xa (fnVamo 5 aq rl o) idx base d k h from rfl,
    decode_0a _ (by rw [major, fld_packV_op]; rfl)]
  simp only [decodeVamoC, fld_packV_form, fld_packV_k, fld_packV_d, fld_packV_a, fld_packV_b, fld_packV_29_3,
    fld_packV_28_1, fld_packV_27_1, fld_packV_26_1, rrB, rrA, rrD, vK, vForm]
  cases aq <;> cases rl <;> cases o <;> rfl

theorem RoundTrip.vamominD (d : Reg) (base : Reg) (idx : Reg) (k : KReg) (h : Hint) (aq : Bool) (rl : Bool) (o : Bool) :
    RoundTrip.Statement (.vamominD d base idx k h aq rl o) := by
  refine fun hw => ⟨fun _ => ?_, fun c => WordClass.noConfusion c⟩
  rw [show encode (.vamominD d base idx k h aq rl o) = packV 0xb (fnVamo 5 aq rl o) idx base d k h from rfl,
    decode_0b _ (by rw [major, fld_packV_op]; rfl)]
  simp only [decodeVamoD, fld_packV_form, fld_packV_k, fld_packV_d, fld_packV_a, fld_packV_b, fld_packV_29_3,
    fld_packV_28_1, fld_packV_27_1, fld_packV_26_1, rrB, rrA, rrD, vK, vForm]
  cases aq <;> cases rl <;> cases o <;> rfl

theorem RoundTrip.vamominV (d : Reg) (base : Reg) (idx : Reg) (k : KReg) (h : Hint) (aq : Bool) (rl : Bool) (o : Bool) :
    RoundTrip.Statement (.vamominV d base idx k h aq rl o) := by
  refine fun hw => ⟨fun _ => ?_, fun c => WordClass.noConfusion c⟩
  rw [show encode (.vamominV d base idx k h aq rl o) = packV 0xc (fnVamo 5 aq rl o) idx base d k h from rfl,
    decode_0c _ (by rw [major, fld_packV_op]; rfl)]
  simp only [decodeVamoV, fld_packV_form, fld_packV_k, fld_packV_d, fld_packV_a, fld_packV_b, fld_packV_29_3,
    fld_packV_28_1, fld_packV_27_1, fld_packV_26_1, rrB, rrA, rrD, vK, vForm]
  cases aq <;> cases rl <;> cases o <;> rfl

theorem RoundTrip.vamominX (d : Reg) (base : Reg) (idx : Reg) (k : KReg) (h : Hint) (aq : Bool) (rl : Bool) (o : Bool) :
    RoundTrip.Statement (.vamominX d base idx k h aq rl o) := by
  refine fun hw => ⟨fun _ => ?_, fun c => WordClass.noConfusion c⟩
  rw [show encode (.vamominX d base idx k h aq rl o) = packV 0xd (fnVamo 5 aq rl o) idx base d k h from rfl,
    decode_0d _ (by rw [major, fld_packV_op]; rfl)]
  simp only [decodeVamoX, fld_packV_form, fld_packV_k, fld_packV_d, fld_packV_a, fld_packV_b, fld_packV_29_3,
    fld_packV_28_1, fld_packV_27_1, fld_packV_26_1, rrB, rrA, rrD, vK, vForm]
  cases aq <;> cases rl <;> cases o <;> rfl

theorem RoundTrip.vamoswapC (d : Reg) (base : Reg) (idx : Reg) (k : KReg) (h : Hint) (aq : Bool) (rl : Bool) (o : Bool) :
    RoundTrip.Statement (.vamoswapC d base idx k h aq rl o) := by
  refine fun hw => ⟨fun _ => ?_, fun c => WordClass.noConfusion c⟩
  rw [show encode (.vamoswapC d base idx k h aq rl o) = packV 0xa (fnVamo 6 aq rl o) idx base d k h from rfl,
    decode_0a _ (by rw [major, fld_packV_op]; rfl)]
  simp only [decodeVamoC, fld_packV_form, fld_packV_k, fld_packV_d, fld_packV_a, fld_packV_b, fld_packV_29_3,
    fld_packV_28_1, fld_packV_27_1, fld_packV_26_1, rrB, rrA, rrD, vK, vForm]
  cases aq <;> cases rl <;> cases o <;> rfl

theorem RoundTrip.vamoswapD (d : Reg) (base : Reg) (idx : Reg) (k : KReg) (h : Hint) (aq : Bool) (rl : Bool) (o : Bool) :
    RoundTrip.Statement (.vamoswapD d base idx k h aq rl o) := by
  refine fun hw => ⟨fun _ => ?_, fun c => WordClass.noConfusion c⟩
  rw [show encode (.vamoswapD d base idx k h aq rl o) = packV 0xb (fnVamo 6 aq rl o) idx base d k h from rfl,
    decode_0b _ (by rw [major, fld_packV_op]; rfl)]
  simp only [decodeVamoD, fld_packV_form, fld_packV_k, fld_packV_d, fld_packV_a, fld_packV_b, fld_packV_29_3,
    fld_packV_28_1, fld_packV_27_1, fld_packV_26_1, rrB, rrA, rrD, vK, vForm]
  cases aq <;> cases rl <;> cases o <;> rfl

theorem RoundTrip.vamoswapV (d : Reg) (base : Reg) (idx : Reg) (k : KReg) (h : Hint) (aq : Bool) (rl : Bool) (o : Bool) :
    RoundTrip.Statement (.vamoswapV d base idx k h aq rl o) := by
  refine fun hw => ⟨fun _ => ?_, fun c => WordClass.noConfusion c⟩
  rw [show encode (.vamoswapV d base idx k h aq rl o) = packV 0xc (fnVamo 6 aq rl o) idx base d k h from rfl,
    decode_0c _ (by rw [major, fld_packV_op]; rfl)]
  simp only [decodeVamoV, fld_packV_form, fld_packV_k, fld_packV_d, fld_packV_a, fld_packV_b, fld_packV_29_3,
    fld_packV_28_1, fld_packV_27_1, fld_packV_26_1, rrB, rrA, rrD, vK, vForm]
  cases aq <;> cases rl <;> cases o <;> rfl

theorem RoundTrip.vamoswapX (d : Reg) (base : Reg) (idx : Reg) (k : KReg) (h : Hint) (aq : Bool) (rl : Bool) (o : Bool) :
    RoundTrip.Statement (.vamoswapX d base idx k h aq rl o) := by
  refine fun hw => ⟨fun _ => ?_, fun c => WordClass.noConfusion c⟩
  rw [show encode (.vamoswapX d base idx k h aq rl o) = packV 0xd (fnVamo 6 aq rl o) idx base d k h from rfl,
    decode_0d _ (by rw [major, fld_packV_op]; rfl)]
  simp only [decodeVamoX, fld_packV_form, fld_packV_k, fld_packV_d, fld_packV_a, fld_packV_b, fld_packV_29_3,
    fld_packV_28_1, fld_packV_27_1, fld_packV_26_1, rrB, rrA, rrD, vK, vForm]
  cases aq <;> cases rl <;> cases o <;> rfl

theorem RoundTrip.vwaitAll (kd : KReg) (xs : Reg) (va : Reg) (ve : Reg) (k : KReg) (sc : BitVec 2) :
    RoundTrip.Statement (.vwaitAll kd xs va ve k sc) :=
  fun hw => ⟨fun _ => decode_vwaitAll  kd xs va ve k sc hw, fun c => WordClass.noConfusion c⟩

theorem RoundTrip.vwaitAny (kd : KReg) (xs : Reg) (va : Reg) (ve : Reg) (k : KReg) (sc : BitVec 2) :
    RoundTrip.Statement (.vwaitAny kd xs va ve k sc) :=
  fun hw => ⟨fun _ => decode_vwaitAny  kd xs va ve k sc hw, fun c => WordClass.noConfusion c⟩

theorem RoundTrip.mtile (tb : Bool) (base : Reg) (fd : Reg) : RoundTrip.Statement (.mtile tb base fd) := by
  refine fun hw => ⟨fun _ => ?_, fun c => WordClass.noConfusion c⟩
  rw [show encode (.mtile tb base fd) = packMX 0x37 0 tb base fd 0 0 0 from rfl,
    decode_37 _ (by rw [major, fld_packMX_op]; rfl)]
  simp only [decodeMat, fld_packMX_acc, fld_packMX_fd, fld_packMX_v, fld_packMX_fn, fld_packMX_zero_6_10,
    fld_packMX_tb]
  cases tb <;> rfl

theorem RoundTrip.mrow (acc : AccReg) (row : Row) (va : Reg) (tb : Bool) (fd : Reg) :
    RoundTrip.Statement (.mrow acc row va tb fd) := by
  refine fun hw => ⟨fun _ => ?_, fun c => WordClass.noConfusion c⟩
  rw [show encode (.mrow acc row va tb fd) = packMX 0x37 1 tb va fd acc row.field row.form from rfl,
    decode_37 _ (by rw [major, fld_packMX_op]; rfl)]
  simp only [decodeMat, fld_packMX_acc, fld_packMX_fd, fld_packMX_v, fld_packMX_fn, fld_packMX_tb, withRow_pack]
  cases tb <;> rfl

theorem RoundTrip.mrowSp (acc : AccReg) (row : Row) (va : Reg) (tb : Bool) (fd : Reg) :
    RoundTrip.Statement (.mrowSp acc row va tb fd) := by
  refine fun hw => ⟨fun _ => ?_, fun c => WordClass.noConfusion c⟩
  rw [show encode (.mrowSp acc row va tb fd) = packMX 0x37 2 tb va fd acc row.field row.form from rfl,
    decode_37 _ (by rw [major, fld_packMX_op]; rfl)]
  simp only [decodeMat, fld_packMX_acc, fld_packMX_fd, fld_packMX_v, fld_packMX_fn, fld_packMX_tb, withRow_pack]
  cases tb <;> rfl

theorem RoundTrip.mrowP (acc : AccReg) (row : Row) (va : Reg) (tb : Bool) (fd : Reg) :
    RoundTrip.Statement (.mrowP acc row va tb fd) := by
  refine fun hw => ⟨fun _ => ?_, fun c => WordClass.noConfusion c⟩
  rw [show encode (.mrowP acc row va tb fd) = packMX 0x37 3 tb va fd acc row.field row.form from rfl,
    decode_37 _ (by rw [major, fld_packMX_op]; rfl)]
  simp only [decodeMat, fld_packMX_acc, fld_packMX_fd, fld_packMX_v, fld_packMX_fn, fld_packMX_tb, withRow_pack]
  cases tb <;> rfl

theorem RoundTrip.mzero (acc : AccReg) : RoundTrip.Statement (.mzero acc) := by
  refine fun hw => ⟨fun _ => ?_, fun c => WordClass.noConfusion c⟩
  rw [show encode (.mzero acc) = packMX 0x37 4 false 0 0 acc 0 0 from rfl,
    decode_37 _ (by rw [major, fld_packMX_op]; rfl)]
  simp only [decodeMat, fld_packMX_acc, fld_packMX_fd, fld_packMX_v, fld_packMX_fn, fld_packMX_zero_16_10,
    fld_packMX_zero_6_7, fld_packMX_tb]
  rfl

theorem RoundTrip.mread (d : Reg) (acc : AccReg) (row : Row) : RoundTrip.Statement (.mread d acc row) := by
  refine fun hw => ⟨fun _ => ?_, fun c => WordClass.noConfusion c⟩
  rw [show encode (.mread d acc row) = packMX 0x37 5 false d 0 acc row.field row.form from rfl,
    decode_37 _ (by rw [major, fld_packMX_op]; rfl)]
  simp only [decodeMat, fld_packMX_acc, fld_packMX_fd, fld_packMX_v, fld_packMX_fn, fld_packMX_tb, withRow_pack]
  rfl

theorem RoundTrip.mepi (acc : AccReg) (row : Row) (base : Reg) (fd : Reg) :
    RoundTrip.Statement (.mepi acc row base fd) := by
  refine fun hw => ⟨fun _ => ?_, fun c => WordClass.noConfusion c⟩
  rw [show encode (.mepi acc row base fd) = packMX 0x37 6 false base fd acc row.field row.form from rfl,
    decode_37 _ (by rw [major, fld_packMX_op]; rfl)]
  simp only [decodeMat, fld_packMX_acc, fld_packMX_fd, fld_packMX_v, fld_packMX_fn, fld_packMX_tb, withRow_pack]
  rfl

theorem RoundTrip.mrelease (tb : Bool) : RoundTrip.Statement (.mrelease tb) := by
  refine fun hw => ⟨fun _ => ?_, fun c => WordClass.noConfusion c⟩
  rw [show encode (.mrelease tb) = packMX 0x37 7 tb 0 0 0 0 0 from rfl,
    decode_37 _ (by rw [major, fld_packMX_op]; rfl)]
  simp only [decodeMat, fld_packMX_acc, fld_packMX_fd, fld_packMX_v, fld_packMX_fn, fld_packMX_zero_6_10,
    fld_packMX_zero_6_20, fld_packMX_tb]
  cases tb <;> rfl

theorem RoundTrip.cpy (d : Reg) (a : Reg) (b : Reg) (m : Reg) (e : Reg) :
    RoundTrip.Statement (.cpy d a b m e) := by
  refine fun hw => ⟨fun _ => ?_, fun c => WordClass.noConfusion c⟩
  rw [show encode (.cpy d a b m e) = packRR 0x38 (BitVec.ofNat 6 (2 * e.toNat)) b a d m from rfl,
    decode_38 _ (by rw [major, fld_packRR_op]; rfl)]
  simp only [decodeCpy, fld_packRR_m, fld_packRR_d, fld_packRR_a, fld_packRR_b, fld_packRR_27_5,
    fld_packRR_26_1, rrB, rrA, rrD, rrM, cpy_e0, cpy_v0]
  rfl

theorem RoundTrip.cpyG (d : Reg) (a : Reg) (b : Reg) (m : Reg) (e : Reg) :
    RoundTrip.Statement (.cpyG d a b m e) := by
  refine fun hw => ⟨fun _ => ?_, fun c => WordClass.noConfusion c⟩
  rw [show encode (.cpyG d a b m e) = packRR 0x38 (BitVec.ofNat 6 (2 * e.toNat + 1)) b a d m from rfl,
    decode_38 _ (by rw [major, fld_packRR_op]; rfl)]
  simp only [decodeCpy, fld_packRR_m, fld_packRR_d, fld_packRR_a, fld_packRR_b, fld_packRR_27_5,
    fld_packRR_26_1, rrB, rrA, rrD, rrM, cpy_e1, cpy_v1]
  rfl

theorem RoundTrip.cpyX (a : Reg) (b : Reg) (m : Reg) : RoundTrip.Statement (.cpyX a b m) := by
  refine fun hw => ⟨fun _ => ?_, fun c => WordClass.noConfusion c⟩
  rw [show encode (.cpyX a b m) = packRR 0x39 0 b a 0 m from rfl,
    decode_39 _ (by rw [major, fld_packRR_op]; rfl)]
  simp only [decodeCpyx, fld_packRR_m, fld_packRR_d, fld_packRR_a, fld_packRR_b, fld_packRR_fn, rrFn, rrB,
    rrA, rrD, rrM]
  rfl

theorem RoundTrip.cpySum (d : Reg) (a : Reg) (b : Reg) (m : Reg) : RoundTrip.Statement (.cpySum d a b m) := by
  refine fun hw => ⟨fun _ => ?_, fun c => WordClass.noConfusion c⟩
  rw [show encode (.cpySum d a b m) = packRR 0x39 1 b a d m from rfl,
    decode_39 _ (by rw [major, fld_packRR_op]; rfl)]
  simp only [decodeCpyx, fld_packRR_m, fld_packRR_d, fld_packRR_a, fld_packRR_b, fld_packRR_fn, rrFn, rrB,
    rrA, rrD, rrM]
  rfl

theorem RoundTrip.coll (a : Reg) (b : Reg) (m : Reg) : RoundTrip.Statement (.coll a b m) := by
  refine fun hw => ⟨fun _ => ?_, fun c => WordClass.noConfusion c⟩
  rw [show encode (.coll a b m) = packRR 0x39 2 b a 0 m from rfl,
    decode_39 _ (by rw [major, fld_packRR_op]; rfl)]
  simp only [decodeCpyx, fld_packRR_m, fld_packRR_d, fld_packRR_a, fld_packRR_b, fld_packRR_fn, rrFn, rrB,
    rrA, rrD, rrM]
  rfl

theorem RoundTrip.sqnew (d : SqReg) (a : Reg) : RoundTrip.Statement (.sqnew d a) := by
  refine fun hw => ⟨fun _ => ?_, fun c => WordClass.noConfusion c⟩
  rw [show encode (.sqnew d a) = packRR 0x3A 0 0 a (wide3 d) 0 from rfl,
    decode_3a _ (by rw [major, fld_packRR_op]; rfl)]
  simp only [decodeSeq, fld_packRR_m, fld_packRR_d, fld_packRR_a, fld_packRR_b, fld_packRR_fn, rrFn, rrB,
    rrA, rrD, rrM, lo3_wide3, below8_wide3]
  rfl

theorem RoundTrip.sqres (d : Reg) (a : SqReg) (b : Reg) : RoundTrip.Statement (.sqres d a b) := by
  refine fun hw => ⟨fun _ => ?_, fun c => WordClass.noConfusion c⟩
  rw [show encode (.sqres d a b) = packRR 0x3A 1 b (wide3 a) d 0 from rfl,
    decode_3a _ (by rw [major, fld_packRR_op]; rfl)]
  simp only [decodeSeq, fld_packRR_m, fld_packRR_d, fld_packRR_a, fld_packRR_b, fld_packRR_fn, rrFn, rrB,
    rrA, rrD, rrM, lo3_wide3, below8_wide3]
  rfl

theorem RoundTrip.sqcmt (a : SqReg) (b : Reg) (m : Reg) : RoundTrip.Statement (.sqcmt a b m) := by
  refine fun hw => ⟨fun _ => ?_, fun c => WordClass.noConfusion c⟩
  rw [show encode (.sqcmt a b m) = packRR 0x3A 2 b (wide3 a) 0 m from rfl,
    decode_3a _ (by rw [major, fld_packRR_op]; rfl)]
  simp only [decodeSeq, fld_packRR_m, fld_packRR_d, fld_packRR_a, fld_packRR_b, fld_packRR_fn, rrFn, rrB,
    rrA, rrD, rrM, lo3_wide3, below8_wide3]
  rfl

theorem RoundTrip.sqabn (a : SqReg) (b : Reg) (m : Reg) : RoundTrip.Statement (.sqabn a b m) := by
  refine fun hw => ⟨fun _ => ?_, fun c => WordClass.noConfusion c⟩
  rw [show encode (.sqabn a b m) = packRR 0x3A 3 b (wide3 a) 0 m from rfl,
    decode_3a _ (by rw [major, fld_packRR_op]; rfl)]
  simp only [decodeSeq, fld_packRR_m, fld_packRR_d, fld_packRR_a, fld_packRR_b, fld_packRR_fn, rrFn, rrB,
    rrA, rrD, rrM, lo3_wide3, below8_wide3]
  rfl

theorem RoundTrip.sqlen (d : Reg) (a : SqReg) : RoundTrip.Statement (.sqlen d a) := by
  refine fun hw => ⟨fun _ => ?_, fun c => WordClass.noConfusion c⟩
  rw [show encode (.sqlen d a) = packRR 0x3A 4 0 (wide3 a) d 0 from rfl,
    decode_3a _ (by rw [major, fld_packRR_op]; rfl)]
  simp only [decodeSeq, fld_packRR_m, fld_packRR_d, fld_packRR_a, fld_packRR_b, fld_packRR_fn, rrFn, rrB,
    rrA, rrD, rrM, lo3_wide3, below8_wide3]
  rfl

theorem RoundTrip.sqlenH (d : Reg) (a : SqReg) : RoundTrip.Statement (.sqlenH d a) := by
  refine fun hw => ⟨fun _ => ?_, fun c => WordClass.noConfusion c⟩
  rw [show encode (.sqlenH d a) = packRR 0x3A 5 0 (wide3 a) d 0 from rfl,
    decode_3a _ (by rw [major, fld_packRR_op]; rfl)]
  simp only [decodeSeq, fld_packRR_m, fld_packRR_d, fld_packRR_a, fld_packRR_b, fld_packRR_fn, rrFn, rrB,
    rrA, rrD, rrM, lo3_wide3, below8_wide3]
  rfl

theorem RoundTrip.sqfork (d : SqReg) (a : SqReg) (b : Reg) : RoundTrip.Statement (.sqfork d a b) := by
  refine fun hw => ⟨fun _ => ?_, fun c => WordClass.noConfusion c⟩
  rw [show encode (.sqfork d a b) = packRR 0x3A 6 b (wide3 a) (wide3 d) 0 from rfl,
    decode_3a _ (by rw [major, fld_packRR_op]; rfl)]
  simp only [decodeSeq, fld_packRR_m, fld_packRR_d, fld_packRR_a, fld_packRR_b, fld_packRR_fn, rrFn, rrB,
    rrA, rrD, rrM, lo3_wide3, below8_wide3]
  rfl

theorem RoundTrip.sqdrop (d : SqReg) : RoundTrip.Statement (.sqdrop d) := by
  refine fun hw => ⟨fun _ => ?_, fun c => WordClass.noConfusion c⟩
  rw [show encode (.sqdrop d) = packRR 0x3A 7 0 0 (wide3 d) 0 from rfl,
    decode_3a _ (by rw [major, fld_packRR_op]; rfl)]
  simp only [decodeSeq, fld_packRR_m, fld_packRR_d, fld_packRR_a, fld_packRR_b, fld_packRR_fn, rrFn, rrB,
    rrA, rrD, rrM, lo3_wide3, below8_wide3]
  rfl

theorem RoundTrip.launch (d : Reg) (a : Reg) : RoundTrip.Statement (.launch d a) := by
  refine fun hw => ⟨fun _ => ?_, fun c => WordClass.noConfusion c⟩
  rw [show encode (.launch d a) = packRR 0x3B 0 0 a d 0 from rfl,
    decode_3b _ (by rw [major, fld_packRR_op]; rfl)]
  simp only [decodeSched, fld_packRR_m, fld_packRR_d, fld_packRR_a, fld_packRR_b, fld_packRR_fn, rrFn, rrB,
    rrA, rrD, rrM]
  rfl

theorem RoundTrip.join (d : Reg) (a : Reg) : RoundTrip.Statement (.join d a) := by
  refine fun hw => ⟨fun _ => ?_, fun c => WordClass.noConfusion c⟩
  rw [show encode (.join d a) = packRR 0x3B 1 0 a d 0 from rfl,
    decode_3b _ (by rw [major, fld_packRR_op]; rfl)]
  simp only [decodeSched, fld_packRR_m, fld_packRR_d, fld_packRR_a, fld_packRR_b, fld_packRR_fn, rrFn, rrB,
    rrA, rrD, rrM]
  rfl

theorem RoundTrip.yield : RoundTrip.Statement (.yield) := by
  refine fun hw => ⟨fun _ => ?_, fun c => WordClass.noConfusion c⟩
  rw [show encode (.yield) = packRR 0x3B 2 0 0 0 0 from rfl, decode_3b _ (by rw [major, fld_packRR_op]; rfl)]
  simp only [decodeSched, fld_packRR_m, fld_packRR_d, fld_packRR_a, fld_packRR_b, fld_packRR_fn,
    fld_packRR_zero_6_20, rrFn, rrB, rrA, rrD, rrM]
  rfl

theorem RoundTrip.exit : RoundTrip.Statement (.exit) := by
  refine fun hw => ⟨fun _ => ?_, fun c => WordClass.noConfusion c⟩
  rw [show encode (.exit) = packRR 0x3B 3 0 0 0 0 from rfl, decode_3b _ (by rw [major, fld_packRR_op]; rfl)]
  simp only [decodeSched, fld_packRR_m, fld_packRR_d, fld_packRR_a, fld_packRR_b, fld_packRR_fn,
    fld_packRR_zero_6_20, rrFn, rrB, rrA, rrD, rrM]
  rfl

theorem RoundTrip.mark : RoundTrip.Statement (.mark) := by
  refine fun hw => ⟨fun _ => ?_, fun c => WordClass.noConfusion c⟩
  rw [show encode (.mark) = packRR 0x3B 4 0 0 0 0 from rfl, decode_3b _ (by rw [major, fld_packRR_op]; rfl)]
  simp only [decodeSched, fld_packRR_m, fld_packRR_d, fld_packRR_a, fld_packRR_b, fld_packRR_fn,
    fld_packRR_zero_6_20, rrFn, rrB, rrA, rrD, rrM]
  rfl

theorem RoundTrip.ahalt : RoundTrip.Statement (.ahalt) := by
  refine fun hw => ⟨fun c => WordClass.noConfusion c, fun _ => ?_⟩
  rw [show encode (.ahalt) = packAR 0 0 0 0 0 from rfl]
  simp only [decodeAdvice, decodeAalu, decodeAbr, decodeApin, major, fld_packAR_aop, fld_packAR_d,
    fld_packAR_a, fld_packAR_b, fld_packAR_imm, fld_packAR_20_3, fld_packAR_23_9, fld_packAR_22_1,
    fld_packAR_20_2, fld_packAR_21_11, fld_packAR_22_10, fld_packAR_26_5, fld_packAR_20_6, fld_packAR_31_1,
    fld_packAR_20_1, fld_packAR_op, fld_packAR_zero_11_21, fld_packAR_zero_11_9, advD, advA, advB, advImm]
  rfl

theorem RoundTrip.await (a : GReg) : RoundTrip.Statement (.await a) := by
  refine fun hw => ⟨fun c => WordClass.noConfusion c, fun _ => ?_⟩
  rw [show encode (.await a) = packAR 1 0 0 a 0 from rfl]
  simp only [decodeAdvice, decodeAalu, decodeAbr, decodeApin, major, fld_packAR_aop, fld_packAR_d,
    fld_packAR_a, fld_packAR_b, fld_packAR_imm, fld_packAR_20_3, fld_packAR_23_9, fld_packAR_22_1,
    fld_packAR_20_2, fld_packAR_21_11, fld_packAR_22_10, fld_packAR_26_5, fld_packAR_20_6, fld_packAR_31_1,
    fld_packAR_20_1, fld_packAR_op, advD, advA, advB, advImm]
  rfl

theorem RoundTrip.aread (d : GReg) (slot : BitVec 12) : RoundTrip.Statement (.aread d slot) := by
  refine fun hw => ⟨fun c => WordClass.noConfusion c, fun _ => ?_⟩
  rw [show encode (.aread d slot) = packAR 2 slot 0 0 d from rfl]
  simp only [decodeAdvice, decodeAalu, decodeAbr, decodeApin, major, fld_packAR_aop, fld_packAR_d,
    fld_packAR_a, fld_packAR_b, fld_packAR_imm, fld_packAR_20_3, fld_packAR_23_9, fld_packAR_22_1,
    fld_packAR_20_2, fld_packAR_21_11, fld_packAR_22_10, fld_packAR_26_5, fld_packAR_20_6, fld_packAR_31_1,
    fld_packAR_20_1, fld_packAR_op, advD, advA, advB, advImm]
  exact arsv_true hw rfl

theorem RoundTrip.ali (d : GReg) (c : BitVec 18) : RoundTrip.Statement (.ali d c) := by
  refine fun hw => ⟨fun c => WordClass.noConfusion c, fun _ => ?_⟩
  rw [show encode (.ali d c) = packAI 3 c d from rfl]
  simp only [decodeAdvice, decodeAalu, decodeAbr, decodeApin, major, fld_packAI_aop, fld_packAI_d,
    fld_packAI_imm, fld_packAI_op, advD, advA, advB, advImm]
  rfl

theorem RoundTrip.aaddi (d : GReg) (a : GReg) (c : BitVec 12) : RoundTrip.Statement (.aaddi d a c) := by
  refine fun hw => ⟨fun c => WordClass.noConfusion c, fun _ => ?_⟩
  rw [show encode (.aaddi d a c) = packAR 4 c 0 a d from rfl]
  simp only [decodeAdvice, decodeAalu, decodeAbr, decodeApin, major, fld_packAR_aop, fld_packAR_d,
    fld_packAR_a, fld_packAR_b, fld_packAR_imm, fld_packAR_20_3, fld_packAR_23_9, fld_packAR_22_1,
    fld_packAR_20_2, fld_packAR_21_11, fld_packAR_22_10, fld_packAR_26_5, fld_packAR_20_6, fld_packAR_31_1,
    fld_packAR_20_1, fld_packAR_op, advD, advA, advB, advImm]
  rfl

theorem RoundTrip.aadd (d : GReg) (a : GReg) (b : GReg) : RoundTrip.Statement (.aadd d a b) := by
  refine fun hw => ⟨fun c => WordClass.noConfusion c, fun _ => ?_⟩
  rw [show encode (.aadd d a b) = packAR 5 0 b a d from rfl]
  simp only [decodeAdvice, decodeAalu, decodeAbr, decodeApin, major, fld_packAR_aop, fld_packAR_d,
    fld_packAR_a, fld_packAR_b, fld_packAR_imm, fld_packAR_20_3, fld_packAR_23_9, fld_packAR_22_1,
    fld_packAR_20_2, fld_packAR_21_11, fld_packAR_22_10, fld_packAR_26_5, fld_packAR_20_6, fld_packAR_31_1,
    fld_packAR_20_1, fld_packAR_op, advD, advA, advB, advImm]
  rfl

theorem RoundTrip.asub (d : GReg) (a : GReg) (b : GReg) : RoundTrip.Statement (.asub d a b) := by
  refine fun hw => ⟨fun c => WordClass.noConfusion c, fun _ => ?_⟩
  rw [show encode (.asub d a b) = packAR 5 1 b a d from rfl]
  simp only [decodeAdvice, decodeAalu, decodeAbr, decodeApin, major, fld_packAR_aop, fld_packAR_d,
    fld_packAR_a, fld_packAR_b, fld_packAR_imm, fld_packAR_20_3, fld_packAR_23_9, fld_packAR_22_1,
    fld_packAR_20_2, fld_packAR_21_11, fld_packAR_22_10, fld_packAR_26_5, fld_packAR_20_6, fld_packAR_31_1,
    fld_packAR_20_1, fld_packAR_op, advD, advA, advB, advImm]
  rfl

theorem RoundTrip.aand (d : GReg) (a : GReg) (b : GReg) : RoundTrip.Statement (.aand d a b) := by
  refine fun hw => ⟨fun c => WordClass.noConfusion c, fun _ => ?_⟩
  rw [show encode (.aand d a b) = packAR 5 2 b a d from rfl]
  simp only [decodeAdvice, decodeAalu, decodeAbr, decodeApin, major, fld_packAR_aop, fld_packAR_d,
    fld_packAR_a, fld_packAR_b, fld_packAR_imm, fld_packAR_20_3, fld_packAR_23_9, fld_packAR_22_1,
    fld_packAR_20_2, fld_packAR_21_11, fld_packAR_22_10, fld_packAR_26_5, fld_packAR_20_6, fld_packAR_31_1,
    fld_packAR_20_1, fld_packAR_op, advD, advA, advB, advImm]
  rfl

theorem RoundTrip.aor (d : GReg) (a : GReg) (b : GReg) : RoundTrip.Statement (.aor d a b) := by
  refine fun hw => ⟨fun c => WordClass.noConfusion c, fun _ => ?_⟩
  rw [show encode (.aor d a b) = packAR 5 3 b a d from rfl]
  simp only [decodeAdvice, decodeAalu, decodeAbr, decodeApin, major, fld_packAR_aop, fld_packAR_d,
    fld_packAR_a, fld_packAR_b, fld_packAR_imm, fld_packAR_20_3, fld_packAR_23_9, fld_packAR_22_1,
    fld_packAR_20_2, fld_packAR_21_11, fld_packAR_22_10, fld_packAR_26_5, fld_packAR_20_6, fld_packAR_31_1,
    fld_packAR_20_1, fld_packAR_op, advD, advA, advB, advImm]
  rfl

theorem RoundTrip.asll (d : GReg) (a : GReg) (b : GReg) : RoundTrip.Statement (.asll d a b) := by
  refine fun hw => ⟨fun c => WordClass.noConfusion c, fun _ => ?_⟩
  rw [show encode (.asll d a b) = packAR 5 4 b a d from rfl]
  simp only [decodeAdvice, decodeAalu, decodeAbr, decodeApin, major, fld_packAR_aop, fld_packAR_d,
    fld_packAR_a, fld_packAR_b, fld_packAR_imm, fld_packAR_20_3, fld_packAR_23_9, fld_packAR_22_1,
    fld_packAR_20_2, fld_packAR_21_11, fld_packAR_22_10, fld_packAR_26_5, fld_packAR_20_6, fld_packAR_31_1,
    fld_packAR_20_1, fld_packAR_op, advD, advA, advB, advImm]
  rfl

theorem RoundTrip.asrl (d : GReg) (a : GReg) (b : GReg) : RoundTrip.Statement (.asrl d a b) := by
  refine fun hw => ⟨fun c => WordClass.noConfusion c, fun _ => ?_⟩
  rw [show encode (.asrl d a b) = packAR 5 5 b a d from rfl]
  simp only [decodeAdvice, decodeAalu, decodeAbr, decodeApin, major, fld_packAR_aop, fld_packAR_d,
    fld_packAR_a, fld_packAR_b, fld_packAR_imm, fld_packAR_20_3, fld_packAR_23_9, fld_packAR_22_1,
    fld_packAR_20_2, fld_packAR_21_11, fld_packAR_22_10, fld_packAR_26_5, fld_packAR_20_6, fld_packAR_31_1,
    fld_packAR_20_1, fld_packAR_op, advD, advA, advB, advImm]
  rfl

theorem RoundTrip.amul (d : GReg) (a : GReg) (b : GReg) : RoundTrip.Statement (.amul d a b) := by
  refine fun hw => ⟨fun c => WordClass.noConfusion c, fun _ => ?_⟩
  rw [show encode (.amul d a b) = packAR 5 6 b a d from rfl]
  simp only [decodeAdvice, decodeAalu, decodeAbr, decodeApin, major, fld_packAR_aop, fld_packAR_d,
    fld_packAR_a, fld_packAR_b, fld_packAR_imm, fld_packAR_20_3, fld_packAR_23_9, fld_packAR_22_1,
    fld_packAR_20_2, fld_packAR_21_11, fld_packAR_22_10, fld_packAR_26_5, fld_packAR_20_6, fld_packAR_31_1,
    fld_packAR_20_1, fld_packAR_op, advD, advA, advB, advImm]
  rfl

theorem RoundTrip.aslli (d : GReg) (a : GReg) (c : BitVec 6) : RoundTrip.Statement (.aslli d a c) := by
  refine fun hw => ⟨fun c => WordClass.noConfusion c, fun _ => ?_⟩
  rw [show encode (.aslli d a c) = packAR 6 (c.setWidth 12) 0 a d from rfl]
  simp only [decodeAdvice, decodeAalu, decodeAbr, decodeApin, major, fld_packAR_aop, fld_packAR_d,
    fld_packAR_a, fld_packAR_b, fld_packAR_imm, fld_packAR_20_3, fld_packAR_23_9, fld_packAR_22_1,
    fld_packAR_20_2, fld_packAR_21_11, fld_packAR_22_10, fld_packAR_26_5, fld_packAR_20_6, fld_packAR_31_1,
    fld_packAR_20_1, fld_packAR_op, advD, advA, advB, advImm, call_lo, slot6_mid, slot6_top]
  rfl

theorem RoundTrip.asrli (d : GReg) (a : GReg) (c : BitVec 6) : RoundTrip.Statement (.asrli d a c) := by
  refine fun hw => ⟨fun c => WordClass.noConfusion c, fun _ => ?_⟩
  rw [show encode (.asrli d a c) = packAR 6 (BitVec.ofNat 12 (c.toNat + 2048)) 0 a d from rfl]
  simp only [decodeAdvice, decodeAalu, decodeAbr, decodeApin, major, fld_packAR_aop, fld_packAR_d,
    fld_packAR_a, fld_packAR_b, fld_packAR_imm, fld_packAR_20_3, fld_packAR_23_9, fld_packAR_22_1,
    fld_packAR_20_2, fld_packAR_21_11, fld_packAR_22_10, fld_packAR_26_5, fld_packAR_20_6, fld_packAR_31_1,
    fld_packAR_20_1, fld_packAR_op, advD, advA, advB, advImm, slot6_lo2, slot6_mid2, slot6_top2]
  rfl

theorem RoundTrip.abeq (a : GReg) (b : GReg) (off : BitVec 12) : RoundTrip.Statement (.abeq a b off) := by
  refine fun hw => ⟨fun c => WordClass.noConfusion c, fun _ => ?_⟩
  rw [show encode (.abeq a b off) = packAR 7 off b a 0 from rfl]
  simp only [decodeAdvice, decodeAalu, decodeAbr, decodeApin, major, fld_packAR_aop, fld_packAR_d,
    fld_packAR_a, fld_packAR_b, fld_packAR_imm, fld_packAR_20_3, fld_packAR_23_9, fld_packAR_22_1,
    fld_packAR_20_2, fld_packAR_21_11, fld_packAR_22_10, fld_packAR_26_5, fld_packAR_20_6, fld_packAR_31_1,
    fld_packAR_20_1, fld_packAR_op, advD, advA, advB, advImm]
  rfl

theorem RoundTrip.abne (a : GReg) (b : GReg) (off : BitVec 12) : RoundTrip.Statement (.abne a b off) := by
  refine fun hw => ⟨fun c => WordClass.noConfusion c, fun _ => ?_⟩
  rw [show encode (.abne a b off) = packAR 7 off b a 1 from rfl]
  simp only [decodeAdvice, decodeAalu, decodeAbr, decodeApin, major, fld_packAR_aop, fld_packAR_d,
    fld_packAR_a, fld_packAR_b, fld_packAR_imm, fld_packAR_20_3, fld_packAR_23_9, fld_packAR_22_1,
    fld_packAR_20_2, fld_packAR_21_11, fld_packAR_22_10, fld_packAR_26_5, fld_packAR_20_6, fld_packAR_31_1,
    fld_packAR_20_1, fld_packAR_op, advD, advA, advB, advImm]
  rfl

theorem RoundTrip.ablt (a : GReg) (b : GReg) (off : BitVec 12) : RoundTrip.Statement (.ablt a b off) := by
  refine fun hw => ⟨fun c => WordClass.noConfusion c, fun _ => ?_⟩
  rw [show encode (.ablt a b off) = packAR 7 off b a 2 from rfl]
  simp only [decodeAdvice, decodeAalu, decodeAbr, decodeApin, major, fld_packAR_aop, fld_packAR_d,
    fld_packAR_a, fld_packAR_b, fld_packAR_imm, fld_packAR_20_3, fld_packAR_23_9, fld_packAR_22_1,
    fld_packAR_20_2, fld_packAR_21_11, fld_packAR_22_10, fld_packAR_26_5, fld_packAR_20_6, fld_packAR_31_1,
    fld_packAR_20_1, fld_packAR_op, advD, advA, advB, advImm]
  rfl

theorem RoundTrip.abltu (a : GReg) (b : GReg) (off : BitVec 12) : RoundTrip.Statement (.abltu a b off) := by
  refine fun hw => ⟨fun c => WordClass.noConfusion c, fun _ => ?_⟩
  rw [show encode (.abltu a b off) = packAR 7 off b a 3 from rfl]
  simp only [decodeAdvice, decodeAalu, decodeAbr, decodeApin, major, fld_packAR_aop, fld_packAR_d,
    fld_packAR_a, fld_packAR_b, fld_packAR_imm, fld_packAR_20_3, fld_packAR_23_9, fld_packAR_22_1,
    fld_packAR_20_2, fld_packAR_21_11, fld_packAR_22_10, fld_packAR_26_5, fld_packAR_20_6, fld_packAR_31_1,
    fld_packAR_20_1, fld_packAR_op, advD, advA, advB, advImm]
  rfl

theorem RoundTrip.aj (off : BitVec 18) : RoundTrip.Statement (.aj off) := by
  refine fun hw => ⟨fun c => WordClass.noConfusion c, fun _ => ?_⟩
  rw [show encode (.aj off) = packAI 8 off 0 from rfl]
  simp only [decodeAdvice, decodeAalu, decodeAbr, decodeApin, major, fld_packAI_aop, fld_packAI_d,
    fld_packAI_imm, fld_packAI_op, advD, advA, advB, advImm]
  rfl

theorem RoundTrip.apf (l2 : Bool) (a : GReg) (b : GReg) (n : BitVec 12) :
    RoundTrip.Statement (.apf l2 a b n) := by
  refine fun hw => ⟨fun c => WordClass.noConfusion c, fun _ => ?_⟩
  rw [show encode (.apf l2 a b n) = packAR 9 n b a (if l2 then 1 else 0) from rfl]
  simp only [decodeAdvice, decodeAalu, decodeAbr, decodeApin, major, fld_packAR_aop, fld_packAR_d,
    fld_packAR_a, fld_packAR_b, fld_packAR_imm, fld_packAR_20_3, fld_packAR_23_9, fld_packAR_22_1,
    fld_packAR_20_2, fld_packAR_21_11, fld_packAR_22_10, fld_packAR_26_5, fld_packAR_20_6, fld_packAR_31_1,
    fld_packAR_20_1, fld_packAR_op, advD, advA, advB, advImm]
  cases l2 <;> rfl

theorem RoundTrip.apfv (l2 : Bool) (a : GReg) (b : GReg) (d : GReg) (esize : BitVec 2) :
    RoundTrip.Statement (.apfv l2 a b d esize) := by
  refine fun hw => ⟨fun c => WordClass.noConfusion c, fun _ => ?_⟩
  rw [show encode (.apfv l2 a b d esize) = packAR 10 (BitVec.ofNat 12 (esize.toNat + 4 * l2.toNat)) b a d from rfl]
  cases l2 <;> simp only [decodeAdvice, decodeAalu, decodeAbr, decodeApin, major, fld_packAR_aop,
    fld_packAR_d, fld_packAR_a, fld_packAR_b, fld_packAR_imm, fld_packAR_20_3, fld_packAR_23_9,
    fld_packAR_22_1, fld_packAR_20_2, fld_packAR_21_11, fld_packAR_22_10, fld_packAR_26_5, fld_packAR_20_6,
    fld_packAR_31_1, fld_packAR_20_1, fld_packAR_op, advD, advA, advB, advImm, esz_lo0, esz_mid0, esz_hi0,
    esz_lo1, esz_mid1, esz_hi1]
  all_goals rfl

theorem RoundTrip.apinPri (a : GReg) (b : GReg) : RoundTrip.Statement (.apinPri a b) := by
  refine fun hw => ⟨fun c => WordClass.noConfusion c, fun _ => ?_⟩
  rw [show encode (.apinPri a b) = packAR 11 0 b a 0 from rfl]
  simp only [decodeAdvice, decodeAalu, decodeAbr, decodeApin, major, fld_packAR_aop, fld_packAR_d,
    fld_packAR_a, fld_packAR_b, fld_packAR_imm, fld_packAR_20_3, fld_packAR_23_9, fld_packAR_22_1,
    fld_packAR_20_2, fld_packAR_21_11, fld_packAR_22_10, fld_packAR_26_5, fld_packAR_20_6, fld_packAR_31_1,
    fld_packAR_20_1, fld_packAR_op, advD, advA, advB, advImm]
  rfl

theorem RoundTrip.apinPin (a : GReg) (b : GReg) : RoundTrip.Statement (.apinPin a b) := by
  refine fun hw => ⟨fun c => WordClass.noConfusion c, fun _ => ?_⟩
  rw [show encode (.apinPin a b) = packAR 11 0 b a 1 from rfl]
  simp only [decodeAdvice, decodeAalu, decodeAbr, decodeApin, major, fld_packAR_aop, fld_packAR_d,
    fld_packAR_a, fld_packAR_b, fld_packAR_imm, fld_packAR_20_3, fld_packAR_23_9, fld_packAR_22_1,
    fld_packAR_20_2, fld_packAR_21_11, fld_packAR_22_10, fld_packAR_26_5, fld_packAR_20_6, fld_packAR_31_1,
    fld_packAR_20_1, fld_packAR_op, advD, advA, advB, advImm]
  rfl

theorem RoundTrip.apinOff (a : GReg) (b : GReg) : RoundTrip.Statement (.apinOff a b) := by
  refine fun hw => ⟨fun c => WordClass.noConfusion c, fun _ => ?_⟩
  rw [show encode (.apinOff a b) = packAR 11 0 b a 2 from rfl]
  simp only [decodeAdvice, decodeAalu, decodeAbr, decodeApin, major, fld_packAR_aop, fld_packAR_d,
    fld_packAR_a, fld_packAR_b, fld_packAR_imm, fld_packAR_20_3, fld_packAR_23_9, fld_packAR_22_1,
    fld_packAR_20_2, fld_packAR_21_11, fld_packAR_22_10, fld_packAR_26_5, fld_packAR_20_6, fld_packAR_31_1,
    fld_packAR_20_1, fld_packAR_op, advD, advA, advB, advImm]
  rfl

theorem RoundTrip.atile (tb : Bool) (a : GReg) (b : GReg) (d : GReg) :
    RoundTrip.Statement (.atile tb a b d) := by
  refine fun hw => ⟨fun c => WordClass.noConfusion c, fun _ => ?_⟩
  rw [show encode (.atile tb a b d) = packAR 12 (if tb then 1 else 0) b a d from rfl]
  simp only [decodeAdvice, decodeAalu, decodeAbr, decodeApin, major, fld_packAR_aop, fld_packAR_d,
    fld_packAR_a, fld_packAR_b, fld_packAR_imm, fld_packAR_20_3, fld_packAR_23_9, fld_packAR_22_1,
    fld_packAR_20_2, fld_packAR_21_11, fld_packAR_22_10, fld_packAR_26_5, fld_packAR_20_6, fld_packAR_31_1,
    fld_packAR_20_1, fld_packAR_op, advD, advA, advB, advImm]
  cases tb <;> rfl

theorem RoundTrip.aprio (c : BitVec 2) : RoundTrip.Statement (.aprio c) := by
  refine fun hw => ⟨fun c => WordClass.noConfusion c, fun _ => ?_⟩
  rw [show encode (.aprio c) = packAR 13 (c.setWidth 12) 0 0 0 from rfl]
  simp only [decodeAdvice, decodeAalu, decodeAbr, decodeApin, major, fld_packAR_aop, fld_packAR_d,
    fld_packAR_a, fld_packAR_b, fld_packAR_imm, fld_packAR_20_3, fld_packAR_23_9, fld_packAR_22_1,
    fld_packAR_20_2, fld_packAR_21_11, fld_packAR_22_10, fld_packAR_26_5, fld_packAR_20_6, fld_packAR_31_1,
    fld_packAR_20_1, fld_packAR_op, fld_packAR_zero_11_9, advD, advA, advB, advImm, hint_lo, hint_hi]
  rfl

theorem RoundTrip.aorder (c : BitVec 3) : RoundTrip.Statement (.aorder c) := by
  refine fun hw => ⟨fun c => WordClass.noConfusion c, fun _ => ?_⟩
  rw [show encode (.aorder c) = packAR 14 (c.setWidth 12) 0 0 0 from rfl]
  simp only [decodeAdvice, decodeAalu, decodeAbr, decodeApin, major, fld_packAR_aop, fld_packAR_d,
    fld_packAR_a, fld_packAR_b, fld_packAR_imm, fld_packAR_20_3, fld_packAR_23_9, fld_packAR_22_1,
    fld_packAR_20_2, fld_packAR_21_11, fld_packAR_22_10, fld_packAR_26_5, fld_packAR_20_6, fld_packAR_31_1,
    fld_packAR_20_1, fld_packAR_op, fld_packAR_zero_11_9, advD, advA, advB, advImm, hint3_lo, hint3_hi]
  exact arsv_true hw rfl

theorem RoundTrip.adviceAwaitWake (uid : Nat) : RoundTrip.Statement (.adviceAwaitWake uid) :=
  fun _ => ⟨fun c => WordClass.noConfusion c, fun c => WordClass.noConfusion c⟩

theorem RoundTrip.advicePinExpire (uid : Nat) : RoundTrip.Statement (.advicePinExpire uid) :=
  fun _ => ⟨fun c => WordClass.noConfusion c, fun c => WordClass.noConfusion c⟩

theorem RoundTrip.queueRoomResume (uid : Nat) : RoundTrip.Statement (.queueRoomResume uid) :=
  fun _ => ⟨fun c => WordClass.noConfusion c, fun c => WordClass.noConfusion c⟩

theorem RoundTrip.laneBlockTaken (uid : Nat) : RoundTrip.Statement (.laneBlockTaken uid) :=
  fun _ => ⟨fun c => WordClass.noConfusion c, fun c => WordClass.noConfusion c⟩

theorem RoundTrip.laneHoldTimeout (uid : Nat) : RoundTrip.Statement (.laneHoldTimeout uid) :=
  fun _ => ⟨fun c => WordClass.noConfusion c, fun c => WordClass.noConfusion c⟩

theorem RoundTrip.laneReclaim (uid : Nat) : RoundTrip.Statement (.laneReclaim uid) :=
  fun _ => ⟨fun c => WordClass.noConfusion c, fun c => WordClass.noConfusion c⟩

theorem RoundTrip.waitaWake (uid : Nat) : RoundTrip.Statement (.waitaWake uid) :=
  fun _ => ⟨fun c => WordClass.noConfusion c, fun c => WordClass.noConfusion c⟩

theorem RoundTrip.waitaTimeout (uid : Nat) : RoundTrip.Statement (.waitaTimeout uid) :=
  fun _ => ⟨fun c => WordClass.noConfusion c, fun c => WordClass.noConfusion c⟩

theorem RoundTrip.vwaitRound (uid : Nat) : RoundTrip.Statement (.vwaitRound uid) :=
  fun _ => ⟨fun c => WordClass.noConfusion c, fun c => WordClass.noConfusion c⟩

theorem RoundTrip.vwaitTimeout (uid : Nat) : RoundTrip.Statement (.vwaitTimeout uid) :=
  fun _ => ⟨fun c => WordClass.noConfusion c, fun c => WordClass.noConfusion c⟩

theorem RoundTrip.wfiWake (uid : Nat) : RoundTrip.Statement (.wfiWake uid) :=
  fun _ => ⟨fun c => WordClass.noConfusion c, fun c => WordClass.noConfusion c⟩

theorem RoundTrip.pairTimeout (uid : Nat) : RoundTrip.Statement (.pairTimeout uid) :=
  fun _ => ⟨fun c => WordClass.noConfusion c, fun c => WordClass.noConfusion c⟩

theorem RoundTrip.interruptTake (uid : Nat) : RoundTrip.Statement (.interruptTake uid) :=
  fun _ => ⟨fun c => WordClass.noConfusion c, fun c => WordClass.noConfusion c⟩

theorem RoundTrip.reliabilityQueuedTrap (uid : Nat) (cause : BitVec 10) (tval : Word) :
    RoundTrip.Statement (.reliabilityQueuedTrap uid cause tval) :=
  fun _ => ⟨fun c => WordClass.noConfusion c, fun c => WordClass.noConfusion c⟩

theorem RoundTrip.copyCommandComplete (uid : Nat) : RoundTrip.Statement (.copyCommandComplete uid) :=
  fun _ => ⟨fun c => WordClass.noConfusion c, fun c => WordClass.noConfusion c⟩

theorem RoundTrip.copyEngineFault (uid : Nat) (cause : BitVec 10) (tval : Word) :
    RoundTrip.Statement (.copyEngineFault uid cause tval) :=
  fun _ => ⟨fun c => WordClass.noConfusion c, fun c => WordClass.noConfusion c⟩

theorem RoundTrip.compactionMove (ctx : Nat) (seq : Nat) (block : Nat) (newPa : Nat) :
    RoundTrip.Statement (.compactionMove ctx seq block newPa) :=
  fun _ => ⟨fun c => WordClass.noConfusion c, fun c => WordClass.noConfusion c⟩

theorem RoundTrip.overflowRingReturn (ctx : Nat) : RoundTrip.Statement (.overflowRingReturn ctx) :=
  fun _ => ⟨fun c => WordClass.noConfusion c, fun c => WordClass.noConfusion c⟩

theorem RoundTrip.launchEligible (handle : Nat) : RoundTrip.Statement (.launchEligible handle) :=
  fun _ => ⟨fun c => WordClass.noConfusion c, fun c => WordClass.noConfusion c⟩

theorem RoundTrip.waitaddrPoll : RoundTrip.Statement (.waitaddrPoll) :=
  fun _ => ⟨fun c => WordClass.noConfusion c, fun c => WordClass.noConfusion c⟩

theorem RoundTrip.hartIssue (core : Nat) : RoundTrip.Statement (.hartIssue core) :=
  fun _ => ⟨fun c => WordClass.noConfusion c, fun c => WordClass.noConfusion c⟩

theorem RoundTrip.dispatchTick (core : Nat) : RoundTrip.Statement (.dispatchTick core) :=
  fun _ => ⟨fun c => WordClass.noConfusion c, fun c => WordClass.noConfusion c⟩

theorem RoundTrip.priorityAging (handle : Nat) : RoundTrip.Statement (.priorityAging handle) :=
  fun _ => ⟨fun c => WordClass.noConfusion c, fun c => WordClass.noConfusion c⟩

theorem RoundTrip.hartSave (uid : Nat) (reason : SaveReason) : RoundTrip.Statement (.hartSave uid reason) :=
  fun _ => ⟨fun c => WordClass.noConfusion c, fun c => WordClass.noConfusion c⟩

theorem RoundTrip.hartRestore (uid : Nat) : RoundTrip.Statement (.hartRestore uid) :=
  fun _ => ⟨fun c => WordClass.noConfusion c, fun c => WordClass.noConfusion c⟩

theorem RoundTrip.hqLaunch (q : Nat) : RoundTrip.Statement (.hqLaunch q) :=
  fun _ => ⟨fun c => WordClass.noConfusion c, fun c => WordClass.noConfusion c⟩

theorem RoundTrip.hqHoldHart (q : Nat) : RoundTrip.Statement (.hqHoldHart q) :=
  fun _ => ⟨fun c => WordClass.noConfusion c, fun c => WordClass.noConfusion c⟩

theorem RoundTrip.hqReleaseHart (q : Nat) : RoundTrip.Statement (.hqReleaseHart q) :=
  fun _ => ⟨fun c => WordClass.noConfusion c, fun c => WordClass.noConfusion c⟩

theorem RoundTrip.hqRetireHandle (q : Nat) : RoundTrip.Statement (.hqRetireHandle q) :=
  fun _ => ⟨fun c => WordClass.noConfusion c, fun c => WordClass.noConfusion c⟩

theorem RoundTrip.hqMigrateHart (q : Nat) : RoundTrip.Statement (.hqMigrateHart q) :=
  fun _ => ⟨fun c => WordClass.noConfusion c, fun c => WordClass.noConfusion c⟩

theorem RoundTrip.hqSetOverflowRing (q : Nat) : RoundTrip.Statement (.hqSetOverflowRing q) :=
  fun _ => ⟨fun c => WordClass.noConfusion c, fun c => WordClass.noConfusion c⟩

theorem RoundTrip.contextRegisterWriteComplete (uid : Nat) :
    RoundTrip.Statement (.contextRegisterWriteComplete uid) :=
  fun _ => ⟨fun c => WordClass.noConfusion c, fun c => WordClass.noConfusion c⟩

theorem RoundTrip.parkedAccessRetranslate (uid : Nat) : RoundTrip.Statement (.parkedAccessRetranslate uid) :=
  fun _ => ⟨fun c => WordClass.noConfusion c, fun c => WordClass.noConfusion c⟩

theorem RoundTrip.hashTreeUpdate (region : Nat) : RoundTrip.Statement (.hashTreeUpdate region) :=
  fun _ => ⟨fun c => WordClass.noConfusion c, fun c => WordClass.noConfusion c⟩

theorem RoundTrip.hostWindowRead (fn : Nat) (sp : HostSpace) (addr : Nat) (n : Nat) :
    RoundTrip.Statement (.hostWindowRead fn sp addr n) :=
  fun _ => ⟨fun c => WordClass.noConfusion c, fun c => WordClass.noConfusion c⟩

theorem RoundTrip.hostWindowWrite (fn : Nat) (sp : HostSpace) (addr : Nat) (data : List Byte) :
    RoundTrip.Statement (.hostWindowWrite fn sp addr data) :=
  fun _ => ⟨fun c => WordClass.noConfusion c, fun c => WordClass.noConfusion c⟩

theorem RoundTrip.hostReadTimeout (pa : Nat) (n : Nat) : RoundTrip.Statement (.hostReadTimeout pa n) :=
  fun _ => ⟨fun c => WordClass.noConfusion c, fun c => WordClass.noConfusion c⟩

theorem RoundTrip.linkFlitReceive (port : Nat) (flit : List Byte) :
    RoundTrip.Statement (.linkFlitReceive port flit) :=
  fun _ => ⟨fun c => WordClass.noConfusion c, fun c => WordClass.noConfusion c⟩

theorem RoundTrip.linkPortDown (port : Nat) : RoundTrip.Statement (.linkPortDown port) :=
  fun _ => ⟨fun c => WordClass.noConfusion c, fun c => WordClass.noConfusion c⟩

theorem RoundTrip.remoteRequestTimeout (kind : RemoteKind) (pa : Nat) (n : Nat) (uid : Nat) :
    RoundTrip.Statement (.remoteRequestTimeout kind pa n uid) :=
  fun _ => ⟨fun c => WordClass.noConfusion c, fun c => WordClass.noConfusion c⟩

theorem RoundTrip.collRankTimeout (uid : Nat) : RoundTrip.Statement (.collRankTimeout uid) :=
  fun _ => ⟨fun c => WordClass.noConfusion c, fun c => WordClass.noConfusion c⟩

theorem RoundTrip.createContext (m : Nat) (c : CtxInit) : RoundTrip.Statement (.createContext m c) :=
  fun _ => ⟨fun c => WordClass.noConfusion c, fun c => WordClass.noConfusion c⟩

theorem RoundTrip.destroyContext (m : Nat) (ctx : Nat) : RoundTrip.Statement (.destroyContext m ctx) :=
  fun _ => ⟨fun c => WordClass.noConfusion c, fun c => WordClass.noConfusion c⟩

theorem RoundTrip.bindHostQueue (m : Nat) (q : Nat) (c : QueueInit) :
    RoundTrip.Statement (.bindHostQueue m q c) :=
  fun _ => ⟨fun c => WordClass.noConfusion c, fun c => WordClass.noConfusion c⟩

theorem RoundTrip.setSchedulingQuantum (m : Nat) (us : Nat) :
    RoundTrip.Statement (.setSchedulingQuantum m us) :=
  fun _ => ⟨fun c => WordClass.noConfusion c, fun c => WordClass.noConfusion c⟩

theorem RoundTrip.endLaunch (m : Nat) (handle : Nat) : RoundTrip.Statement (.endLaunch m handle) :=
  fun _ => ⟨fun c => WordClass.noConfusion c, fun c => WordClass.noConfusion c⟩

theorem RoundTrip.hashRegionRegister (m : Nat) (desc : Nat) :
    RoundTrip.Statement (.hashRegionRegister m desc) :=
  fun _ => ⟨fun c => WordClass.noConfusion c, fun c => WordClass.noConfusion c⟩

theorem RoundTrip.hashRegionRemove (m : Nat) (region : Nat) :
    RoundTrip.Statement (.hashRegionRemove m region) :=
  fun _ => ⟨fun c => WordClass.noConfusion c, fun c => WordClass.noConfusion c⟩

theorem RoundTrip.hashRegionSeal (m : Nat) (region : Nat) : RoundTrip.Statement (.hashRegionSeal m region) :=
  fun _ => ⟨fun c => WordClass.noConfusion c, fun c => WordClass.noConfusion c⟩

theorem RoundTrip.readErrorLog (m : Nat) (die : Nat) : RoundTrip.Statement (.readErrorLog m die) :=
  fun _ => ⟨fun c => WordClass.noConfusion c, fun c => WordClass.noConfusion c⟩

theorem RoundTrip.clearErrorLog (m : Nat) (die : Nat) : RoundTrip.Statement (.clearErrorLog m die) :=
  fun _ => ⟨fun c => WordClass.noConfusion c, fun c => WordClass.noConfusion c⟩

theorem RoundTrip.readTraceBuffer (m : Nat) (hamlet : Nat) :
    RoundTrip.Statement (.readTraceBuffer m hamlet) :=
  fun _ => ⟨fun c => WordClass.noConfusion c, fun c => WordClass.noConfusion c⟩

theorem RoundTrip.setPartitionTable (m : Nat) (t : List Partition) :
    RoundTrip.Statement (.setPartitionTable m t) :=
  fun _ => ⟨fun c => WordClass.noConfusion c, fun c => WordClass.noConfusion c⟩

theorem RoundTrip.setDomainTable (m : Nat) (own : Nat) (present : BitVec 1024) :
    RoundTrip.Statement (.setDomainTable m own present) :=
  fun _ => ⟨fun c => WordClass.noConfusion c, fun c => WordClass.noConfusion c⟩

theorem RoundTrip.setHostApertures (m : Nat) (part : Nat) (t : List MemRange) :
    RoundTrip.Statement (.setHostApertures m part t) :=
  fun _ => ⟨fun c => WordClass.noConfusion c, fun c => WordClass.noConfusion c⟩

theorem RoundTrip.setCollectiveTimeout (m : Nat) (ns : Nat) :
    RoundTrip.Statement (.setCollectiveTimeout m ns) :=
  fun _ => ⟨fun c => WordClass.noConfusion c, fun c => WordClass.noConfusion c⟩

theorem RoundTrip.setPowerLimit (m : Nat) (watts : Nat) : RoundTrip.Statement (.setPowerLimit m watts) :=
  fun _ => ⟨fun c => WordClass.noConfusion c, fun c => WordClass.noConfusion c⟩

theorem RoundTrip.attestationQuote (m : Nat) (nonce : BitVec 256) :
    RoundTrip.Statement (.attestationQuote m nonce) :=
  fun _ => ⟨fun c => WordClass.noConfusion c, fun c => WordClass.noConfusion c⟩

theorem RoundTrip.mailboxClaim (m : Nat) : RoundTrip.Statement (.mailboxClaim m) :=
  fun _ => ⟨fun c => WordClass.noConfusion c, fun c => WordClass.noConfusion c⟩

theorem RoundTrip.handover (m : Nat) (target : Nat) : RoundTrip.Statement (.handover m target) :=
  fun _ => ⟨fun c => WordClass.noConfusion c, fun c => WordClass.noConfusion c⟩

theorem RoundTrip.heartbeat (m : Nat) : RoundTrip.Statement (.heartbeat m) :=
  fun _ => ⟨fun c => WordClass.noConfusion c, fun c => WordClass.noConfusion c⟩

theorem RoundTrip.registerKernel (m : Nat) (c : KernelInit) : RoundTrip.Statement (.registerKernel m c) :=
  fun _ => ⟨fun c => WordClass.noConfusion c, fun c => WordClass.noConfusion c⟩

theorem RoundTrip.unregisterKernel (m : Nat) (ctx : Nat) (kzhdr : Nat) :
    RoundTrip.Statement (.unregisterKernel m ctx kzhdr) :=
  fun _ => ⟨fun c => WordClass.noConfusion c, fun c => WordClass.noConfusion c⟩

theorem RoundTrip.leaseLapse : RoundTrip.Statement (.leaseLapse) :=
  fun _ => ⟨fun c => WordClass.noConfusion c, fun c => WordClass.noConfusion c⟩

theorem RoundTrip.handoverExpire : RoundTrip.Statement (.handoverExpire) :=
  fun _ => ⟨fun c => WordClass.noConfusion c, fun c => WordClass.noConfusion c⟩

theorem RoundTrip.clockChange (hamlet : Nat) (dom : ClockDomain) (mhz : Nat) (reason : ClockReason) :
    RoundTrip.Statement (.clockChange hamlet dom mhz reason) :=
  fun _ => ⟨fun c => WordClass.noConfusion c, fun c => WordClass.noConfusion c⟩

theorem RoundTrip.throttleLevelChange (hamlet : Nat) (level : Nat) :
    RoundTrip.Statement (.throttleLevelChange hamlet level) :=
  fun _ => ⟨fun c => WordClass.noConfusion c, fun c => WordClass.noConfusion c⟩

theorem RoundTrip.powerLimitReached (watts : Nat) (limit : Nat) :
    RoundTrip.Statement (.powerLimitReached watts limit) :=
  fun _ => ⟨fun c => WordClass.noConfusion c, fun c => WordClass.noConfusion c⟩

theorem RoundTrip.thermalLimitReached (hamlet : Nat) (tenths : Nat) :
    RoundTrip.Statement (.thermalLimitReached hamlet tenths) :=
  fun _ => ⟨fun c => WordClass.noConfusion c, fun c => WordClass.noConfusion c⟩

theorem RoundTrip.powerBackWithinLimit (watts : Nat) (limit : Nat) :
    RoundTrip.Statement (.powerBackWithinLimit watts limit) :=
  fun _ => ⟨fun c => WordClass.noConfusion c, fun c => WordClass.noConfusion c⟩

theorem RoundTrip.powerOnBringUp (slotA : Bool) (slotB : Bool) :
    RoundTrip.Statement (.powerOnBringUp slotA slotB) :=
  fun _ => ⟨fun c => WordClass.noConfusion c, fun c => WordClass.noConfusion c⟩

theorem RoundTrip.hostSnoop (pa : Nat) (take : Bool) : RoundTrip.Statement (.hostSnoop pa take) :=
  fun _ => ⟨fun c => WordClass.noConfusion c, fun c => WordClass.noConfusion c⟩

theorem RoundTrip.hostRequestError (pa : Nat) (n : Nat) (isWrite : Bool) :
    RoundTrip.Statement (.hostRequestError pa n isWrite) :=
  fun _ => ⟨fun c => WordClass.noConfusion c, fun c => WordClass.noConfusion c⟩

theorem RoundTrip.linkPortRetrained (port : Nat) : RoundTrip.Statement (.linkPortRetrained port) :=
  fun _ => ⟨fun c => WordClass.noConfusion c, fun c => WordClass.noConfusion c⟩

theorem RoundTrip.uncorrectableStorageError (level : StorageLevel) (pa : Nat) :
    RoundTrip.Statement (.uncorrectableStorageError level pa) :=
  fun _ => ⟨fun c => WordClass.noConfusion c, fun c => WordClass.noConfusion c⟩

theorem RoundTrip.adviceFillComplete (uid : Nat) : RoundTrip.Statement (.adviceFillComplete uid) :=
  fun _ => ⟨fun c => WordClass.noConfusion c, fun c => WordClass.noConfusion c⟩

theorem RoundTrip.hardwarePrefetch (uid : Nat) (va : Word) (n : Nat) :
    RoundTrip.Statement (.hardwarePrefetch uid va n) :=
  fun _ => ⟨fun c => WordClass.noConfusion c, fun c => WordClass.noConfusion c⟩

theorem RoundTrip.mailboxMessageToHart (m : Nat) (uid : Nat) (msg : Word) :
    RoundTrip.Statement (.mailboxMessageToHart m uid msg) :=
  fun _ => ⟨fun c => WordClass.noConfusion c, fun c => WordClass.noConfusion c⟩

end Sys2Proof.Laws
end

