-- ==== Sys2Proof/Laws/Queue.lean ====
section
/-! SUPPORT. How a queued instruction runs: at once where the queues are empty, behind their entries where
they are not (R37, R224, R324). -/

namespace Sys2Proof.Machine

/-- A hart that keeps its lanes, or that has none to keep. -/
abbrev Hart.laned (h : Hart) : Prop := h.holds = true ∨ h.bounds.vregs = 0 ∨ h.grant.lanes = 0

/-- A front end that executes its next queued instruction at once: nothing stands in its queues, and nothing goes
wrong in its lanes. -/
structure Hart.Prompt (h : Hart) : Prop where
  replay : h.replay = none
  queue : h.queue = []
  lag : h.lag = false
  trouble : h.trouble = none
  laned : h.laned

/-- Lanes that are held need no grant point. -/
theorem regain_held {s : State} (h : s.hart.laned) : s.regain = .ok s := by
  unfold State.regain Hart.noLanes
  rw [if_pos]
  rcases h with h | h | h <;> simp [h]

theorem sampled_laned {s : State} {k : QKind} (h : s.hart.laned) : (s.sampled k).hart.laned := by
  unfold State.sampled
  split <;> exact h

theorem sampled_trouble {s : State} {k : QKind} (h : s.hart.trouble = none) : (s.sampled k).hart.trouble = none := by
  unfold State.sampled
  split <;> exact h

/-- Without trouble in its lanes an instruction runs as it is. -/
theorem runChecked_none {s : State} {k : QKind} {w : IWord} {c : Bool} {run : State → Except Halt Ran}
    (h : s.hart.trouble = none) : s.runChecked k w c run = run s := by
  unfold State.runChecked
  split
  · rfl
  · rw [h]

/-- An instruction with empty queues runs at once, and the front end goes on. -/
theorem runNow_done {s u : State} {k : QKind} {w : IWord} {ops : List Word} {holds waited : Bool}
    {run : State → Except Halt Ran} (hh : s.hart.laned)
    (ht : s.hart.trouble = none) (hr : run (s.sampled k) = .ok (.done u)) :
    s.runNow k w ops holds waited run = .ok u.advance := by
  unfold State.runNow
  rw [regain_held (sampled_laned hh)]
  simp only [runChecked_none (sampled_trouble ht), hr]
  rfl

/-- `enter` with empty queues (R37). -/
theorem enter_done {s u : State} {k : QKind} {w : IWord} {ops : List Word} {checks : Except Halt Unit}
    {run : State → Except Halt Ran} (hp : s.hart.Prompt) (hc : checks = .ok ())
    (hr : run (s.sampled k) = .ok (.done u)) :
    s.enter k w ops checks run = .next u.advance := by
  unfold State.enter
  rw [hp.replay]
  simp only [hc, bind, Except.bind, hp.queue, hp.lag, List.isEmpty_nil, Bool.not_false, Bool.and_self, if_true]
  rw [runNow_done hp.laned hp.trouble hr]
  rfl

/-- A hart that does not lag is itself without its lag. -/
theorem Hart.lag_self {h : Hart} (e : h.lag = false) : ({ h with lag := false } : Hart) = h := by
  cases h
  cases e
  rfl

/-- `enterWait` with empty queues (R40). -/
theorem enterWait_done {s u : State} {k : QKind} {w : IWord} {ops : List Word} {checks : Except Halt Unit}
    {run : State → Except Halt Ran} (hp : s.hart.Prompt) (hc : checks = .ok ())
    (hr : run (s.sampled k) = .ok (.done u)) :
    s.enterWait k w ops checks run = .next u.advance := by
  unfold State.enterWait
  rw [hp.replay, Hart.lag_self hp.lag]
  simp only [hc, bind, Except.bind, hp.queue, List.isEmpty_nil, if_true]
  rw [runNow_done hp.laned hp.trouble hr]
  rfl

theorem Hart.laned.has {h : Hart} (e : h.laned) : h.hasLanes = true := by
  unfold Hart.hasLanes Hart.noLanes
  rcases e with e | e | e <;> simp [e]

/-- `enterProbe` with empty queues, and no entry to come that its probe would wait for (R297). -/
theorem enterProbe_done {s u : State} {k : QKind} {w : IWord} {ops : List Word} {reads : Bool}
    {checks : Except Halt Unit} {run : State → Except Halt Ran} (hp : s.hart.Prompt) (hc : checks = .ok ())
    (hr : run (s.sampled k) = .ok (.done u)) :
    s.enterProbe k w ops false reads checks run = .next u.advance := by
  unfold State.enterProbe
  rw [hp.replay]
  simp only [hc, bind, Except.bind, hp.queue, hp.lag, hp.laned.has, List.isEmpty_nil, Bool.not_false, Bool.and_self,
    Bool.false_eq_true, if_true, if_false]
  rw [runNow_done hp.laned hp.trouble hr]
  rfl

/-- `enter` behind other entries (R37, R224): the word, VT, VL and the scalar operands are captured, and
the front end goes on. -/
theorem enter_behind {s : State} {k : QKind} {w : IWord} {ops : List Word} {checks : Except Halt Unit}
    {run : State → Except Halt Ran} (hp : s.hart.replay = none) (hq : s.hart.queue ≠ [])
    (hf : s.hart.fenced = false) (hr : s.hart.hasRoom k = true) (hc : checks = .ok ()) :
    s.enter k w ops checks run = .next ((s.sampled k).pushEntry (s.entryOf k w ops false)).advance := by
  unfold State.enter
  rw [hp]
  have : s.hart.queue.isEmpty = false := by cases h : s.hart.queue with | nil => exact absurd h hq | cons => rfl
  simp only [hc, bind, Except.bind, this, Bool.false_and, Bool.false_eq_true, if_false, hf, hr, if_true, pure,
    Except.pure]
  rfl

/-- `enter` with a failing check: nothing enters (R225, R230). -/
theorem enter_refused {s : State} {k : QKind} {w : IWord} {ops : List Word} {h : Halt}
    {run : State → Except Halt Ran} (hp : s.hart.replay = none) :
    s.enter k w ops (.error h) run = .next (s.halt h) := by
  unfold State.enter
  rw [hp]
  rfl

end Sys2Proof.Machine
end

