-- ==== Sys2Proof/Laws/Scratch.lean ====
section
/-! SUPPORT. The scratchpad and L1 lines: reads after writes. -/

namespace Sys2Proof.Machine

theorem tget_scrSet (m : List Host.Cell) (o : Nat) (bs : List Byte) (a : Nat) :
    tget (scrSet m o bs) a = if o ≤ a ∧ a < o + bs.length then some (bs.getD (a - o) 0) else tget m a := by
  induction bs generalizing m o with
  | nil => rw [if_neg (by simp)]; rfl
  | cons b bs ih =>
    unfold scrSet
    rw [ih, tget_tset]
    by_cases h1 : a = o
    · subst h1; simp
    · rw [if_neg h1]
      by_cases h2 : o ≤ a ∧ a < o + (b :: bs).length
      · have h3 : o + 1 ≤ a ∧ a < o + 1 + bs.length := by simp at h2; omega
        rw [if_pos h2, if_pos h3]
        have : a - o = (a - (o + 1)) + 1 := by omega
        rw [this, List.getD_cons_succ]
      · have h3 : ¬ (o + 1 ≤ a ∧ a < o + 1 + bs.length) := by simp at h2; omega
        rw [if_neg h2, if_neg h3]

/-- A byte of the scratchpad after a write (R87, R78). -/
theorem scrByte_scrWrite (s : State) (o : Nat) (bs : List Byte) (a : Nat) :
    (s.scrWrite o bs).scrByte a = if o ≤ a ∧ a < o + bs.length then bs.getD (a - o) 0 else s.scrByte a := by
  unfold State.scrByte State.scrWrite
  simp only
  rw [tget_scrSet]
  split <;> rfl

theorem bytesVal_map (f : Nat → Byte) (n : Nat) (w : Nat → Nat) (h0 : w 0 = 0)
    (hs : ∀ n, w (n + 1) = w n + (f n).toNat * 256 ^ n) : bytesVal ((List.range n).map f) = w n := by
  have app : ∀ (l : List Byte) (b : Byte), bytesVal (l ++ [b]) = bytesVal l + b.toNat * 256 ^ l.length := by
    intro l b
    induction l with
    | nil => simp [bytesVal]
    | cons c l ih => simp only [List.cons_append, bytesVal, ih, List.length_cons, pow_succ]; ring
  induction n with
  | zero => rw [h0]; rfl
  | succ n ih => rw [List.range_succ, List.map_append, List.map_singleton, app, ih, hs]; simp

/-- The bytes of a line after one is replaced. -/
theorem byte_put (l : L1Line) (o p : Nat) (b : Byte) (ho : o < 256) (hp : p < 256) :
    (l.put o b).byte p = if p = o then b else l.byte p := by
  apply BitVec.eq_of_getLsbD_eq
  intro i hi
  have hb : ∀ (d : BitVec 2048), (BitVec.ofNat 8 (d.toNat >>> (8 * p))).getLsbD i = d.getLsbD (8 * p + i) := by
    intro d
    rw [BitVec.getLsbD_ofNat, Nat.testBit_shiftRight]
    simp [hi, BitVec.getLsbD]
  have hl : (l.byte p).getLsbD i = l.data.getLsbD (8 * p + i) := hb l.data
  have h1 : ((l.put o b).byte p).getLsbD i = (l.put o b).data.getLsbD (8 * p + i) := hb _
  rw [h1]
  unfold L1Line.put
  simp only [BitVec.getLsbD_or, BitVec.getLsbD_and, BitVec.getLsbD_not, BitVec.getLsbD_shiftLeft,
    BitVec.getLsbD_ofNat]
  have hlt : 8 * p + i < 2048 := by omega
  by_cases h : p = o
  · subst h
    have h2 : (255 : Nat).testBit i = true := by
      rw [show (255 : Nat) = 2 ^ 8 - 1 from rfl, Nat.testBit_two_pow_sub_one]; simp [hi]
    have h3 : i < 2048 := by omega
    simp [hlt, h2, h3]; rfl
  · rw [if_neg h, hl]
    by_cases hle : 8 * p + i < 8 * o
    · simp [hlt, hle]
    · have h4 : 8 ≤ 8 * p + i - 8 * o := by omega
      have h2 : (255 : Nat).testBit (8 * p + i - 8 * o) = false := by
        rw [show (255 : Nat) = 2 ^ 8 - 1 from rfl, Nat.testBit_two_pow_sub_one]; simp; omega
      have h5 : b.toNat.testBit (8 * p + i - 8 * o) = false :=
        Nat.testBit_lt_two_pow (lt_of_lt_of_le b.isLt (Nat.pow_le_pow_right (by decide) h4))
      simp [hlt, hle, h2, h5]

/-- One step of a sector's fill. -/
def fillByte (s : State) (line sec : Nat) (a : L1Line) (i : Nat) : L1Line :=
  let o := 32 * sec + i
  if a.dirty.getLsbD o then a
  else
    let pa := 256 * line + o
    let a' := a.put o (s.l2Byte a.gran pa)
    if s.poisoned pa then { a' with poison := a'.poison ||| BitVec.ofNat 256 (2 ^ o) } else a'

theorem fillByte_frame (s : State) (line sec : Nat) (a : L1Line) (i : Nat) :
    (fillByte s line sec a i).dirty = a.dirty ∧ (fillByte s line sec a i).gran = a.gran ∧
    (fillByte s line sec a i).valid = a.valid ∧ (fillByte s line sec a i).broken = a.broken ∧
    (fillByte s line sec a i).shared = a.shared ∧ (fillByte s line sec a i).prio = a.prio := by
  unfold fillByte
  simp only
  split
  · exact ⟨rfl, rfl, rfl, rfl, rfl, rfl⟩
  · split <;> exact ⟨rfl, rfl, rfl, rfl, rfl, rfl⟩

theorem fillByte_byte (s : State) (line sec : Nat) (a : L1Line) (i p : Nat) (hs : sec < 8) (hi : i < 32) (hp : p < 256) :
    (fillByte s line sec a i).byte p =
      if p = 32 * sec + i ∧ a.dirty.getLsbD p = false then s.l2Byte a.gran (256 * line + p) else a.byte p := by
  have ho : 32 * sec + i < 256 := by omega
  unfold fillByte
  simp only
  split
  · rename_i hd
    rw [if_neg]
    rintro ⟨h1, h2⟩
    rw [h1] at h2; rw [hd] at h2; cases h2
  · rename_i hd
    have key : (a.put (32 * sec + i) (s.l2Byte a.gran (256 * line + (32 * sec + i)))).byte p =
        if p = 32 * sec + i ∧ a.dirty.getLsbD p = false then s.l2Byte a.gran (256 * line + p) else a.byte p := by
      rw [byte_put _ _ _ _ ho hp]
      by_cases h : p = 32 * sec + i
      · subst h
        rw [if_pos rfl, if_pos ⟨rfl, by simpa using hd⟩]
      · rw [if_neg h, if_neg fun hh => h hh.1]
    split
    · exact key
    · exact key

theorem fillByte_poison (s : State) (line sec : Nat) (a : L1Line) (i p : Nat) (hp : p < 256)
    (h : (fillByte s line sec a i).poison.getLsbD p = true) :
    a.poison.getLsbD p = true ∨ (p = 32 * sec + i ∧ a.dirty.getLsbD p = false ∧
      s.poisoned (256 * line + p) = true) := by
  unfold fillByte at h
  simp only at h
  split at h
  · exact .inl h
  · rename_i hd
    split at h
    · rename_i hpo
      simp only [L1Line.put, BitVec.getLsbD_or, BitVec.getLsbD_ofNat, Nat.testBit_two_pow, hp, decide_true,
        Bool.true_and, Bool.or_eq_true, decide_eq_true_eq] at h
      rcases h with h | h
      · exact .inl h
      · right
        subst h
        exact ⟨rfl, by simpa using hd, hpo⟩
    · exact .inl h

theorem fillSector_eq (s : State) (l : L1Line) (line sec : Nat) (h : l.valid.getLsbD sec = false) :
    s.fillSector l line sec =
      let l' := (List.range 32).foldl (fillByte s line sec) l
      { l' with
        valid := l'.valid ||| BitVec.ofNat 8 (2 ^ sec)
        broken := if s.broken.contains (8 * line + sec) then l'.broken ||| BitVec.ofNat 8 (2 ^ sec) else l'.broken } := by
  have hb : ∀ (is : List Nat) (a : L1Line), a.gran = l.gran →
      is.foldl (fun (a : L1Line) i =>
        let o := 32 * sec + i
        if a.dirty.getLsbD o then a
        else
          let pa := 256 * line + o
          let a' := a.put o (s.l2Byte l.gran pa)
          if s.poisoned pa then { a' with poison := a'.poison ||| BitVec.ofNat 256 (2 ^ o) } else a') a =
        is.foldl (fillByte s line sec) a := by
    intro is
    induction is with
    | nil => intro a _; rfl
    | cons i is ih =>
      intro a ha
      rw [List.foldl_cons, List.foldl_cons]
      have h1 : (let o := 32 * sec + i
        if a.dirty.getLsbD o then a
        else
          let pa := 256 * line + o
          let a' := a.put o (s.l2Byte l.gran pa)
          if s.poisoned pa then { a' with poison := a'.poison ||| BitVec.ofNat 256 (2 ^ o) } else a') =
          fillByte s line sec a i := by
        unfold fillByte
        rw [ha]
      rw [h1]
      exact ih _ ((fillByte_frame s line sec a i).2.1.trans ha)
  unfold State.fillSector
  rw [h]
  generalize List.range 32 = is
  simp only [Bool.false_eq_true, if_false]
  rw [hb is l rfl]

/-- What filling a missing sector leaves in its line (R79, R93): bytes that were not dirty come from L2. -/
theorem fillSector_spec (s : State) (l : L1Line) (line sec : Nat) (hs : sec < 8) :
    let l' := s.fillSector l line sec
    l'.dirty = l.dirty ∧ l'.gran = l.gran ∧ (∀ k, k < 8 → l'.valid.getLsbD k = (l.valid.getLsbD k || k == sec)) ∧
    (∀ p, p < 256 → l'.byte p =
      if l.valid.getLsbD sec = false ∧ p / 32 = sec ∧ l.dirty.getLsbD p = false
      then s.l2Byte l.gran (256 * line + p) else l.byte p) ∧
    (∀ p, p < 256 → l'.poison.getLsbD p = true → l.poison.getLsbD p = true ∨
      (l.valid.getLsbD sec = false ∧ p / 32 = sec ∧ l.dirty.getLsbD p = false ∧
        s.poisoned (256 * line + p) = true)) ∧
    (∀ k, k < 8 → l'.broken.getLsbD k = true → l.broken.getLsbD k = true ∨
      (l.valid.getLsbD sec = false ∧ k = sec ∧ s.broken.contains (8 * line + k) = true)) := by
  intro l'
  by_cases hv : l.valid.getLsbD sec = true
  · have : l' = l := by show s.fillSector l line sec = l; unfold State.fillSector; rw [hv]; rfl
    rw [this]
    refine ⟨rfl, rfl, fun k _ => ?_, fun p _ => ?_, fun p _ h => .inl h, fun k _ h => .inl h⟩
    · by_cases hk : k = sec
      · subst hk; rw [hv]; rfl
      · simp [hk]
    · rw [if_neg]; rw [hv]; rintro ⟨h, _⟩; cases h
  · have hv' : l.valid.getLsbD sec = false := by simpa using hv
    have he : l' = _ := fillSector_eq s l line sec hv'
    have inv : ∀ (n : Nat), n ≤ 32 →
        let a := (List.range n).foldl (fillByte s line sec) l
        a.dirty = l.dirty ∧ a.gran = l.gran ∧ a.valid = l.valid ∧ a.broken = l.broken ∧
        (∀ p, p < 256 → a.byte p =
          if 32 * sec ≤ p ∧ p < 32 * sec + n ∧ l.dirty.getLsbD p = false
          then s.l2Byte l.gran (256 * line + p) else l.byte p) ∧
        (∀ p, p < 256 → a.poison.getLsbD p = true → l.poison.getLsbD p = true ∨
          (32 * sec ≤ p ∧ p < 32 * sec + n ∧ l.dirty.getLsbD p = false ∧
            s.poisoned (256 * line + p) = true)) := by
      intro n
      induction n with
      | zero =>
        intro _
        refine ⟨rfl, rfl, rfl, rfl, fun p _ => ?_, fun p _ h => .inl h⟩
        rw [if_neg (by omega)]; rfl
      | succ n ih =>
        intro hn
        obtain ⟨i1, i2, v1, b1, i3, i4⟩ := ih (by omega)
        rw [List.range_succ, List.foldl_append, List.foldl_cons, List.foldl_nil]
        have f := fillByte_frame s line sec ((List.range n).foldl (fillByte s line sec) l) n
        refine ⟨f.1.trans i1, f.2.1.trans i2, f.2.2.1.trans v1, f.2.2.2.1.trans b1, fun p hp => ?_, fun p hp h => ?_⟩
        · rw [fillByte_byte _ _ _ _ _ _ hs (by omega) hp, i1, i2, i3 p hp]
          by_cases h1 : p = 32 * sec + n
          · by_cases h2 : l.dirty.getLsbD p = false
            · rw [if_pos ⟨h1, h2⟩, if_pos ⟨by omega, by omega, h2⟩]
            · rw [if_neg fun h => h2 h.2, if_neg fun h => h2 h.2.2, if_neg fun h => h2 h.2.2]
          · rw [if_neg fun h => h1 h.1]
            have : (32 * sec ≤ p ∧ p < 32 * sec + n ∧ l.dirty.getLsbD p = false) ↔
                (32 * sec ≤ p ∧ p < 32 * sec + (n + 1) ∧ l.dirty.getLsbD p = false) := by
              constructor
              · rintro ⟨a, b, c⟩; exact ⟨a, by omega, c⟩
              · rintro ⟨a, b, c⟩; exact ⟨a, by omega, c⟩
            simp only [this]
        · rcases fillByte_poison s line sec _ n p hp h with h | ⟨h1, h2, h3⟩
          · rcases i4 p hp h with h | ⟨a, b, c⟩
            · exact .inl h
            · exact .inr ⟨a, by omega, c⟩
          · rw [i1] at h2
            exact .inr ⟨by omega, by omega, h2, h3⟩
    have fin := inv 32 (le_refl _)
    clear_value l'
    generalize (List.range 32).foldl (fillByte s line sec) l = a at he fin
    obtain ⟨i1, i2, v1, b1, i3, i4⟩ := fin
    rw [he]
    refine ⟨i1, i2, fun k hk => ?_, fun p hp => ?_, fun p hp h => ?_, fun k hk h => ?_⟩
    · simp only [BitVec.getLsbD_or, BitVec.getLsbD_ofNat, Nat.testBit_two_pow, hk, decide_true, Bool.true_and, v1]
      by_cases h : k = sec
      · simp [h]
      · simp [h, Ne.symm h]
    · refine (i3 p hp).trans ?_
      have : (32 * sec ≤ p ∧ p < 32 * sec + 32 ∧ l.dirty.getLsbD p = false) ↔
          (l.valid.getLsbD sec = false ∧ p / 32 = sec ∧ l.dirty.getLsbD p = false) := by
        constructor
        · rintro ⟨a, b, c⟩; exact ⟨hv', by omega, c⟩
        · rintro ⟨_, b, c⟩; exact ⟨by omega, by omega, c⟩
      simp only [this]
    · rcases i4 p hp h with h | ⟨a, b, c⟩
      · exact .inl h
      · exact .inr ⟨hv', by omega, c⟩
    · simp only at h
      rw [b1] at h
      split at h
      · rename_i hb
        simp only [BitVec.getLsbD_or, BitVec.getLsbD_ofNat, Nat.testBit_two_pow, hk, decide_true, Bool.true_and,
          Bool.or_eq_true, decide_eq_true_eq] at h
        rcases h with h | h
        · exact .inl h
        · subst h; exact .inr ⟨hv', rfl, hb⟩
      · exact .inl h

theorem core_setLine (s : State) (c n : Nat) (l : L1Line) (m : Nat) :
    tget ((s.setLine c n l).core c).l1 m = if m = n then some l else tget (s.core c).l1 m := by
  unfold State.setLine
  rw [core_setCore_same]
  exact tget_tset _ _ _ _

/-- What a fill leaves in a line (R79, R83, R93): every sector valid; a byte that its sector did not hold and that was
not dirty is L2's, with L2's poison and errors; dirty bytes and the line's granule stay. -/
theorem l1Line_spec (s : State) (c : Nat) (t : Xlat) (prio : BitVec 2) (line : Nat) :
    let l := (tget (s.core c).l1 line).getD (L1Line.fresh t prio)
    let l' := s.l1Line c t prio line
    l'.dirty = l.dirty ∧ l'.gran = l.gran ∧ (∀ k, k < 8 → l'.valid.getLsbD k = true) ∧
    (∀ p, p < 256 → l'.byte p =
      if l.valid.getLsbD (p / 32) = false ∧ l.dirty.getLsbD p = false then s.l2Byte l.gran (256 * line + p) else l.byte p) ∧
    (∀ p, p < 256 → l'.poison.getLsbD p = true → l.poison.getLsbD p = true ∨
      (l.valid.getLsbD (p / 32) = false ∧ l.dirty.getLsbD p = false ∧ s.poisoned (256 * line + p) = true)) ∧
    (∀ k, k < 8 → l'.broken.getLsbD k = true → l.broken.getLsbD k = true ∨
      (l.valid.getLsbD k = false ∧ s.broken.contains (8 * line + k) = true)) := by
  intro l l'
  have inv : ∀ n, n ≤ 8 → ∀ a, a = (List.range n).foldl (fun (l : L1Line) sec => s.fillSector l line sec) l →
      a.dirty = l.dirty ∧ a.gran = l.gran ∧ (∀ k, k < 8 → a.valid.getLsbD k = (l.valid.getLsbD k || decide (k < n))) ∧
      (∀ p, p < 256 → a.byte p =
        if l.valid.getLsbD (p / 32) = false ∧ p / 32 < n ∧ l.dirty.getLsbD p = false
        then s.l2Byte l.gran (256 * line + p) else l.byte p) ∧
      (∀ p, p < 256 → a.poison.getLsbD p = true → l.poison.getLsbD p = true ∨
        (l.valid.getLsbD (p / 32) = false ∧ l.dirty.getLsbD p = false ∧ s.poisoned (256 * line + p) = true)) ∧
      (∀ k, k < 8 → a.broken.getLsbD k = true → l.broken.getLsbD k = true ∨
        (l.valid.getLsbD k = false ∧ s.broken.contains (8 * line + k) = true)) := by
    intro n
    induction n with
    | zero =>
      intro _ a ha
      subst ha
      refine ⟨rfl, rfl, fun k _ => by simp, fun p _ => by simp, fun p _ h => .inl h, fun k _ h => .inl h⟩
    | succ n ih =>
      intro hn a ha
      rw [List.range_succ, List.foldl_append, List.foldl_cons, List.foldl_nil] at ha
      obtain ⟨i1, i2, i3, i4, i5, i6⟩ := ih (by omega) _ rfl
      generalize (List.range n).foldl (fun (l : L1Line) sec => s.fillSector l line sec) l = m at ha i1 i2 i3 i4 i5 i6
      obtain ⟨f1, f2, f3, f4, f5, f6⟩ := fillSector_spec s m line n (by omega)
      rw [← ha] at f1 f2 f3 f4 f5 f6
      have mn : m.valid.getLsbD n = l.valid.getLsbD n := by rw [i3 n (by omega)]; simp
      refine ⟨f1.trans i1, f2.trans i2, fun k hk => ?_, fun p hp => ?_, fun p hp h => ?_, fun k hk h => ?_⟩
      · rw [f3 k hk, i3 k hk]
        by_cases h : k = n
        · subst h; simp
        · have : k < n + 1 ↔ k < n := by omega
          simp [h, this]
      · rw [f4 p hp, i4 p hp, i1, i2, mn]
        by_cases h : p / 32 = n
        · subst h
          simp
        · have : p / 32 < n + 1 ↔ p / 32 < n := by omega
          simp [h, this]
      · rcases f5 p hp h with h | ⟨h1, h2, h3, h4⟩
        · exact i5 p hp h
        · subst h2
          exact .inr ⟨mn ▸ h1, i1 ▸ h3, h4⟩
      · rcases f6 k hk h with h | ⟨h1, h2, h3⟩
        · exact i6 k hk h
        · subst h2
          exact .inr ⟨mn ▸ h1, h3⟩
  obtain ⟨i1, i2, i3, i4, i5, i6⟩ := inv 8 (le_refl _) l' rfl
  refine ⟨i1, i2, fun k hk => by rw [i3 k hk]; simp [hk], fun p hp => ?_, i5, i6⟩
  have : p / 32 < 8 := by omega
  rw [i4 p hp]
  simp [this]

/-- A sector that is valid stays as it is. -/
theorem fillSector_valid (s : State) (l : L1Line) (line sec : Nat) (h : l.valid.getLsbD sec = true) :
    s.fillSector l line sec = l := by
  unfold State.fillSector
  rw [if_pos h]

/-- A line that L1 holds whole stays as it is. -/
theorem l1Line_again (s : State) (c : Nat) (t : Xlat) (p : BitVec 2) (line : Nat) (l : L1Line)
    (h : tget (s.core c).l1 line = some l) (hv : ∀ k, k < 8 → l.valid.getLsbD k = true) :
    s.l1Line c t p line = l := by
  unfold State.l1Line
  rw [h, Option.getD_some]
  have : ∀ ks : List Nat, (∀ k ∈ ks, k < 8) → ks.foldl (fun (l : L1Line) sec => s.fillSector l line sec) l = l := by
    intro ks
    induction ks with
    | nil => intro _; rfl
    | cons k ks ih =>
      intro hk
      rw [List.foldl_cons, fillSector_valid _ _ _ _ (hv k (hk k List.mem_cons_self))]
      exact ih fun x hx => hk x (List.mem_cons_of_mem _ hx)
  exact this _ fun k hk => List.mem_range.mp hk

theorem l1Fill_zero (s : State) (c : Nat) (t : Xlat) (p : BitVec 2) : s.l1Fill c t p 0 = s := rfl

theorem l1Fill_succ (s : State) (c : Nat) (t : Xlat) (p : BitVec 2) (n : Nat) :
    s.l1Fill c t p (n + 1) =
      let s' := s.l1Fill c t p n
      let r := if (tget (s'.core c).l1 ((t.pa + n) / 256)).isSome then s' else s'.l1Room c
      r.setLine c ((t.pa + n) / 256) (r.l1Line c t p ((t.pa + n) / 256)) := rfl

/-- Whether L1 takes one more line without an eviction (R11, R78). -/
def Core.hasRoom (k : Core) : Prop := k.l1.length + k.gathered.length < k.l1Lines

/-- Where there is room, none is made. -/
theorem l1Room_room {s : State} {c : Nat} (h : (s.core c).hasRoom) : s.l1Room c = s := by
  unfold Core.hasRoom at h
  unfold State.l1Room
  cases hn : (s.core c).l1.length + (s.core c).gathered.length with
  | zero => rfl
  | succ n =>
    unfold State.evictTo
    rw [if_pos (by omega)]

theorem setLine_mem (s : State) (c n : Nat) (l : L1Line) :
    (s.setLine c n l).mem = s.mem ∧ (s.setLine c n l).poison = s.poison ∧
      (s.setLine c n l).grain = s.grain ∧ (s.setLine c n l).free = s.free := ⟨rfl, rfl, rfl, rfl⟩

/-- What an access of one line's bytes allocates and fills (R79, R83): the line of the access, whole, and no
other; memory is as before. -/
theorem l1Fill_spec (s : State) (c : Nat) (t : Xlat) (p : BitVec 2) (n : Nat)
    (h : ∀ i, i < n + 1 → (t.pa + i) / 256 = t.pa / 256)
    (hr : (tget (s.core c).l1 (t.pa / 256)).isSome = true ∨ (s.core c).hasRoom) :
    let s' := s.l1Fill c t p (n + 1)
    s'.mem = s.mem ∧ s'.poison = s.poison ∧ s'.grain = s.grain ∧ s'.free = s.free ∧
    ∀ m, tget (s'.core c).l1 m =
      if m = t.pa / 256 then some (s.l1Line c t p (t.pa / 256)) else tget (s.core c).l1 m := by
  induction n with
  | zero =>
    intro s'
    have e : s' = s.setLine c (t.pa / 256) (s.l1Line c t p (t.pa / 256)) := by
      have := l1Fill_succ s c t p 0
      rw [l1Fill_zero, Nat.add_zero] at this
      have room : (if (tget (s.core c).l1 (t.pa / 256)).isSome then s else s.l1Room c) = s := by
        split
        · rfl
        · rename_i hn
          exact l1Room_room (hr.resolve_left hn)
      simp only [Nat.add_zero, room] at this
      exact this
    rw [e]
    generalize s.l1Line c t p (t.pa / 256) = l
    have k := setLine_mem s c (t.pa / 256) l
    exact ⟨k.1, k.2.1, k.2.2.1, k.2.2.2, fun m => core_setLine _ _ _ _ _⟩
  | succ n ih =>
    obtain ⟨h1, h2, h3, h4, h5⟩ := ih fun i hi => h i (by omega)
    intro s'
    have e : s' = _ := l1Fill_succ s c t p (n + 1)
    have there : (tget ((s.l1Fill c t p (n + 1)).core c).l1 ((t.pa + (n + 1)) / 256)).isSome = true := by
      rw [h (n + 1) (by omega), h5, if_pos rfl]
      rfl
    simp only [there, if_true] at e
    have hline := h (n + 1) (by omega)
    have hl : (s.l1Fill c t p (n + 1)).l1Line c t p (t.pa / 256) = s.l1Line c t p (t.pa / 256) := by
      apply l1Line_again
      · rw [h5, if_pos rfl]
      · exact (l1Line_spec s c t p (t.pa / 256)).2.2.1
    rw [e, hline, hl]
    generalize s.l1Line c t p (t.pa / 256) = l at h5 ⊢
    generalize s.l1Fill c t p (n + 1) = r at h1 h2 h3 h4 h5 ⊢
    have k := setLine_mem r c (t.pa / 256) l
    refine ⟨k.1.trans h1, k.2.1.trans h2, k.2.2.1.trans h3, k.2.2.2.trans h4, fun m => ?_⟩
    rw [core_setLine, h5]
    by_cases hm : m = t.pa / 256
    · rw [if_pos hm, if_pos hm]
    · rw [if_neg hm, if_neg hm]

/-- Bytes that nothing poisons are consumed as they are (R431). -/
theorem consume_ok (pa : Nat) (l : List (Byte × Flaw)) (h : ∀ b ∈ l, b.2 = .none) :
    consume pa l = .ok (l.map (·.1)) := by
  induction l generalizing pa with
  | nil => rfl
  | cons b l ih =>
    obtain ⟨b, p⟩ := b
    have hp : p = .none := h (b, p) List.mem_cons_self
    subst hp
    unfold consume
    simp only [need, bind, Except.bind, pure, Except.pure]
    rw [ih _ fun x hx => h x (List.mem_cons_of_mem _ hx)]
    rfl

/-- An access of an aligned power of two of at most 32 bytes stays in one sector. -/
theorem one_sector {pa n i : Nat} (hn : n ∣ 32) (h : pa % n = 0) (hi : i < n) : (pa + i) / 32 = pa / 32 := by
  obtain ⟨k, hk⟩ := hn
  obtain ⟨q, rfl⟩ := Nat.dvd_of_mod_eq_zero h
  have hk0 : 0 < k := by rcases Nat.eq_zero_or_pos k with h | h; · subst h; simp at hk
                         · exact h
  rw [hk, ← Nat.div_div_eq_div_mul, ← Nat.div_div_eq_div_mul]
  congr 1
  rw [Nat.mul_add_div (by omega), Nat.mul_div_cancel_left _ (by omega), Nat.div_eq_of_lt hi, Nat.add_zero]

end Sys2Proof.Machine
end

