-- ==== Sys2Proof/Laws/State.lean ====
section
/-! SUPPORT. What each update of the state leaves alone, one lemma per field, and what it writes. -/

namespace Sys2Proof.Machine

@[simp] theorem setX_others (s : State) (r : Reg) (v : Word) : (s.setX r v).others = s.others := by
  unfold State.setX; split <;> rfl
@[simp] theorem setX_cores (s : State) (r : Reg) (v : Word) : (s.setX r v).cores = s.cores := by
  unfold State.setX; split <;> rfl
@[simp] theorem setX_ctxs (s : State) (r : Reg) (v : Word) : (s.setX r v).ctxs = s.ctxs := by
  unfold State.setX; split <;> rfl
@[simp] theorem setX_launches (s : State) (r : Reg) (v : Word) : (s.setX r v).launches = s.launches := by
  unfold State.setX; split <;> rfl
@[simp] theorem setX_nextLaunch (s : State) (r : Reg) (v : Word) : (s.setX r v).nextLaunch = s.nextLaunch := by
  unfold State.setX; split <;> rfl
@[simp] theorem setX_parkedCw (s : State) (r : Reg) (v : Word) : (s.setX r v).parkedCw = s.parkedCw := by
  unfold State.setX; split <;> rfl
@[simp] theorem setX_mem (s : State) (r : Reg) (v : Word) : (s.setX r v).mem = s.mem := by
  unfold State.setX; split <;> rfl
@[simp] theorem setX_l2 (s : State) (r : Reg) (v : Word) : (s.setX r v).l2 = s.l2 := by
  unfold State.setX; split <;> rfl
@[simp] theorem setX_posted (s : State) (r : Reg) (v : Word) : (s.setX r v).posted = s.posted := by
  unfold State.setX; split <;> rfl
@[simp] theorem setX_hostMem (s : State) (r : Reg) (v : Word) : (s.setX r v).hostMem = s.hostMem := by
  unfold State.setX; split <;> rfl
@[simp] theorem setX_poison (s : State) (r : Reg) (v : Word) : (s.setX r v).poison = s.poison := by
  unfold State.setX; split <;> rfl
@[simp] theorem setX_l2Poison (s : State) (r : Reg) (v : Word) : (s.setX r v).l2Poison = s.l2Poison := by
  unfold State.setX; split <;> rfl
@[simp] theorem setX_broken (s : State) (r : Reg) (v : Word) : (s.setX r v).broken = s.broken := by
  unfold State.setX; split <;> rfl
@[simp] theorem setX_grain (s : State) (r : Reg) (v : Word) : (s.setX r v).grain = s.grain := by
  unfold State.setX; split <;> rfl
@[simp] theorem setX_time (s : State) (r : Reg) (v : Word) : (s.setX r v).time = s.time := by
  unfold State.setX; split <;> rfl
@[simp] theorem setX_boot (s : State) (r : Reg) (v : Word) : (s.setX r v).boot = s.boot := by
  unfold State.setX; split <;> rfl
@[simp] theorem setX_mgmt (s : State) (r : Reg) (v : Word) : (s.setX r v).mgmt = s.mgmt := by
  unfold State.setX; split <;> rfl
@[simp] theorem setX_hamlets (s : State) (r : Reg) (v : Word) : (s.setX r v).hamlets = s.hamlets := by
  unfold State.setX; split <;> rfl
@[simp] theorem setX_dieLogs (s : State) (r : Reg) (v : Word) : (s.setX r v).dieLogs = s.dieLogs := by
  unfold State.setX; split <;> rfl
@[simp] theorem setX_regions (s : State) (r : Reg) (v : Word) : (s.setX r v).regions = s.regions := by
  unfold State.setX; split <;> rfl
@[simp] theorem setX_hqs (s : State) (r : Reg) (v : Word) : (s.setX r v).hqs = s.hqs := by
  unfold State.setX; split <;> rfl
@[simp] theorem setX_ports (s : State) (r : Reg) (v : Word) : (s.setX r v).ports = s.ports := by
  unfold State.setX; split <;> rfl
@[simp] theorem setX_peers (s : State) (r : Reg) (v : Word) : (s.setX r v).peers = s.peers := by
  unfold State.setX; split <;> rfl
@[simp] theorem setX_hostOut (s : State) (r : Reg) (v : Word) : (s.setX r v).hostOut = s.hostOut := by
  unfold State.setX; split <;> rfl
@[simp] theorem setX_free (s : State) (r : Reg) (v : Word) : (s.setX r v).free = s.free := by
  unfold State.setX; split <;> rfl
@[simp] theorem setX_turn (s : State) (r : Reg) (v : Word) : (s.setX r v).turn = s.turn := by
  unfold State.setX; split <;> rfl
@[simp] theorem setX_agenda (s : State) (r : Reg) (v : Word) : (s.setX r v).agenda = s.agenda := by
  unfold State.setX; split <;> rfl
@[simp] theorem setX_hart_uid (s : State) (r : Reg) (v : Word) : (s.setX r v).hart.uid = s.hart.uid := by
  unfold State.setX; split <;> rfl
@[simp] theorem setX_hart_ctx (s : State) (r : Reg) (v : Word) : (s.setX r v).hart.ctx = s.hart.ctx := by
  unfold State.setX; split <;> rfl
@[simp] theorem setX_hart_core (s : State) (r : Reg) (v : Word) : (s.setX r v).hart.core = s.hart.core := by
  unfold State.setX; split <;> rfl
@[simp] theorem setX_hart_status (s : State) (r : Reg) (v : Word) : (s.setX r v).hart.status = s.hart.status := by
  unfold State.setX; split <;> rfl
@[simp] theorem setX_hart_pc (s : State) (r : Reg) (v : Word) : (s.setX r v).hart.pc = s.hart.pc := by
  unfold State.setX; split <;> rfl
@[simp] theorem setX_hart_f (s : State) (r : Reg) (v : Word) : (s.setX r v).hart.f = s.hart.f := by
  unfold State.setX; split <;> rfl
@[simp] theorem setX_hart_k (s : State) (r : Reg) (v : Word) : (s.setX r v).hart.k = s.hart.k := by
  unfold State.setX; split <;> rfl
@[simp] theorem setX_hart_v (s : State) (r : Reg) (v : Word) : (s.setX r v).hart.v = s.hart.v := by
  unfold State.setX; split <;> rfl
@[simp] theorem setX_hart_sq (s : State) (r : Reg) (v : Word) : (s.setX r v).hart.sq = s.hart.sq := by
  unfold State.setX; split <;> rfl
@[simp] theorem setX_hart_csr (s : State) (r : Reg) (v : Word) : (s.setX r v).hart.csr = s.hart.csr := by
  unfold State.setX; split <;> rfl
@[simp] theorem setX_hart_trap (s : State) (r : Reg) (v : Word) : (s.setX r v).hart.trap = s.hart.trap := by
  unfold State.setX; split <;> rfl
@[simp] theorem setX_hart_bounds (s : State) (r : Reg) (v : Word) : (s.setX r v).hart.bounds = s.hart.bounds := by
  unfold State.setX; split <;> rfl
@[simp] theorem setX_hart_grant (s : State) (r : Reg) (v : Word) : (s.setX r v).hart.grant = s.hart.grant := by
  unfold State.setX; split <;> rfl
@[simp] theorem setX_hart_acc (s : State) (r : Reg) (v : Word) : (s.setX r v).hart.acc = s.hart.acc := by
  unfold State.setX; split <;> rfl
@[simp] theorem setX_hart_queue (s : State) (r : Reg) (v : Word) : (s.setX r v).hart.queue = s.hart.queue := by
  unfold State.setX; split <;> rfl
@[simp] theorem setX_hart_qwait (s : State) (r : Reg) (v : Word) : (s.setX r v).hart.qwait = s.hart.qwait := by
  unfold State.setX; split <;> rfl
@[simp] theorem setX_hart_replay (s : State) (r : Reg) (v : Word) : (s.setX r v).hart.replay = s.hart.replay := by
  unfold State.setX; split <;> rfl
@[simp] theorem setX_hart_copyq (s : State) (r : Reg) (v : Word) : (s.setX r v).hart.copyq = s.hart.copyq := by
  unfold State.setX; split <;> rfl
@[simp] theorem setX_hart_scr (s : State) (r : Reg) (v : Word) : (s.setX r v).hart.scr = s.hart.scr := by
  unfold State.setX; split <;> rfl
@[simp] theorem setX_hart_scrBad (s : State) (r : Reg) (v : Word) : (s.setX r v).hart.scrBad = s.hart.scrBad := by
  unfold State.setX; split <;> rfl
@[simp] theorem setX_hart_wait (s : State) (r : Reg) (v : Word) : (s.setX r v).hart.wait = s.hart.wait := by
  unfold State.setX; split <;> rfl
@[simp] theorem setX_hart_entry (s : State) (r : Reg) (v : Word) : (s.setX r v).hart.entry = s.hart.entry := by
  unfold State.setX; split <;> rfl
@[simp] theorem setX_hart_tlb (s : State) (r : Reg) (v : Word) : (s.setX r v).hart.tlb = s.hart.tlb := by
  unfold State.setX; split <;> rfl
@[simp] theorem setX_hart_l0 (s : State) (r : Reg) (v : Word) : (s.setX r v).hart.l0 = s.hart.l0 := by
  unfold State.setX; split <;> rfl
@[simp] theorem setX_hart_lag (s : State) (r : Reg) (v : Word) : (s.setX r v).hart.lag = s.hart.lag := by
  unfold State.setX; split <;> rfl
@[simp] theorem setX_hart_pending (s : State) (r : Reg) (v : Word) : (s.setX r v).hart.pending = s.hart.pending := by
  unfold State.setX; split <;> rfl
@[simp] theorem setX_hart_trouble (s : State) (r : Reg) (v : Word) : (s.setX r v).hart.trouble = s.hart.trouble := by
  unfold State.setX; split <;> rfl

@[simp] theorem setF_others (s : State) (r : Reg) (v : Word) : (s.setF r v).others = s.others := rfl
@[simp] theorem setF_cores (s : State) (r : Reg) (v : Word) : (s.setF r v).cores = s.cores := rfl
@[simp] theorem setF_ctxs (s : State) (r : Reg) (v : Word) : (s.setF r v).ctxs = s.ctxs := rfl
@[simp] theorem setF_launches (s : State) (r : Reg) (v : Word) : (s.setF r v).launches = s.launches := rfl
@[simp] theorem setF_nextLaunch (s : State) (r : Reg) (v : Word) : (s.setF r v).nextLaunch = s.nextLaunch := rfl
@[simp] theorem setF_parkedCw (s : State) (r : Reg) (v : Word) : (s.setF r v).parkedCw = s.parkedCw := rfl
@[simp] theorem setF_mem (s : State) (r : Reg) (v : Word) : (s.setF r v).mem = s.mem := rfl
@[simp] theorem setF_l2 (s : State) (r : Reg) (v : Word) : (s.setF r v).l2 = s.l2 := rfl
@[simp] theorem setF_posted (s : State) (r : Reg) (v : Word) : (s.setF r v).posted = s.posted := rfl
@[simp] theorem setF_hostMem (s : State) (r : Reg) (v : Word) : (s.setF r v).hostMem = s.hostMem := rfl
@[simp] theorem setF_poison (s : State) (r : Reg) (v : Word) : (s.setF r v).poison = s.poison := rfl
@[simp] theorem setF_l2Poison (s : State) (r : Reg) (v : Word) : (s.setF r v).l2Poison = s.l2Poison := rfl
@[simp] theorem setF_broken (s : State) (r : Reg) (v : Word) : (s.setF r v).broken = s.broken := rfl
@[simp] theorem setF_grain (s : State) (r : Reg) (v : Word) : (s.setF r v).grain = s.grain := rfl
@[simp] theorem setF_time (s : State) (r : Reg) (v : Word) : (s.setF r v).time = s.time := rfl
@[simp] theorem setF_boot (s : State) (r : Reg) (v : Word) : (s.setF r v).boot = s.boot := rfl
@[simp] theorem setF_mgmt (s : State) (r : Reg) (v : Word) : (s.setF r v).mgmt = s.mgmt := rfl
@[simp] theorem setF_hamlets (s : State) (r : Reg) (v : Word) : (s.setF r v).hamlets = s.hamlets := rfl
@[simp] theorem setF_dieLogs (s : State) (r : Reg) (v : Word) : (s.setF r v).dieLogs = s.dieLogs := rfl
@[simp] theorem setF_regions (s : State) (r : Reg) (v : Word) : (s.setF r v).regions = s.regions := rfl
@[simp] theorem setF_hqs (s : State) (r : Reg) (v : Word) : (s.setF r v).hqs = s.hqs := rfl
@[simp] theorem setF_ports (s : State) (r : Reg) (v : Word) : (s.setF r v).ports = s.ports := rfl
@[simp] theorem setF_peers (s : State) (r : Reg) (v : Word) : (s.setF r v).peers = s.peers := rfl
@[simp] theorem setF_hostOut (s : State) (r : Reg) (v : Word) : (s.setF r v).hostOut = s.hostOut := rfl
@[simp] theorem setF_free (s : State) (r : Reg) (v : Word) : (s.setF r v).free = s.free := rfl
@[simp] theorem setF_turn (s : State) (r : Reg) (v : Word) : (s.setF r v).turn = s.turn := rfl
@[simp] theorem setF_agenda (s : State) (r : Reg) (v : Word) : (s.setF r v).agenda = s.agenda := rfl
@[simp] theorem setF_hart_uid (s : State) (r : Reg) (v : Word) : (s.setF r v).hart.uid = s.hart.uid := rfl
@[simp] theorem setF_hart_ctx (s : State) (r : Reg) (v : Word) : (s.setF r v).hart.ctx = s.hart.ctx := rfl
@[simp] theorem setF_hart_core (s : State) (r : Reg) (v : Word) : (s.setF r v).hart.core = s.hart.core := rfl
@[simp] theorem setF_hart_status (s : State) (r : Reg) (v : Word) : (s.setF r v).hart.status = s.hart.status := rfl
@[simp] theorem setF_hart_pc (s : State) (r : Reg) (v : Word) : (s.setF r v).hart.pc = s.hart.pc := rfl
@[simp] theorem setF_hart_x (s : State) (r : Reg) (v : Word) : (s.setF r v).hart.x = s.hart.x := rfl
@[simp] theorem setF_hart_k (s : State) (r : Reg) (v : Word) : (s.setF r v).hart.k = s.hart.k := rfl
@[simp] theorem setF_hart_v (s : State) (r : Reg) (v : Word) : (s.setF r v).hart.v = s.hart.v := rfl
@[simp] theorem setF_hart_sq (s : State) (r : Reg) (v : Word) : (s.setF r v).hart.sq = s.hart.sq := rfl
@[simp] theorem setF_hart_csr (s : State) (r : Reg) (v : Word) : (s.setF r v).hart.csr = s.hart.csr := rfl
@[simp] theorem setF_hart_trap (s : State) (r : Reg) (v : Word) : (s.setF r v).hart.trap = s.hart.trap := rfl
@[simp] theorem setF_hart_bounds (s : State) (r : Reg) (v : Word) : (s.setF r v).hart.bounds = s.hart.bounds := rfl
@[simp] theorem setF_hart_grant (s : State) (r : Reg) (v : Word) : (s.setF r v).hart.grant = s.hart.grant := rfl
@[simp] theorem setF_hart_acc (s : State) (r : Reg) (v : Word) : (s.setF r v).hart.acc = s.hart.acc := rfl
@[simp] theorem setF_hart_queue (s : State) (r : Reg) (v : Word) : (s.setF r v).hart.queue = s.hart.queue := rfl
@[simp] theorem setF_hart_qwait (s : State) (r : Reg) (v : Word) : (s.setF r v).hart.qwait = s.hart.qwait := rfl
@[simp] theorem setF_hart_replay (s : State) (r : Reg) (v : Word) : (s.setF r v).hart.replay = s.hart.replay := rfl
@[simp] theorem setF_hart_copyq (s : State) (r : Reg) (v : Word) : (s.setF r v).hart.copyq = s.hart.copyq := rfl
@[simp] theorem setF_hart_scr (s : State) (r : Reg) (v : Word) : (s.setF r v).hart.scr = s.hart.scr := rfl
@[simp] theorem setF_hart_scrBad (s : State) (r : Reg) (v : Word) : (s.setF r v).hart.scrBad = s.hart.scrBad := rfl
@[simp] theorem setF_hart_wait (s : State) (r : Reg) (v : Word) : (s.setF r v).hart.wait = s.hart.wait := rfl
@[simp] theorem setF_hart_entry (s : State) (r : Reg) (v : Word) : (s.setF r v).hart.entry = s.hart.entry := rfl
@[simp] theorem setF_hart_tlb (s : State) (r : Reg) (v : Word) : (s.setF r v).hart.tlb = s.hart.tlb := rfl
@[simp] theorem setF_hart_l0 (s : State) (r : Reg) (v : Word) : (s.setF r v).hart.l0 = s.hart.l0 := rfl
@[simp] theorem setF_hart_lag (s : State) (r : Reg) (v : Word) : (s.setF r v).hart.lag = s.hart.lag := rfl
@[simp] theorem setF_hart_pending (s : State) (r : Reg) (v : Word) : (s.setF r v).hart.pending = s.hart.pending := rfl
@[simp] theorem setF_hart_trouble (s : State) (r : Reg) (v : Word) : (s.setF r v).hart.trouble = s.hart.trouble := rfl

@[simp] theorem setMask_others (s : State) (r : KReg) (v : Mask) : (s.setMask r v).others = s.others := by
  unfold State.setMask; split <;> rfl
@[simp] theorem setMask_cores (s : State) (r : KReg) (v : Mask) : (s.setMask r v).cores = s.cores := by
  unfold State.setMask; split <;> rfl
@[simp] theorem setMask_ctxs (s : State) (r : KReg) (v : Mask) : (s.setMask r v).ctxs = s.ctxs := by
  unfold State.setMask; split <;> rfl
@[simp] theorem setMask_launches (s : State) (r : KReg) (v : Mask) : (s.setMask r v).launches = s.launches := by
  unfold State.setMask; split <;> rfl
@[simp] theorem setMask_nextLaunch (s : State) (r : KReg) (v : Mask) : (s.setMask r v).nextLaunch = s.nextLaunch := by
  unfold State.setMask; split <;> rfl
@[simp] theorem setMask_parkedCw (s : State) (r : KReg) (v : Mask) : (s.setMask r v).parkedCw = s.parkedCw := by
  unfold State.setMask; split <;> rfl
@[simp] theorem setMask_mem (s : State) (r : KReg) (v : Mask) : (s.setMask r v).mem = s.mem := by
  unfold State.setMask; split <;> rfl
@[simp] theorem setMask_l2 (s : State) (r : KReg) (v : Mask) : (s.setMask r v).l2 = s.l2 := by
  unfold State.setMask; split <;> rfl
@[simp] theorem setMask_posted (s : State) (r : KReg) (v : Mask) : (s.setMask r v).posted = s.posted := by
  unfold State.setMask; split <;> rfl
@[simp] theorem setMask_hostMem (s : State) (r : KReg) (v : Mask) : (s.setMask r v).hostMem = s.hostMem := by
  unfold State.setMask; split <;> rfl
@[simp] theorem setMask_poison (s : State) (r : KReg) (v : Mask) : (s.setMask r v).poison = s.poison := by
  unfold State.setMask; split <;> rfl
@[simp] theorem setMask_l2Poison (s : State) (r : KReg) (v : Mask) : (s.setMask r v).l2Poison = s.l2Poison := by
  unfold State.setMask; split <;> rfl
@[simp] theorem setMask_broken (s : State) (r : KReg) (v : Mask) : (s.setMask r v).broken = s.broken := by
  unfold State.setMask; split <;> rfl
@[simp] theorem setMask_grain (s : State) (r : KReg) (v : Mask) : (s.setMask r v).grain = s.grain := by
  unfold State.setMask; split <;> rfl
@[simp] theorem setMask_time (s : State) (r : KReg) (v : Mask) : (s.setMask r v).time = s.time := by
  unfold State.setMask; split <;> rfl
@[simp] theorem setMask_boot (s : State) (r : KReg) (v : Mask) : (s.setMask r v).boot = s.boot := by
  unfold State.setMask; split <;> rfl
@[simp] theorem setMask_mgmt (s : State) (r : KReg) (v : Mask) : (s.setMask r v).mgmt = s.mgmt := by
  unfold State.setMask; split <;> rfl
@[simp] theorem setMask_hamlets (s : State) (r : KReg) (v : Mask) : (s.setMask r v).hamlets = s.hamlets := by
  unfold State.setMask; split <;> rfl
@[simp] theorem setMask_dieLogs (s : State) (r : KReg) (v : Mask) : (s.setMask r v).dieLogs = s.dieLogs := by
  unfold State.setMask; split <;> rfl
@[simp] theorem setMask_regions (s : State) (r : KReg) (v : Mask) : (s.setMask r v).regions = s.regions := by
  unfold State.setMask; split <;> rfl
@[simp] theorem setMask_hqs (s : State) (r : KReg) (v : Mask) : (s.setMask r v).hqs = s.hqs := by
  unfold State.setMask; split <;> rfl
@[simp] theorem setMask_ports (s : State) (r : KReg) (v : Mask) : (s.setMask r v).ports = s.ports := by
  unfold State.setMask; split <;> rfl
@[simp] theorem setMask_peers (s : State) (r : KReg) (v : Mask) : (s.setMask r v).peers = s.peers := by
  unfold State.setMask; split <;> rfl
@[simp] theorem setMask_hostOut (s : State) (r : KReg) (v : Mask) : (s.setMask r v).hostOut = s.hostOut := by
  unfold State.setMask; split <;> rfl
@[simp] theorem setMask_free (s : State) (r : KReg) (v : Mask) : (s.setMask r v).free = s.free := by
  unfold State.setMask; split <;> rfl
@[simp] theorem setMask_turn (s : State) (r : KReg) (v : Mask) : (s.setMask r v).turn = s.turn := by
  unfold State.setMask; split <;> rfl
@[simp] theorem setMask_agenda (s : State) (r : KReg) (v : Mask) : (s.setMask r v).agenda = s.agenda := by
  unfold State.setMask; split <;> rfl
@[simp] theorem setMask_hart_uid (s : State) (r : KReg) (v : Mask) : (s.setMask r v).hart.uid = s.hart.uid := by
  unfold State.setMask; split <;> rfl
@[simp] theorem setMask_hart_ctx (s : State) (r : KReg) (v : Mask) : (s.setMask r v).hart.ctx = s.hart.ctx := by
  unfold State.setMask; split <;> rfl
@[simp] theorem setMask_hart_core (s : State) (r : KReg) (v : Mask) : (s.setMask r v).hart.core = s.hart.core := by
  unfold State.setMask; split <;> rfl
@[simp] theorem setMask_hart_status (s : State) (r : KReg) (v : Mask) : (s.setMask r v).hart.status = s.hart.status := by
  unfold State.setMask; split <;> rfl
@[simp] theorem setMask_hart_pc (s : State) (r : KReg) (v : Mask) : (s.setMask r v).hart.pc = s.hart.pc := by
  unfold State.setMask; split <;> rfl
@[simp] theorem setMask_hart_x (s : State) (r : KReg) (v : Mask) : (s.setMask r v).hart.x = s.hart.x := by
  unfold State.setMask; split <;> rfl
@[simp] theorem setMask_hart_f (s : State) (r : KReg) (v : Mask) : (s.setMask r v).hart.f = s.hart.f := by
  unfold State.setMask; split <;> rfl
@[simp] theorem setMask_hart_v (s : State) (r : KReg) (v : Mask) : (s.setMask r v).hart.v = s.hart.v := by
  unfold State.setMask; split <;> rfl
@[simp] theorem setMask_hart_sq (s : State) (r : KReg) (v : Mask) : (s.setMask r v).hart.sq = s.hart.sq := by
  unfold State.setMask; split <;> rfl
@[simp] theorem setMask_hart_csr (s : State) (r : KReg) (v : Mask) : (s.setMask r v).hart.csr = s.hart.csr := by
  unfold State.setMask; split <;> rfl
@[simp] theorem setMask_hart_trap (s : State) (r : KReg) (v : Mask) : (s.setMask r v).hart.trap = s.hart.trap := by
  unfold State.setMask; split <;> rfl
@[simp] theorem setMask_hart_bounds (s : State) (r : KReg) (v : Mask) : (s.setMask r v).hart.bounds = s.hart.bounds := by
  unfold State.setMask; split <;> rfl
@[simp] theorem setMask_hart_grant (s : State) (r : KReg) (v : Mask) : (s.setMask r v).hart.grant = s.hart.grant := by
  unfold State.setMask; split <;> rfl
@[simp] theorem setMask_hart_acc (s : State) (r : KReg) (v : Mask) : (s.setMask r v).hart.acc = s.hart.acc := by
  unfold State.setMask; split <;> rfl
@[simp] theorem setMask_hart_queue (s : State) (r : KReg) (v : Mask) : (s.setMask r v).hart.queue = s.hart.queue := by
  unfold State.setMask; split <;> rfl
@[simp] theorem setMask_hart_qwait (s : State) (r : KReg) (v : Mask) : (s.setMask r v).hart.qwait = s.hart.qwait := by
  unfold State.setMask; split <;> rfl
@[simp] theorem setMask_hart_replay (s : State) (r : KReg) (v : Mask) : (s.setMask r v).hart.replay = s.hart.replay := by
  unfold State.setMask; split <;> rfl
@[simp] theorem setMask_hart_copyq (s : State) (r : KReg) (v : Mask) : (s.setMask r v).hart.copyq = s.hart.copyq := by
  unfold State.setMask; split <;> rfl
@[simp] theorem setMask_hart_scr (s : State) (r : KReg) (v : Mask) : (s.setMask r v).hart.scr = s.hart.scr := by
  unfold State.setMask; split <;> rfl
@[simp] theorem setMask_hart_scrBad (s : State) (r : KReg) (v : Mask) : (s.setMask r v).hart.scrBad = s.hart.scrBad := by
  unfold State.setMask; split <;> rfl
@[simp] theorem setMask_hart_wait (s : State) (r : KReg) (v : Mask) : (s.setMask r v).hart.wait = s.hart.wait := by
  unfold State.setMask; split <;> rfl
@[simp] theorem setMask_hart_entry (s : State) (r : KReg) (v : Mask) : (s.setMask r v).hart.entry = s.hart.entry := by
  unfold State.setMask; split <;> rfl
@[simp] theorem setMask_hart_tlb (s : State) (r : KReg) (v : Mask) : (s.setMask r v).hart.tlb = s.hart.tlb := by
  unfold State.setMask; split <;> rfl
@[simp] theorem setMask_hart_l0 (s : State) (r : KReg) (v : Mask) : (s.setMask r v).hart.l0 = s.hart.l0 := by
  unfold State.setMask; split <;> rfl
@[simp] theorem setMask_hart_lag (s : State) (r : KReg) (v : Mask) : (s.setMask r v).hart.lag = s.hart.lag := by
  unfold State.setMask; split <;> rfl
@[simp] theorem setMask_hart_pending (s : State) (r : KReg) (v : Mask) : (s.setMask r v).hart.pending = s.hart.pending := by
  unfold State.setMask; split <;> rfl
@[simp] theorem setMask_hart_trouble (s : State) (r : KReg) (v : Mask) : (s.setMask r v).hart.trouble = s.hart.trouble := by
  unfold State.setMask; split <;> rfl

@[simp] theorem advance_others (s : State) : s.advance.others = s.others := rfl
@[simp] theorem advance_cores (s : State) : s.advance.cores = s.cores := rfl
@[simp] theorem advance_ctxs (s : State) : s.advance.ctxs = s.ctxs := rfl
@[simp] theorem advance_launches (s : State) : s.advance.launches = s.launches := rfl
@[simp] theorem advance_nextLaunch (s : State) : s.advance.nextLaunch = s.nextLaunch := rfl
@[simp] theorem advance_parkedCw (s : State) : s.advance.parkedCw = s.parkedCw := rfl
@[simp] theorem advance_mem (s : State) : s.advance.mem = s.mem := rfl
@[simp] theorem advance_l2 (s : State) : s.advance.l2 = s.l2 := rfl
@[simp] theorem advance_posted (s : State) : s.advance.posted = s.posted := rfl
@[simp] theorem advance_hostMem (s : State) : s.advance.hostMem = s.hostMem := rfl
@[simp] theorem advance_poison (s : State) : s.advance.poison = s.poison := rfl
@[simp] theorem advance_l2Poison (s : State) : s.advance.l2Poison = s.l2Poison := rfl
@[simp] theorem advance_broken (s : State) : s.advance.broken = s.broken := rfl
@[simp] theorem advance_grain (s : State) : s.advance.grain = s.grain := rfl
@[simp] theorem advance_time (s : State) : s.advance.time = s.time := rfl
@[simp] theorem advance_boot (s : State) : s.advance.boot = s.boot := rfl
@[simp] theorem advance_mgmt (s : State) : s.advance.mgmt = s.mgmt := rfl
@[simp] theorem advance_hamlets (s : State) : s.advance.hamlets = s.hamlets := rfl
@[simp] theorem advance_dieLogs (s : State) : s.advance.dieLogs = s.dieLogs := rfl
@[simp] theorem advance_regions (s : State) : s.advance.regions = s.regions := rfl
@[simp] theorem advance_hqs (s : State) : s.advance.hqs = s.hqs := rfl
@[simp] theorem advance_ports (s : State) : s.advance.ports = s.ports := rfl
@[simp] theorem advance_peers (s : State) : s.advance.peers = s.peers := rfl
@[simp] theorem advance_hostOut (s : State) : s.advance.hostOut = s.hostOut := rfl
@[simp] theorem advance_free (s : State) : s.advance.free = s.free := rfl
@[simp] theorem advance_turn (s : State) : s.advance.turn = s.turn := rfl
@[simp] theorem advance_agenda (s : State) : s.advance.agenda = s.agenda := rfl
@[simp] theorem advance_hart_uid (s : State) : s.advance.hart.uid = s.hart.uid := rfl
@[simp] theorem advance_hart_ctx (s : State) : s.advance.hart.ctx = s.hart.ctx := rfl
@[simp] theorem advance_hart_core (s : State) : s.advance.hart.core = s.hart.core := rfl
@[simp] theorem advance_hart_status (s : State) : s.advance.hart.status = s.hart.status := rfl
@[simp] theorem advance_hart_x (s : State) : s.advance.hart.x = s.hart.x := rfl
@[simp] theorem advance_hart_f (s : State) : s.advance.hart.f = s.hart.f := rfl
@[simp] theorem advance_hart_k (s : State) : s.advance.hart.k = s.hart.k := rfl
@[simp] theorem advance_hart_v (s : State) : s.advance.hart.v = s.hart.v := rfl
@[simp] theorem advance_hart_sq (s : State) : s.advance.hart.sq = s.hart.sq := rfl
@[simp] theorem advance_hart_csr (s : State) : s.advance.hart.csr = s.hart.csr := rfl
@[simp] theorem advance_hart_trap (s : State) : s.advance.hart.trap = s.hart.trap := rfl
@[simp] theorem advance_hart_bounds (s : State) : s.advance.hart.bounds = s.hart.bounds := rfl
@[simp] theorem advance_hart_grant (s : State) : s.advance.hart.grant = s.hart.grant := rfl
@[simp] theorem advance_hart_acc (s : State) : s.advance.hart.acc = s.hart.acc := rfl
@[simp] theorem advance_hart_queue (s : State) : s.advance.hart.queue = s.hart.queue := rfl
@[simp] theorem advance_hart_qwait (s : State) : s.advance.hart.qwait = s.hart.qwait := rfl
@[simp] theorem advance_hart_replay (s : State) : s.advance.hart.replay = s.hart.replay := rfl
@[simp] theorem advance_hart_copyq (s : State) : s.advance.hart.copyq = s.hart.copyq := rfl
@[simp] theorem advance_hart_scr (s : State) : s.advance.hart.scr = s.hart.scr := rfl
@[simp] theorem advance_hart_scrBad (s : State) : s.advance.hart.scrBad = s.hart.scrBad := rfl
@[simp] theorem advance_hart_wait (s : State) : s.advance.hart.wait = s.hart.wait := rfl
@[simp] theorem advance_hart_entry (s : State) : s.advance.hart.entry = s.hart.entry := rfl
@[simp] theorem advance_hart_tlb (s : State) : s.advance.hart.tlb = s.hart.tlb := rfl
@[simp] theorem advance_hart_l0 (s : State) : s.advance.hart.l0 = s.hart.l0 := rfl
@[simp] theorem advance_hart_lag (s : State) : s.advance.hart.lag = s.hart.lag := rfl
@[simp] theorem advance_hart_pending (s : State) : s.advance.hart.pending = s.hart.pending := rfl
@[simp] theorem advance_hart_trouble (s : State) : s.advance.hart.trouble = s.hart.trouble := rfl

@[simp] theorem jump_others (s : State) (pc : Word) : (s.jump pc).others = s.others := rfl
@[simp] theorem jump_cores (s : State) (pc : Word) : (s.jump pc).cores = s.cores := rfl
@[simp] theorem jump_ctxs (s : State) (pc : Word) : (s.jump pc).ctxs = s.ctxs := rfl
@[simp] theorem jump_launches (s : State) (pc : Word) : (s.jump pc).launches = s.launches := rfl
@[simp] theorem jump_nextLaunch (s : State) (pc : Word) : (s.jump pc).nextLaunch = s.nextLaunch := rfl
@[simp] theorem jump_parkedCw (s : State) (pc : Word) : (s.jump pc).parkedCw = s.parkedCw := rfl
@[simp] theorem jump_mem (s : State) (pc : Word) : (s.jump pc).mem = s.mem := rfl
@[simp] theorem jump_l2 (s : State) (pc : Word) : (s.jump pc).l2 = s.l2 := rfl
@[simp] theorem jump_posted (s : State) (pc : Word) : (s.jump pc).posted = s.posted := rfl
@[simp] theorem jump_hostMem (s : State) (pc : Word) : (s.jump pc).hostMem = s.hostMem := rfl
@[simp] theorem jump_poison (s : State) (pc : Word) : (s.jump pc).poison = s.poison := rfl
@[simp] theorem jump_l2Poison (s : State) (pc : Word) : (s.jump pc).l2Poison = s.l2Poison := rfl
@[simp] theorem jump_broken (s : State) (pc : Word) : (s.jump pc).broken = s.broken := rfl
@[simp] theorem jump_grain (s : State) (pc : Word) : (s.jump pc).grain = s.grain := rfl
@[simp] theorem jump_time (s : State) (pc : Word) : (s.jump pc).time = s.time := rfl
@[simp] theorem jump_boot (s : State) (pc : Word) : (s.jump pc).boot = s.boot := rfl
@[simp] theorem jump_mgmt (s : State) (pc : Word) : (s.jump pc).mgmt = s.mgmt := rfl
@[simp] theorem jump_hamlets (s : State) (pc : Word) : (s.jump pc).hamlets = s.hamlets := rfl
@[simp] theorem jump_dieLogs (s : State) (pc : Word) : (s.jump pc).dieLogs = s.dieLogs := rfl
@[simp] theorem jump_regions (s : State) (pc : Word) : (s.jump pc).regions = s.regions := rfl
@[simp] theorem jump_hqs (s : State) (pc : Word) : (s.jump pc).hqs = s.hqs := rfl
@[simp] theorem jump_ports (s : State) (pc : Word) : (s.jump pc).ports = s.ports := rfl
@[simp] theorem jump_peers (s : State) (pc : Word) : (s.jump pc).peers = s.peers := rfl
@[simp] theorem jump_hostOut (s : State) (pc : Word) : (s.jump pc).hostOut = s.hostOut := rfl
@[simp] theorem jump_free (s : State) (pc : Word) : (s.jump pc).free = s.free := rfl
@[simp] theorem jump_turn (s : State) (pc : Word) : (s.jump pc).turn = s.turn := rfl
@[simp] theorem jump_agenda (s : State) (pc : Word) : (s.jump pc).agenda = s.agenda := rfl
@[simp] theorem jump_hart_uid (s : State) (pc : Word) : (s.jump pc).hart.uid = s.hart.uid := rfl
@[simp] theorem jump_hart_ctx (s : State) (pc : Word) : (s.jump pc).hart.ctx = s.hart.ctx := rfl
@[simp] theorem jump_hart_core (s : State) (pc : Word) : (s.jump pc).hart.core = s.hart.core := rfl
@[simp] theorem jump_hart_status (s : State) (pc : Word) : (s.jump pc).hart.status = s.hart.status := rfl
@[simp] theorem jump_hart_x (s : State) (pc : Word) : (s.jump pc).hart.x = s.hart.x := rfl
@[simp] theorem jump_hart_f (s : State) (pc : Word) : (s.jump pc).hart.f = s.hart.f := rfl
@[simp] theorem jump_hart_k (s : State) (pc : Word) : (s.jump pc).hart.k = s.hart.k := rfl
@[simp] theorem jump_hart_v (s : State) (pc : Word) : (s.jump pc).hart.v = s.hart.v := rfl
@[simp] theorem jump_hart_sq (s : State) (pc : Word) : (s.jump pc).hart.sq = s.hart.sq := rfl
@[simp] theorem jump_hart_csr (s : State) (pc : Word) : (s.jump pc).hart.csr = s.hart.csr := rfl
@[simp] theorem jump_hart_trap (s : State) (pc : Word) : (s.jump pc).hart.trap = s.hart.trap := rfl
@[simp] theorem jump_hart_bounds (s : State) (pc : Word) : (s.jump pc).hart.bounds = s.hart.bounds := rfl
@[simp] theorem jump_hart_grant (s : State) (pc : Word) : (s.jump pc).hart.grant = s.hart.grant := rfl
@[simp] theorem jump_hart_acc (s : State) (pc : Word) : (s.jump pc).hart.acc = s.hart.acc := rfl
@[simp] theorem jump_hart_queue (s : State) (pc : Word) : (s.jump pc).hart.queue = s.hart.queue := rfl
@[simp] theorem jump_hart_qwait (s : State) (pc : Word) : (s.jump pc).hart.qwait = s.hart.qwait := rfl
@[simp] theorem jump_hart_replay (s : State) (pc : Word) : (s.jump pc).hart.replay = s.hart.replay := rfl
@[simp] theorem jump_hart_copyq (s : State) (pc : Word) : (s.jump pc).hart.copyq = s.hart.copyq := rfl
@[simp] theorem jump_hart_scr (s : State) (pc : Word) : (s.jump pc).hart.scr = s.hart.scr := rfl
@[simp] theorem jump_hart_scrBad (s : State) (pc : Word) : (s.jump pc).hart.scrBad = s.hart.scrBad := rfl
@[simp] theorem jump_hart_wait (s : State) (pc : Word) : (s.jump pc).hart.wait = s.hart.wait := rfl
@[simp] theorem jump_hart_entry (s : State) (pc : Word) : (s.jump pc).hart.entry = s.hart.entry := rfl
@[simp] theorem jump_hart_tlb (s : State) (pc : Word) : (s.jump pc).hart.tlb = s.hart.tlb := rfl
@[simp] theorem jump_hart_l0 (s : State) (pc : Word) : (s.jump pc).hart.l0 = s.hart.l0 := rfl
@[simp] theorem jump_hart_lag (s : State) (pc : Word) : (s.jump pc).hart.lag = s.hart.lag := rfl
@[simp] theorem jump_hart_pending (s : State) (pc : Word) : (s.jump pc).hart.pending = s.hart.pending := rfl
@[simp] theorem jump_hart_trouble (s : State) (pc : Word) : (s.jump pc).hart.trouble = s.hart.trouble := rfl

@[simp] theorem setWait_others (s : State) (w : Wait) : (s.setWait w).others = s.others := rfl
@[simp] theorem setWait_cores (s : State) (w : Wait) : (s.setWait w).cores = s.cores := rfl
@[simp] theorem setWait_ctxs (s : State) (w : Wait) : (s.setWait w).ctxs = s.ctxs := rfl
@[simp] theorem setWait_launches (s : State) (w : Wait) : (s.setWait w).launches = s.launches := rfl
@[simp] theorem setWait_nextLaunch (s : State) (w : Wait) : (s.setWait w).nextLaunch = s.nextLaunch := rfl
@[simp] theorem setWait_parkedCw (s : State) (w : Wait) : (s.setWait w).parkedCw = s.parkedCw := rfl
@[simp] theorem setWait_mem (s : State) (w : Wait) : (s.setWait w).mem = s.mem := rfl
@[simp] theorem setWait_l2 (s : State) (w : Wait) : (s.setWait w).l2 = s.l2 := rfl
@[simp] theorem setWait_posted (s : State) (w : Wait) : (s.setWait w).posted = s.posted := rfl
@[simp] theorem setWait_hostMem (s : State) (w : Wait) : (s.setWait w).hostMem = s.hostMem := rfl
@[simp] theorem setWait_poison (s : State) (w : Wait) : (s.setWait w).poison = s.poison := rfl
@[simp] theorem setWait_l2Poison (s : State) (w : Wait) : (s.setWait w).l2Poison = s.l2Poison := rfl
@[simp] theorem setWait_broken (s : State) (w : Wait) : (s.setWait w).broken = s.broken := rfl
@[simp] theorem setWait_grain (s : State) (w : Wait) : (s.setWait w).grain = s.grain := rfl
@[simp] theorem setWait_time (s : State) (w : Wait) : (s.setWait w).time = s.time := rfl
@[simp] theorem setWait_boot (s : State) (w : Wait) : (s.setWait w).boot = s.boot := rfl
@[simp] theorem setWait_mgmt (s : State) (w : Wait) : (s.setWait w).mgmt = s.mgmt := rfl
@[simp] theorem setWait_hamlets (s : State) (w : Wait) : (s.setWait w).hamlets = s.hamlets := rfl
@[simp] theorem setWait_dieLogs (s : State) (w : Wait) : (s.setWait w).dieLogs = s.dieLogs := rfl
@[simp] theorem setWait_regions (s : State) (w : Wait) : (s.setWait w).regions = s.regions := rfl
@[simp] theorem setWait_hqs (s : State) (w : Wait) : (s.setWait w).hqs = s.hqs := rfl
@[simp] theorem setWait_ports (s : State) (w : Wait) : (s.setWait w).ports = s.ports := rfl
@[simp] theorem setWait_peers (s : State) (w : Wait) : (s.setWait w).peers = s.peers := rfl
@[simp] theorem setWait_hostOut (s : State) (w : Wait) : (s.setWait w).hostOut = s.hostOut := rfl
@[simp] theorem setWait_free (s : State) (w : Wait) : (s.setWait w).free = s.free := rfl
@[simp] theorem setWait_turn (s : State) (w : Wait) : (s.setWait w).turn = s.turn := rfl
@[simp] theorem setWait_agenda (s : State) (w : Wait) : (s.setWait w).agenda = s.agenda := rfl
@[simp] theorem setWait_hart_uid (s : State) (w : Wait) : (s.setWait w).hart.uid = s.hart.uid := rfl
@[simp] theorem setWait_hart_ctx (s : State) (w : Wait) : (s.setWait w).hart.ctx = s.hart.ctx := rfl
@[simp] theorem setWait_hart_core (s : State) (w : Wait) : (s.setWait w).hart.core = s.hart.core := rfl
@[simp] theorem setWait_hart_status (s : State) (w : Wait) : (s.setWait w).hart.status = s.hart.status := rfl
@[simp] theorem setWait_hart_pc (s : State) (w : Wait) : (s.setWait w).hart.pc = s.hart.pc := rfl
@[simp] theorem setWait_hart_x (s : State) (w : Wait) : (s.setWait w).hart.x = s.hart.x := rfl
@[simp] theorem setWait_hart_f (s : State) (w : Wait) : (s.setWait w).hart.f = s.hart.f := rfl
@[simp] theorem setWait_hart_k (s : State) (w : Wait) : (s.setWait w).hart.k = s.hart.k := rfl
@[simp] theorem setWait_hart_v (s : State) (w : Wait) : (s.setWait w).hart.v = s.hart.v := rfl
@[simp] theorem setWait_hart_sq (s : State) (w : Wait) : (s.setWait w).hart.sq = s.hart.sq := rfl
@[simp] theorem setWait_hart_csr (s : State) (w : Wait) : (s.setWait w).hart.csr = s.hart.csr := rfl
@[simp] theorem setWait_hart_trap (s : State) (w : Wait) : (s.setWait w).hart.trap = s.hart.trap := rfl
@[simp] theorem setWait_hart_bounds (s : State) (w : Wait) : (s.setWait w).hart.bounds = s.hart.bounds := rfl
@[simp] theorem setWait_hart_grant (s : State) (w : Wait) : (s.setWait w).hart.grant = s.hart.grant := rfl
@[simp] theorem setWait_hart_acc (s : State) (w : Wait) : (s.setWait w).hart.acc = s.hart.acc := rfl
@[simp] theorem setWait_hart_queue (s : State) (w : Wait) : (s.setWait w).hart.queue = s.hart.queue := rfl
@[simp] theorem setWait_hart_qwait (s : State) (w : Wait) : (s.setWait w).hart.qwait = s.hart.qwait := rfl
@[simp] theorem setWait_hart_replay (s : State) (w : Wait) : (s.setWait w).hart.replay = s.hart.replay := rfl
@[simp] theorem setWait_hart_copyq (s : State) (w : Wait) : (s.setWait w).hart.copyq = s.hart.copyq := rfl
@[simp] theorem setWait_hart_scr (s : State) (w : Wait) : (s.setWait w).hart.scr = s.hart.scr := rfl
@[simp] theorem setWait_hart_scrBad (s : State) (w : Wait) : (s.setWait w).hart.scrBad = s.hart.scrBad := rfl
@[simp] theorem setWait_hart_entry (s : State) (w : Wait) : (s.setWait w).hart.entry = s.hart.entry := rfl
@[simp] theorem setWait_hart_tlb (s : State) (w : Wait) : (s.setWait w).hart.tlb = s.hart.tlb := rfl
@[simp] theorem setWait_hart_l0 (s : State) (w : Wait) : (s.setWait w).hart.l0 = s.hart.l0 := rfl
@[simp] theorem setWait_hart_lag (s : State) (w : Wait) : (s.setWait w).hart.lag = s.hart.lag := rfl
@[simp] theorem setWait_hart_pending (s : State) (w : Wait) : (s.setWait w).hart.pending = s.hart.pending := rfl
@[simp] theorem setWait_hart_trouble (s : State) (w : Wait) : (s.setWait w).hart.trouble = s.hart.trouble := rfl

@[simp] theorem setCsr_others (s : State) (c : Csr) : (s.setCsr c).others = s.others := rfl
@[simp] theorem setCsr_cores (s : State) (c : Csr) : (s.setCsr c).cores = s.cores := rfl
@[simp] theorem setCsr_ctxs (s : State) (c : Csr) : (s.setCsr c).ctxs = s.ctxs := rfl
@[simp] theorem setCsr_launches (s : State) (c : Csr) : (s.setCsr c).launches = s.launches := rfl
@[simp] theorem setCsr_nextLaunch (s : State) (c : Csr) : (s.setCsr c).nextLaunch = s.nextLaunch := rfl
@[simp] theorem setCsr_parkedCw (s : State) (c : Csr) : (s.setCsr c).parkedCw = s.parkedCw := rfl
@[simp] theorem setCsr_mem (s : State) (c : Csr) : (s.setCsr c).mem = s.mem := rfl
@[simp] theorem setCsr_l2 (s : State) (c : Csr) : (s.setCsr c).l2 = s.l2 := rfl
@[simp] theorem setCsr_posted (s : State) (c : Csr) : (s.setCsr c).posted = s.posted := rfl
@[simp] theorem setCsr_hostMem (s : State) (c : Csr) : (s.setCsr c).hostMem = s.hostMem := rfl
@[simp] theorem setCsr_poison (s : State) (c : Csr) : (s.setCsr c).poison = s.poison := rfl
@[simp] theorem setCsr_l2Poison (s : State) (c : Csr) : (s.setCsr c).l2Poison = s.l2Poison := rfl
@[simp] theorem setCsr_broken (s : State) (c : Csr) : (s.setCsr c).broken = s.broken := rfl
@[simp] theorem setCsr_grain (s : State) (c : Csr) : (s.setCsr c).grain = s.grain := rfl
@[simp] theorem setCsr_time (s : State) (c : Csr) : (s.setCsr c).time = s.time := rfl
@[simp] theorem setCsr_boot (s : State) (c : Csr) : (s.setCsr c).boot = s.boot := rfl
@[simp] theorem setCsr_mgmt (s : State) (c : Csr) : (s.setCsr c).mgmt = s.mgmt := rfl
@[simp] theorem setCsr_hamlets (s : State) (c : Csr) : (s.setCsr c).hamlets = s.hamlets := rfl
@[simp] theorem setCsr_dieLogs (s : State) (c : Csr) : (s.setCsr c).dieLogs = s.dieLogs := rfl
@[simp] theorem setCsr_regions (s : State) (c : Csr) : (s.setCsr c).regions = s.regions := rfl
@[simp] theorem setCsr_hqs (s : State) (c : Csr) : (s.setCsr c).hqs = s.hqs := rfl
@[simp] theorem setCsr_ports (s : State) (c : Csr) : (s.setCsr c).ports = s.ports := rfl
@[simp] theorem setCsr_peers (s : State) (c : Csr) : (s.setCsr c).peers = s.peers := rfl
@[simp] theorem setCsr_hostOut (s : State) (c : Csr) : (s.setCsr c).hostOut = s.hostOut := rfl
@[simp] theorem setCsr_free (s : State) (c : Csr) : (s.setCsr c).free = s.free := rfl
@[simp] theorem setCsr_turn (s : State) (c : Csr) : (s.setCsr c).turn = s.turn := rfl
@[simp] theorem setCsr_agenda (s : State) (c : Csr) : (s.setCsr c).agenda = s.agenda := rfl
@[simp] theorem setCsr_hart_uid (s : State) (c : Csr) : (s.setCsr c).hart.uid = s.hart.uid := rfl
@[simp] theorem setCsr_hart_ctx (s : State) (c : Csr) : (s.setCsr c).hart.ctx = s.hart.ctx := rfl
@[simp] theorem setCsr_hart_core (s : State) (c : Csr) : (s.setCsr c).hart.core = s.hart.core := rfl
@[simp] theorem setCsr_hart_status (s : State) (c : Csr) : (s.setCsr c).hart.status = s.hart.status := rfl
@[simp] theorem setCsr_hart_pc (s : State) (c : Csr) : (s.setCsr c).hart.pc = s.hart.pc := rfl
@[simp] theorem setCsr_hart_x (s : State) (c : Csr) : (s.setCsr c).hart.x = s.hart.x := rfl
@[simp] theorem setCsr_hart_f (s : State) (c : Csr) : (s.setCsr c).hart.f = s.hart.f := rfl
@[simp] theorem setCsr_hart_k (s : State) (c : Csr) : (s.setCsr c).hart.k = s.hart.k := rfl
@[simp] theorem setCsr_hart_v (s : State) (c : Csr) : (s.setCsr c).hart.v = s.hart.v := rfl
@[simp] theorem setCsr_hart_sq (s : State) (c : Csr) : (s.setCsr c).hart.sq = s.hart.sq := rfl
@[simp] theorem setCsr_hart_trap (s : State) (c : Csr) : (s.setCsr c).hart.trap = s.hart.trap := rfl
@[simp] theorem setCsr_hart_bounds (s : State) (c : Csr) : (s.setCsr c).hart.bounds = s.hart.bounds := rfl
@[simp] theorem setCsr_hart_grant (s : State) (c : Csr) : (s.setCsr c).hart.grant = s.hart.grant := rfl
@[simp] theorem setCsr_hart_acc (s : State) (c : Csr) : (s.setCsr c).hart.acc = s.hart.acc := rfl
@[simp] theorem setCsr_hart_queue (s : State) (c : Csr) : (s.setCsr c).hart.queue = s.hart.queue := rfl
@[simp] theorem setCsr_hart_qwait (s : State) (c : Csr) : (s.setCsr c).hart.qwait = s.hart.qwait := rfl
@[simp] theorem setCsr_hart_replay (s : State) (c : Csr) : (s.setCsr c).hart.replay = s.hart.replay := rfl
@[simp] theorem setCsr_hart_copyq (s : State) (c : Csr) : (s.setCsr c).hart.copyq = s.hart.copyq := rfl
@[simp] theorem setCsr_hart_scr (s : State) (c : Csr) : (s.setCsr c).hart.scr = s.hart.scr := rfl
@[simp] theorem setCsr_hart_scrBad (s : State) (c : Csr) : (s.setCsr c).hart.scrBad = s.hart.scrBad := rfl
@[simp] theorem setCsr_hart_wait (s : State) (c : Csr) : (s.setCsr c).hart.wait = s.hart.wait := rfl
@[simp] theorem setCsr_hart_entry (s : State) (c : Csr) : (s.setCsr c).hart.entry = s.hart.entry := rfl
@[simp] theorem setCsr_hart_tlb (s : State) (c : Csr) : (s.setCsr c).hart.tlb = s.hart.tlb := rfl
@[simp] theorem setCsr_hart_l0 (s : State) (c : Csr) : (s.setCsr c).hart.l0 = s.hart.l0 := rfl
@[simp] theorem setCsr_hart_lag (s : State) (c : Csr) : (s.setCsr c).hart.lag = s.hart.lag := rfl
@[simp] theorem setCsr_hart_pending (s : State) (c : Csr) : (s.setCsr c).hart.pending = s.hart.pending := rfl
@[simp] theorem setCsr_hart_trouble (s : State) (c : Csr) : (s.setCsr c).hart.trouble = s.hart.trouble := rfl

@[simp] theorem setTrap_others (s : State) (t : TrapRegs) : (s.setTrap t).others = s.others := rfl
@[simp] theorem setTrap_cores (s : State) (t : TrapRegs) : (s.setTrap t).cores = s.cores := rfl
@[simp] theorem setTrap_ctxs (s : State) (t : TrapRegs) : (s.setTrap t).ctxs = s.ctxs := rfl
@[simp] theorem setTrap_launches (s : State) (t : TrapRegs) : (s.setTrap t).launches = s.launches := rfl
@[simp] theorem setTrap_nextLaunch (s : State) (t : TrapRegs) : (s.setTrap t).nextLaunch = s.nextLaunch := rfl
@[simp] theorem setTrap_parkedCw (s : State) (t : TrapRegs) : (s.setTrap t).parkedCw = s.parkedCw := rfl
@[simp] theorem setTrap_mem (s : State) (t : TrapRegs) : (s.setTrap t).mem = s.mem := rfl
@[simp] theorem setTrap_l2 (s : State) (t : TrapRegs) : (s.setTrap t).l2 = s.l2 := rfl
@[simp] theorem setTrap_posted (s : State) (t : TrapRegs) : (s.setTrap t).posted = s.posted := rfl
@[simp] theorem setTrap_hostMem (s : State) (t : TrapRegs) : (s.setTrap t).hostMem = s.hostMem := rfl
@[simp] theorem setTrap_poison (s : State) (t : TrapRegs) : (s.setTrap t).poison = s.poison := rfl
@[simp] theorem setTrap_l2Poison (s : State) (t : TrapRegs) : (s.setTrap t).l2Poison = s.l2Poison := rfl
@[simp] theorem setTrap_broken (s : State) (t : TrapRegs) : (s.setTrap t).broken = s.broken := rfl
@[simp] theorem setTrap_grain (s : State) (t : TrapRegs) : (s.setTrap t).grain = s.grain := rfl
@[simp] theorem setTrap_time (s : State) (t : TrapRegs) : (s.setTrap t).time = s.time := rfl
@[simp] theorem setTrap_boot (s : State) (t : TrapRegs) : (s.setTrap t).boot = s.boot := rfl
@[simp] theorem setTrap_mgmt (s : State) (t : TrapRegs) : (s.setTrap t).mgmt = s.mgmt := rfl
@[simp] theorem setTrap_hamlets (s : State) (t : TrapRegs) : (s.setTrap t).hamlets = s.hamlets := rfl
@[simp] theorem setTrap_dieLogs (s : State) (t : TrapRegs) : (s.setTrap t).dieLogs = s.dieLogs := rfl
@[simp] theorem setTrap_regions (s : State) (t : TrapRegs) : (s.setTrap t).regions = s.regions := rfl
@[simp] theorem setTrap_hqs (s : State) (t : TrapRegs) : (s.setTrap t).hqs = s.hqs := rfl
@[simp] theorem setTrap_ports (s : State) (t : TrapRegs) : (s.setTrap t).ports = s.ports := rfl
@[simp] theorem setTrap_peers (s : State) (t : TrapRegs) : (s.setTrap t).peers = s.peers := rfl
@[simp] theorem setTrap_hostOut (s : State) (t : TrapRegs) : (s.setTrap t).hostOut = s.hostOut := rfl
@[simp] theorem setTrap_free (s : State) (t : TrapRegs) : (s.setTrap t).free = s.free := rfl
@[simp] theorem setTrap_turn (s : State) (t : TrapRegs) : (s.setTrap t).turn = s.turn := rfl
@[simp] theorem setTrap_agenda (s : State) (t : TrapRegs) : (s.setTrap t).agenda = s.agenda := rfl
@[simp] theorem setTrap_hart_uid (s : State) (t : TrapRegs) : (s.setTrap t).hart.uid = s.hart.uid := rfl
@[simp] theorem setTrap_hart_ctx (s : State) (t : TrapRegs) : (s.setTrap t).hart.ctx = s.hart.ctx := rfl
@[simp] theorem setTrap_hart_core (s : State) (t : TrapRegs) : (s.setTrap t).hart.core = s.hart.core := rfl
@[simp] theorem setTrap_hart_status (s : State) (t : TrapRegs) : (s.setTrap t).hart.status = s.hart.status := rfl
@[simp] theorem setTrap_hart_pc (s : State) (t : TrapRegs) : (s.setTrap t).hart.pc = s.hart.pc := rfl
@[simp] theorem setTrap_hart_x (s : State) (t : TrapRegs) : (s.setTrap t).hart.x = s.hart.x := rfl
@[simp] theorem setTrap_hart_f (s : State) (t : TrapRegs) : (s.setTrap t).hart.f = s.hart.f := rfl
@[simp] theorem setTrap_hart_k (s : State) (t : TrapRegs) : (s.setTrap t).hart.k = s.hart.k := rfl
@[simp] theorem setTrap_hart_v (s : State) (t : TrapRegs) : (s.setTrap t).hart.v = s.hart.v := rfl
@[simp] theorem setTrap_hart_sq (s : State) (t : TrapRegs) : (s.setTrap t).hart.sq = s.hart.sq := rfl
@[simp] theorem setTrap_hart_csr (s : State) (t : TrapRegs) : (s.setTrap t).hart.csr = s.hart.csr := rfl
@[simp] theorem setTrap_hart_bounds (s : State) (t : TrapRegs) : (s.setTrap t).hart.bounds = s.hart.bounds := rfl
@[simp] theorem setTrap_hart_grant (s : State) (t : TrapRegs) : (s.setTrap t).hart.grant = s.hart.grant := rfl
@[simp] theorem setTrap_hart_acc (s : State) (t : TrapRegs) : (s.setTrap t).hart.acc = s.hart.acc := rfl
@[simp] theorem setTrap_hart_queue (s : State) (t : TrapRegs) : (s.setTrap t).hart.queue = s.hart.queue := rfl
@[simp] theorem setTrap_hart_qwait (s : State) (t : TrapRegs) : (s.setTrap t).hart.qwait = s.hart.qwait := rfl
@[simp] theorem setTrap_hart_replay (s : State) (t : TrapRegs) : (s.setTrap t).hart.replay = s.hart.replay := rfl
@[simp] theorem setTrap_hart_copyq (s : State) (t : TrapRegs) : (s.setTrap t).hart.copyq = s.hart.copyq := rfl
@[simp] theorem setTrap_hart_scr (s : State) (t : TrapRegs) : (s.setTrap t).hart.scr = s.hart.scr := rfl
@[simp] theorem setTrap_hart_scrBad (s : State) (t : TrapRegs) : (s.setTrap t).hart.scrBad = s.hart.scrBad := rfl
@[simp] theorem setTrap_hart_wait (s : State) (t : TrapRegs) : (s.setTrap t).hart.wait = s.hart.wait := rfl
@[simp] theorem setTrap_hart_entry (s : State) (t : TrapRegs) : (s.setTrap t).hart.entry = s.hart.entry := rfl
@[simp] theorem setTrap_hart_tlb (s : State) (t : TrapRegs) : (s.setTrap t).hart.tlb = s.hart.tlb := rfl
@[simp] theorem setTrap_hart_l0 (s : State) (t : TrapRegs) : (s.setTrap t).hart.l0 = s.hart.l0 := rfl
@[simp] theorem setTrap_hart_lag (s : State) (t : TrapRegs) : (s.setTrap t).hart.lag = s.hart.lag := rfl
@[simp] theorem setTrap_hart_pending (s : State) (t : TrapRegs) : (s.setTrap t).hart.pending = s.hart.pending := rfl
@[simp] theorem setTrap_hart_trouble (s : State) (t : TrapRegs) : (s.setTrap t).hart.trouble = s.hart.trouble := rfl

@[simp] theorem raiseFlags_others (s : State) (fl : BitVec 8) : (s.raiseFlags fl).others = s.others := rfl
@[simp] theorem raiseFlags_cores (s : State) (fl : BitVec 8) : (s.raiseFlags fl).cores = s.cores := rfl
@[simp] theorem raiseFlags_ctxs (s : State) (fl : BitVec 8) : (s.raiseFlags fl).ctxs = s.ctxs := rfl
@[simp] theorem raiseFlags_launches (s : State) (fl : BitVec 8) : (s.raiseFlags fl).launches = s.launches := rfl
@[simp] theorem raiseFlags_nextLaunch (s : State) (fl : BitVec 8) : (s.raiseFlags fl).nextLaunch = s.nextLaunch := rfl
@[simp] theorem raiseFlags_parkedCw (s : State) (fl : BitVec 8) : (s.raiseFlags fl).parkedCw = s.parkedCw := rfl
@[simp] theorem raiseFlags_mem (s : State) (fl : BitVec 8) : (s.raiseFlags fl).mem = s.mem := rfl
@[simp] theorem raiseFlags_l2 (s : State) (fl : BitVec 8) : (s.raiseFlags fl).l2 = s.l2 := rfl
@[simp] theorem raiseFlags_posted (s : State) (fl : BitVec 8) : (s.raiseFlags fl).posted = s.posted := rfl
@[simp] theorem raiseFlags_hostMem (s : State) (fl : BitVec 8) : (s.raiseFlags fl).hostMem = s.hostMem := rfl
@[simp] theorem raiseFlags_poison (s : State) (fl : BitVec 8) : (s.raiseFlags fl).poison = s.poison := rfl
@[simp] theorem raiseFlags_l2Poison (s : State) (fl : BitVec 8) : (s.raiseFlags fl).l2Poison = s.l2Poison := rfl
@[simp] theorem raiseFlags_broken (s : State) (fl : BitVec 8) : (s.raiseFlags fl).broken = s.broken := rfl
@[simp] theorem raiseFlags_grain (s : State) (fl : BitVec 8) : (s.raiseFlags fl).grain = s.grain := rfl
@[simp] theorem raiseFlags_time (s : State) (fl : BitVec 8) : (s.raiseFlags fl).time = s.time := rfl
@[simp] theorem raiseFlags_boot (s : State) (fl : BitVec 8) : (s.raiseFlags fl).boot = s.boot := rfl
@[simp] theorem raiseFlags_mgmt (s : State) (fl : BitVec 8) : (s.raiseFlags fl).mgmt = s.mgmt := rfl
@[simp] theorem raiseFlags_hamlets (s : State) (fl : BitVec 8) : (s.raiseFlags fl).hamlets = s.hamlets := rfl
@[simp] theorem raiseFlags_dieLogs (s : State) (fl : BitVec 8) : (s.raiseFlags fl).dieLogs = s.dieLogs := rfl
@[simp] theorem raiseFlags_regions (s : State) (fl : BitVec 8) : (s.raiseFlags fl).regions = s.regions := rfl
@[simp] theorem raiseFlags_hqs (s : State) (fl : BitVec 8) : (s.raiseFlags fl).hqs = s.hqs := rfl
@[simp] theorem raiseFlags_ports (s : State) (fl : BitVec 8) : (s.raiseFlags fl).ports = s.ports := rfl
@[simp] theorem raiseFlags_peers (s : State) (fl : BitVec 8) : (s.raiseFlags fl).peers = s.peers := rfl
@[simp] theorem raiseFlags_hostOut (s : State) (fl : BitVec 8) : (s.raiseFlags fl).hostOut = s.hostOut := rfl
@[simp] theorem raiseFlags_free (s : State) (fl : BitVec 8) : (s.raiseFlags fl).free = s.free := rfl
@[simp] theorem raiseFlags_turn (s : State) (fl : BitVec 8) : (s.raiseFlags fl).turn = s.turn := rfl
@[simp] theorem raiseFlags_agenda (s : State) (fl : BitVec 8) : (s.raiseFlags fl).agenda = s.agenda := rfl
@[simp] theorem raiseFlags_hart_uid (s : State) (fl : BitVec 8) : (s.raiseFlags fl).hart.uid = s.hart.uid := rfl
@[simp] theorem raiseFlags_hart_ctx (s : State) (fl : BitVec 8) : (s.raiseFlags fl).hart.ctx = s.hart.ctx := rfl
@[simp] theorem raiseFlags_hart_core (s : State) (fl : BitVec 8) : (s.raiseFlags fl).hart.core = s.hart.core := rfl
@[simp] theorem raiseFlags_hart_status (s : State) (fl : BitVec 8) : (s.raiseFlags fl).hart.status = s.hart.status := rfl
@[simp] theorem raiseFlags_hart_pc (s : State) (fl : BitVec 8) : (s.raiseFlags fl).hart.pc = s.hart.pc := rfl
@[simp] theorem raiseFlags_hart_x (s : State) (fl : BitVec 8) : (s.raiseFlags fl).hart.x = s.hart.x := rfl
@[simp] theorem raiseFlags_hart_f (s : State) (fl : BitVec 8) : (s.raiseFlags fl).hart.f = s.hart.f := rfl
@[simp] theorem raiseFlags_hart_k (s : State) (fl : BitVec 8) : (s.raiseFlags fl).hart.k = s.hart.k := rfl
@[simp] theorem raiseFlags_hart_v (s : State) (fl : BitVec 8) : (s.raiseFlags fl).hart.v = s.hart.v := rfl
@[simp] theorem raiseFlags_hart_sq (s : State) (fl : BitVec 8) : (s.raiseFlags fl).hart.sq = s.hart.sq := rfl
@[simp] theorem raiseFlags_hart_trap (s : State) (fl : BitVec 8) : (s.raiseFlags fl).hart.trap = s.hart.trap := rfl
@[simp] theorem raiseFlags_hart_bounds (s : State) (fl : BitVec 8) : (s.raiseFlags fl).hart.bounds = s.hart.bounds := rfl
@[simp] theorem raiseFlags_hart_grant (s : State) (fl : BitVec 8) : (s.raiseFlags fl).hart.grant = s.hart.grant := rfl
@[simp] theorem raiseFlags_hart_acc (s : State) (fl : BitVec 8) : (s.raiseFlags fl).hart.acc = s.hart.acc := rfl
@[simp] theorem raiseFlags_hart_queue (s : State) (fl : BitVec 8) : (s.raiseFlags fl).hart.queue = s.hart.queue := rfl
@[simp] theorem raiseFlags_hart_qwait (s : State) (fl : BitVec 8) : (s.raiseFlags fl).hart.qwait = s.hart.qwait := rfl
@[simp] theorem raiseFlags_hart_replay (s : State) (fl : BitVec 8) : (s.raiseFlags fl).hart.replay = s.hart.replay := rfl
@[simp] theorem raiseFlags_hart_copyq (s : State) (fl : BitVec 8) : (s.raiseFlags fl).hart.copyq = s.hart.copyq := rfl
@[simp] theorem raiseFlags_hart_scr (s : State) (fl : BitVec 8) : (s.raiseFlags fl).hart.scr = s.hart.scr := rfl
@[simp] theorem raiseFlags_hart_scrBad (s : State) (fl : BitVec 8) : (s.raiseFlags fl).hart.scrBad = s.hart.scrBad := rfl
@[simp] theorem raiseFlags_hart_wait (s : State) (fl : BitVec 8) : (s.raiseFlags fl).hart.wait = s.hart.wait := rfl
@[simp] theorem raiseFlags_hart_entry (s : State) (fl : BitVec 8) : (s.raiseFlags fl).hart.entry = s.hart.entry := rfl
@[simp] theorem raiseFlags_hart_tlb (s : State) (fl : BitVec 8) : (s.raiseFlags fl).hart.tlb = s.hart.tlb := rfl
@[simp] theorem raiseFlags_hart_l0 (s : State) (fl : BitVec 8) : (s.raiseFlags fl).hart.l0 = s.hart.l0 := rfl
@[simp] theorem raiseFlags_hart_lag (s : State) (fl : BitVec 8) : (s.raiseFlags fl).hart.lag = s.hart.lag := rfl
@[simp] theorem raiseFlags_hart_pending (s : State) (fl : BitVec 8) : (s.raiseFlags fl).hart.pending = s.hart.pending := rfl
@[simp] theorem raiseFlags_hart_trouble (s : State) (fl : BitVec 8) : (s.raiseFlags fl).hart.trouble = s.hart.trouble := rfl

@[simp] theorem markDirty_others (s : State) (n : Nat) : (s.markDirty n).others = s.others := rfl
@[simp] theorem markDirty_cores (s : State) (n : Nat) : (s.markDirty n).cores = s.cores := rfl
@[simp] theorem markDirty_ctxs (s : State) (n : Nat) : (s.markDirty n).ctxs = s.ctxs := rfl
@[simp] theorem markDirty_launches (s : State) (n : Nat) : (s.markDirty n).launches = s.launches := rfl
@[simp] theorem markDirty_nextLaunch (s : State) (n : Nat) : (s.markDirty n).nextLaunch = s.nextLaunch := rfl
@[simp] theorem markDirty_parkedCw (s : State) (n : Nat) : (s.markDirty n).parkedCw = s.parkedCw := rfl
@[simp] theorem markDirty_mem (s : State) (n : Nat) : (s.markDirty n).mem = s.mem := rfl
@[simp] theorem markDirty_l2 (s : State) (n : Nat) : (s.markDirty n).l2 = s.l2 := rfl
@[simp] theorem markDirty_posted (s : State) (n : Nat) : (s.markDirty n).posted = s.posted := rfl
@[simp] theorem markDirty_hostMem (s : State) (n : Nat) : (s.markDirty n).hostMem = s.hostMem := rfl
@[simp] theorem markDirty_poison (s : State) (n : Nat) : (s.markDirty n).poison = s.poison := rfl
@[simp] theorem markDirty_l2Poison (s : State) (n : Nat) : (s.markDirty n).l2Poison = s.l2Poison := rfl
@[simp] theorem markDirty_broken (s : State) (n : Nat) : (s.markDirty n).broken = s.broken := rfl
@[simp] theorem markDirty_grain (s : State) (n : Nat) : (s.markDirty n).grain = s.grain := rfl
@[simp] theorem markDirty_time (s : State) (n : Nat) : (s.markDirty n).time = s.time := rfl
@[simp] theorem markDirty_boot (s : State) (n : Nat) : (s.markDirty n).boot = s.boot := rfl
@[simp] theorem markDirty_mgmt (s : State) (n : Nat) : (s.markDirty n).mgmt = s.mgmt := rfl
@[simp] theorem markDirty_hamlets (s : State) (n : Nat) : (s.markDirty n).hamlets = s.hamlets := rfl
@[simp] theorem markDirty_dieLogs (s : State) (n : Nat) : (s.markDirty n).dieLogs = s.dieLogs := rfl
@[simp] theorem markDirty_regions (s : State) (n : Nat) : (s.markDirty n).regions = s.regions := rfl
@[simp] theorem markDirty_hqs (s : State) (n : Nat) : (s.markDirty n).hqs = s.hqs := rfl
@[simp] theorem markDirty_ports (s : State) (n : Nat) : (s.markDirty n).ports = s.ports := rfl
@[simp] theorem markDirty_peers (s : State) (n : Nat) : (s.markDirty n).peers = s.peers := rfl
@[simp] theorem markDirty_hostOut (s : State) (n : Nat) : (s.markDirty n).hostOut = s.hostOut := rfl
@[simp] theorem markDirty_free (s : State) (n : Nat) : (s.markDirty n).free = s.free := rfl
@[simp] theorem markDirty_turn (s : State) (n : Nat) : (s.markDirty n).turn = s.turn := rfl
@[simp] theorem markDirty_agenda (s : State) (n : Nat) : (s.markDirty n).agenda = s.agenda := rfl
@[simp] theorem markDirty_hart_uid (s : State) (n : Nat) : (s.markDirty n).hart.uid = s.hart.uid := rfl
@[simp] theorem markDirty_hart_ctx (s : State) (n : Nat) : (s.markDirty n).hart.ctx = s.hart.ctx := rfl
@[simp] theorem markDirty_hart_core (s : State) (n : Nat) : (s.markDirty n).hart.core = s.hart.core := rfl
@[simp] theorem markDirty_hart_status (s : State) (n : Nat) : (s.markDirty n).hart.status = s.hart.status := rfl
@[simp] theorem markDirty_hart_pc (s : State) (n : Nat) : (s.markDirty n).hart.pc = s.hart.pc := rfl
@[simp] theorem markDirty_hart_x (s : State) (n : Nat) : (s.markDirty n).hart.x = s.hart.x := rfl
@[simp] theorem markDirty_hart_f (s : State) (n : Nat) : (s.markDirty n).hart.f = s.hart.f := rfl
@[simp] theorem markDirty_hart_k (s : State) (n : Nat) : (s.markDirty n).hart.k = s.hart.k := rfl
@[simp] theorem markDirty_hart_v (s : State) (n : Nat) : (s.markDirty n).hart.v = s.hart.v := rfl
@[simp] theorem markDirty_hart_sq (s : State) (n : Nat) : (s.markDirty n).hart.sq = s.hart.sq := rfl
@[simp] theorem markDirty_hart_csr (s : State) (n : Nat) : (s.markDirty n).hart.csr = s.hart.csr := rfl
@[simp] theorem markDirty_hart_trap (s : State) (n : Nat) : (s.markDirty n).hart.trap = s.hart.trap := rfl
@[simp] theorem markDirty_hart_bounds (s : State) (n : Nat) : (s.markDirty n).hart.bounds = s.hart.bounds := rfl
@[simp] theorem markDirty_hart_grant (s : State) (n : Nat) : (s.markDirty n).hart.grant = s.hart.grant := rfl
@[simp] theorem markDirty_hart_acc (s : State) (n : Nat) : (s.markDirty n).hart.acc = s.hart.acc := rfl
@[simp] theorem markDirty_hart_queue (s : State) (n : Nat) : (s.markDirty n).hart.queue = s.hart.queue := rfl
@[simp] theorem markDirty_hart_qwait (s : State) (n : Nat) : (s.markDirty n).hart.qwait = s.hart.qwait := rfl
@[simp] theorem markDirty_hart_replay (s : State) (n : Nat) : (s.markDirty n).hart.replay = s.hart.replay := rfl
@[simp] theorem markDirty_hart_copyq (s : State) (n : Nat) : (s.markDirty n).hart.copyq = s.hart.copyq := rfl
@[simp] theorem markDirty_hart_scr (s : State) (n : Nat) : (s.markDirty n).hart.scr = s.hart.scr := rfl
@[simp] theorem markDirty_hart_scrBad (s : State) (n : Nat) : (s.markDirty n).hart.scrBad = s.hart.scrBad := rfl
@[simp] theorem markDirty_hart_wait (s : State) (n : Nat) : (s.markDirty n).hart.wait = s.hart.wait := rfl
@[simp] theorem markDirty_hart_entry (s : State) (n : Nat) : (s.markDirty n).hart.entry = s.hart.entry := rfl
@[simp] theorem markDirty_hart_tlb (s : State) (n : Nat) : (s.markDirty n).hart.tlb = s.hart.tlb := rfl
@[simp] theorem markDirty_hart_l0 (s : State) (n : Nat) : (s.markDirty n).hart.l0 = s.hart.l0 := rfl
@[simp] theorem markDirty_hart_lag (s : State) (n : Nat) : (s.markDirty n).hart.lag = s.hart.lag := rfl
@[simp] theorem markDirty_hart_pending (s : State) (n : Nat) : (s.markDirty n).hart.pending = s.hart.pending := rfl
@[simp] theorem markDirty_hart_trouble (s : State) (n : Nat) : (s.markDirty n).hart.trouble = s.hart.trouble := rfl

@[simp] theorem bumpFree_hart (s : State) : s.bumpFree.hart = s.hart := rfl
@[simp] theorem bumpFree_others (s : State) : s.bumpFree.others = s.others := rfl
@[simp] theorem bumpFree_cores (s : State) : s.bumpFree.cores = s.cores := rfl
@[simp] theorem bumpFree_ctxs (s : State) : s.bumpFree.ctxs = s.ctxs := rfl
@[simp] theorem bumpFree_launches (s : State) : s.bumpFree.launches = s.launches := rfl
@[simp] theorem bumpFree_nextLaunch (s : State) : s.bumpFree.nextLaunch = s.nextLaunch := rfl
@[simp] theorem bumpFree_parkedCw (s : State) : s.bumpFree.parkedCw = s.parkedCw := rfl
@[simp] theorem bumpFree_mem (s : State) : s.bumpFree.mem = s.mem := rfl
@[simp] theorem bumpFree_l2 (s : State) : s.bumpFree.l2 = s.l2 := rfl
@[simp] theorem bumpFree_posted (s : State) : s.bumpFree.posted = s.posted := rfl
@[simp] theorem bumpFree_hostMem (s : State) : s.bumpFree.hostMem = s.hostMem := rfl
@[simp] theorem bumpFree_poison (s : State) : s.bumpFree.poison = s.poison := rfl
@[simp] theorem bumpFree_l2Poison (s : State) : s.bumpFree.l2Poison = s.l2Poison := rfl
@[simp] theorem bumpFree_broken (s : State) : s.bumpFree.broken = s.broken := rfl
@[simp] theorem bumpFree_grain (s : State) : s.bumpFree.grain = s.grain := rfl
@[simp] theorem bumpFree_time (s : State) : s.bumpFree.time = s.time := rfl
@[simp] theorem bumpFree_boot (s : State) : s.bumpFree.boot = s.boot := rfl
@[simp] theorem bumpFree_mgmt (s : State) : s.bumpFree.mgmt = s.mgmt := rfl
@[simp] theorem bumpFree_hamlets (s : State) : s.bumpFree.hamlets = s.hamlets := rfl
@[simp] theorem bumpFree_dieLogs (s : State) : s.bumpFree.dieLogs = s.dieLogs := rfl
@[simp] theorem bumpFree_regions (s : State) : s.bumpFree.regions = s.regions := rfl
@[simp] theorem bumpFree_hqs (s : State) : s.bumpFree.hqs = s.hqs := rfl
@[simp] theorem bumpFree_ports (s : State) : s.bumpFree.ports = s.ports := rfl
@[simp] theorem bumpFree_peers (s : State) : s.bumpFree.peers = s.peers := rfl
@[simp] theorem bumpFree_hostOut (s : State) : s.bumpFree.hostOut = s.hostOut := rfl
@[simp] theorem bumpFree_turn (s : State) : s.bumpFree.turn = s.turn := rfl
@[simp] theorem bumpFree_agenda (s : State) : s.bumpFree.agenda = s.agenda := rfl

@[simp] theorem setCore_hart (s : State) (c : Nat) (v : Core) : (s.setCore c v).hart = s.hart := rfl
@[simp] theorem setCore_others (s : State) (c : Nat) (v : Core) : (s.setCore c v).others = s.others := rfl
@[simp] theorem setCore_ctxs (s : State) (c : Nat) (v : Core) : (s.setCore c v).ctxs = s.ctxs := rfl
@[simp] theorem setCore_launches (s : State) (c : Nat) (v : Core) : (s.setCore c v).launches = s.launches := rfl
@[simp] theorem setCore_nextLaunch (s : State) (c : Nat) (v : Core) : (s.setCore c v).nextLaunch = s.nextLaunch := rfl
@[simp] theorem setCore_parkedCw (s : State) (c : Nat) (v : Core) : (s.setCore c v).parkedCw = s.parkedCw := rfl
@[simp] theorem setCore_mem (s : State) (c : Nat) (v : Core) : (s.setCore c v).mem = s.mem := rfl
@[simp] theorem setCore_l2 (s : State) (c : Nat) (v : Core) : (s.setCore c v).l2 = s.l2 := rfl
@[simp] theorem setCore_posted (s : State) (c : Nat) (v : Core) : (s.setCore c v).posted = s.posted := rfl
@[simp] theorem setCore_hostMem (s : State) (c : Nat) (v : Core) : (s.setCore c v).hostMem = s.hostMem := rfl
@[simp] theorem setCore_poison (s : State) (c : Nat) (v : Core) : (s.setCore c v).poison = s.poison := rfl
@[simp] theorem setCore_l2Poison (s : State) (c : Nat) (v : Core) : (s.setCore c v).l2Poison = s.l2Poison := rfl
@[simp] theorem setCore_broken (s : State) (c : Nat) (v : Core) : (s.setCore c v).broken = s.broken := rfl
@[simp] theorem setCore_grain (s : State) (c : Nat) (v : Core) : (s.setCore c v).grain = s.grain := rfl
@[simp] theorem setCore_time (s : State) (c : Nat) (v : Core) : (s.setCore c v).time = s.time := rfl
@[simp] theorem setCore_boot (s : State) (c : Nat) (v : Core) : (s.setCore c v).boot = s.boot := rfl
@[simp] theorem setCore_mgmt (s : State) (c : Nat) (v : Core) : (s.setCore c v).mgmt = s.mgmt := rfl
@[simp] theorem setCore_hamlets (s : State) (c : Nat) (v : Core) : (s.setCore c v).hamlets = s.hamlets := rfl
@[simp] theorem setCore_dieLogs (s : State) (c : Nat) (v : Core) : (s.setCore c v).dieLogs = s.dieLogs := rfl
@[simp] theorem setCore_regions (s : State) (c : Nat) (v : Core) : (s.setCore c v).regions = s.regions := rfl
@[simp] theorem setCore_hqs (s : State) (c : Nat) (v : Core) : (s.setCore c v).hqs = s.hqs := rfl
@[simp] theorem setCore_ports (s : State) (c : Nat) (v : Core) : (s.setCore c v).ports = s.ports := rfl
@[simp] theorem setCore_peers (s : State) (c : Nat) (v : Core) : (s.setCore c v).peers = s.peers := rfl
@[simp] theorem setCore_hostOut (s : State) (c : Nat) (v : Core) : (s.setCore c v).hostOut = s.hostOut := rfl
@[simp] theorem setCore_free (s : State) (c : Nat) (v : Core) : (s.setCore c v).free = s.free := rfl
@[simp] theorem setCore_turn (s : State) (c : Nat) (v : Core) : (s.setCore c v).turn = s.turn := rfl
@[simp] theorem setCore_agenda (s : State) (c : Nat) (v : Core) : (s.setCore c v).agenda = s.agenda := rfl

@[simp] theorem setCtx_hart (s : State) (c : Nat) (v : Ctx) : (s.setCtx c v).hart = s.hart := rfl
@[simp] theorem setCtx_others (s : State) (c : Nat) (v : Ctx) : (s.setCtx c v).others = s.others := rfl
@[simp] theorem setCtx_cores (s : State) (c : Nat) (v : Ctx) : (s.setCtx c v).cores = s.cores := rfl
@[simp] theorem setCtx_launches (s : State) (c : Nat) (v : Ctx) : (s.setCtx c v).launches = s.launches := rfl
@[simp] theorem setCtx_nextLaunch (s : State) (c : Nat) (v : Ctx) : (s.setCtx c v).nextLaunch = s.nextLaunch := rfl
@[simp] theorem setCtx_parkedCw (s : State) (c : Nat) (v : Ctx) : (s.setCtx c v).parkedCw = s.parkedCw := rfl
@[simp] theorem setCtx_mem (s : State) (c : Nat) (v : Ctx) : (s.setCtx c v).mem = s.mem := rfl
@[simp] theorem setCtx_l2 (s : State) (c : Nat) (v : Ctx) : (s.setCtx c v).l2 = s.l2 := rfl
@[simp] theorem setCtx_posted (s : State) (c : Nat) (v : Ctx) : (s.setCtx c v).posted = s.posted := rfl
@[simp] theorem setCtx_hostMem (s : State) (c : Nat) (v : Ctx) : (s.setCtx c v).hostMem = s.hostMem := rfl
@[simp] theorem setCtx_poison (s : State) (c : Nat) (v : Ctx) : (s.setCtx c v).poison = s.poison := rfl
@[simp] theorem setCtx_l2Poison (s : State) (c : Nat) (v : Ctx) : (s.setCtx c v).l2Poison = s.l2Poison := rfl
@[simp] theorem setCtx_broken (s : State) (c : Nat) (v : Ctx) : (s.setCtx c v).broken = s.broken := rfl
@[simp] theorem setCtx_grain (s : State) (c : Nat) (v : Ctx) : (s.setCtx c v).grain = s.grain := rfl
@[simp] theorem setCtx_time (s : State) (c : Nat) (v : Ctx) : (s.setCtx c v).time = s.time := rfl
@[simp] theorem setCtx_boot (s : State) (c : Nat) (v : Ctx) : (s.setCtx c v).boot = s.boot := rfl
@[simp] theorem setCtx_mgmt (s : State) (c : Nat) (v : Ctx) : (s.setCtx c v).mgmt = s.mgmt := rfl
@[simp] theorem setCtx_hamlets (s : State) (c : Nat) (v : Ctx) : (s.setCtx c v).hamlets = s.hamlets := rfl
@[simp] theorem setCtx_dieLogs (s : State) (c : Nat) (v : Ctx) : (s.setCtx c v).dieLogs = s.dieLogs := rfl
@[simp] theorem setCtx_regions (s : State) (c : Nat) (v : Ctx) : (s.setCtx c v).regions = s.regions := rfl
@[simp] theorem setCtx_hqs (s : State) (c : Nat) (v : Ctx) : (s.setCtx c v).hqs = s.hqs := rfl
@[simp] theorem setCtx_ports (s : State) (c : Nat) (v : Ctx) : (s.setCtx c v).ports = s.ports := rfl
@[simp] theorem setCtx_peers (s : State) (c : Nat) (v : Ctx) : (s.setCtx c v).peers = s.peers := rfl
@[simp] theorem setCtx_hostOut (s : State) (c : Nat) (v : Ctx) : (s.setCtx c v).hostOut = s.hostOut := rfl
@[simp] theorem setCtx_free (s : State) (c : Nat) (v : Ctx) : (s.setCtx c v).free = s.free := rfl
@[simp] theorem setCtx_turn (s : State) (c : Nat) (v : Ctx) : (s.setCtx c v).turn = s.turn := rfl
@[simp] theorem setCtx_agenda (s : State) (c : Nat) (v : Ctx) : (s.setCtx c v).agenda = s.agenda := rfl

@[simp] theorem setLaunch_hart (s : State) (n : Nat) (l : Launch) : (s.setLaunch n l).hart = s.hart := rfl
@[simp] theorem setLaunch_others (s : State) (n : Nat) (l : Launch) : (s.setLaunch n l).others = s.others := rfl
@[simp] theorem setLaunch_cores (s : State) (n : Nat) (l : Launch) : (s.setLaunch n l).cores = s.cores := rfl
@[simp] theorem setLaunch_ctxs (s : State) (n : Nat) (l : Launch) : (s.setLaunch n l).ctxs = s.ctxs := rfl
@[simp] theorem setLaunch_nextLaunch (s : State) (n : Nat) (l : Launch) : (s.setLaunch n l).nextLaunch = s.nextLaunch := rfl
@[simp] theorem setLaunch_parkedCw (s : State) (n : Nat) (l : Launch) : (s.setLaunch n l).parkedCw = s.parkedCw := rfl
@[simp] theorem setLaunch_mem (s : State) (n : Nat) (l : Launch) : (s.setLaunch n l).mem = s.mem := rfl
@[simp] theorem setLaunch_l2 (s : State) (n : Nat) (l : Launch) : (s.setLaunch n l).l2 = s.l2 := rfl
@[simp] theorem setLaunch_posted (s : State) (n : Nat) (l : Launch) : (s.setLaunch n l).posted = s.posted := rfl
@[simp] theorem setLaunch_hostMem (s : State) (n : Nat) (l : Launch) : (s.setLaunch n l).hostMem = s.hostMem := rfl
@[simp] theorem setLaunch_poison (s : State) (n : Nat) (l : Launch) : (s.setLaunch n l).poison = s.poison := rfl
@[simp] theorem setLaunch_l2Poison (s : State) (n : Nat) (l : Launch) : (s.setLaunch n l).l2Poison = s.l2Poison := rfl
@[simp] theorem setLaunch_broken (s : State) (n : Nat) (l : Launch) : (s.setLaunch n l).broken = s.broken := rfl
@[simp] theorem setLaunch_grain (s : State) (n : Nat) (l : Launch) : (s.setLaunch n l).grain = s.grain := rfl
@[simp] theorem setLaunch_time (s : State) (n : Nat) (l : Launch) : (s.setLaunch n l).time = s.time := rfl
@[simp] theorem setLaunch_boot (s : State) (n : Nat) (l : Launch) : (s.setLaunch n l).boot = s.boot := rfl
@[simp] theorem setLaunch_mgmt (s : State) (n : Nat) (l : Launch) : (s.setLaunch n l).mgmt = s.mgmt := rfl
@[simp] theorem setLaunch_hamlets (s : State) (n : Nat) (l : Launch) : (s.setLaunch n l).hamlets = s.hamlets := rfl
@[simp] theorem setLaunch_dieLogs (s : State) (n : Nat) (l : Launch) : (s.setLaunch n l).dieLogs = s.dieLogs := rfl
@[simp] theorem setLaunch_regions (s : State) (n : Nat) (l : Launch) : (s.setLaunch n l).regions = s.regions := rfl
@[simp] theorem setLaunch_hqs (s : State) (n : Nat) (l : Launch) : (s.setLaunch n l).hqs = s.hqs := rfl
@[simp] theorem setLaunch_ports (s : State) (n : Nat) (l : Launch) : (s.setLaunch n l).ports = s.ports := rfl
@[simp] theorem setLaunch_peers (s : State) (n : Nat) (l : Launch) : (s.setLaunch n l).peers = s.peers := rfl
@[simp] theorem setLaunch_hostOut (s : State) (n : Nat) (l : Launch) : (s.setLaunch n l).hostOut = s.hostOut := rfl
@[simp] theorem setLaunch_free (s : State) (n : Nat) (l : Launch) : (s.setLaunch n l).free = s.free := rfl
@[simp] theorem setLaunch_turn (s : State) (n : Nat) (l : Launch) : (s.setLaunch n l).turn = s.turn := rfl
@[simp] theorem setLaunch_agenda (s : State) (n : Nat) (l : Launch) : (s.setLaunch n l).agenda = s.agenda := rfl

@[simp] theorem advance_pc (s : State) : s.advance.hart.pc = s.hart.pc + 4 := rfl
@[simp] theorem jump_pc (s : State) (pc : Word) : (s.jump pc).hart.pc = pc := rfl
@[simp] theorem setWait_wait (s : State) (w : Wait) : (s.setWait w).hart.wait = w := rfl
@[simp] theorem setCsr_csr (s : State) (c : Csr) : (s.setCsr c).hart.csr = c := rfl
@[simp] theorem setTrap_trap (s : State) (t : TrapRegs) : (s.setTrap t).hart.trap = t := rfl
@[simp] theorem bumpFree_free (s : State) : s.bumpFree.free = s.free + 1 := rfl
@[simp] theorem raiseFlags_fcsr (s : State) (fl : BitVec 8) :
    (s.raiseFlags fl).hart.csr.fcsr = s.hart.csr.fcsr ||| fl := rfl

/-- x0 reads zero (R216). -/
@[simp] theorem x_zero (s : State) : s.x 0 = 0 := rfl

/-- k0 reads all ones (R216). -/
@[simp] theorem mask_zero (s : State) : s.mask 0 = BitVec.allOnes 65536 := rfl

/-- A read of a register file after a write of one. -/
theorem vget_set {α : Type} {n m : Nat} (v : Vector α n) (r q : BitVec m) (w : α) (h : 2 ^ m = n) :
    (v.set r.toNat w (h ▸ r.isLt)).get ⟨q.toNat, h ▸ q.isLt⟩ = if q = r then w else v.get ⟨q.toNat, h ▸ q.isLt⟩ := by
  rw [Vector.get_eq_getElem, Vector.get_eq_getElem, Vector.getElem_set]
  by_cases hqr : q = r
  · simp [hqr]
  · rw [if_neg hqr, if_neg fun h' => hqr (BitVec.eq_of_toNat_eq h'.symm)]

/-- A read of an x register after a write of one (R216). -/
theorem x_setX (s : State) (r q : Reg) (v : Word) :
    (s.setX r v).x q = if q = 0 then 0 else if q = r then v else s.x q := by
  unfold State.x State.setX
  by_cases hq : q = 0
  · rw [if_pos hq, if_pos hq]
  rw [if_neg hq, if_neg hq, if_neg hq]
  by_cases hr : r = 0
  · rw [if_pos hr, if_neg (hr ▸ hq)]
  · rw [if_neg hr]; exact vget_set (m := 5) _ r q v rfl

/-- A read of an f register after a write of one. -/
theorem f_setF (s : State) (r q : Reg) (v : Word) :
    (s.setF r v).f q = if q = r then v else s.f q := vget_set (m := 5) _ r q v rfl

/-- A read of a mask register after a write of one (R216). -/
theorem mask_setMask (s : State) (r q : KReg) (v : Mask) :
    (s.setMask r v).mask q = if q = 0 then BitVec.allOnes 65536 else if q = r then v else s.mask q := by
  unfold State.mask State.setMask
  by_cases hq : q = 0
  · rw [if_pos hq, if_pos hq]
  rw [if_neg hq, if_neg hq, if_neg hq]
  by_cases hr : r = 0
  · rw [if_pos hr, if_neg (hr ▸ hq)]
  · rw [if_neg hr]; exact vget_set (m := 3) _ r q v rfl

@[simp] theorem advance_x (s : State) (r : Reg) : s.advance.x r = s.x r := rfl
@[simp] theorem advance_f (s : State) (r : Reg) : s.advance.f r = s.f r := rfl
@[simp] theorem advance_mask (s : State) (r : KReg) : s.advance.mask r = s.mask r := rfl
@[simp] theorem jump_x (s : State) (pc : Word) (r : Reg) : (s.jump pc).x r = s.x r := rfl
@[simp] theorem setF_x (s : State) (d r : Reg) (v : Word) : (s.setF d v).x r = s.x r := rfl
@[simp] theorem raiseFlags_x (s : State) (fl : BitVec 8) (r : Reg) : (s.raiseFlags fl).x r = s.x r := rfl
@[simp] theorem raiseFlags_f (s : State) (fl : BitVec 8) (r : Reg) : (s.raiseFlags fl).f r = s.f r := rfl
@[simp] theorem setX_f (s : State) (d r : Reg) (v : Word) : (s.setX d v).f r = s.f r := by
  unfold State.setX; split <;> rfl

end Sys2Proof.Machine
end

