-- ==== Sys2Proof/Laws/Translate.lean ====
section
/-! SUPPORT. What translations and fetches leave alone: a translation adds at most a cached one, and a fetch fills L2
beside. -/

namespace Sys2Proof.Machine

theorem leaf_frame {s t : State} {va : Word} {e : Nat} (h : s.leaf va = .ok (e, t)) :
    { t with hart := { t.hart with tlb := s.hart.tlb } } = s := by
  unfold State.leaf need at h
  simp only [bind, Except.bind, pure, Except.pure] at h
  split at h; · cases h
  split at h; · cases h
  split at h
  · injection h with h; injection h with h1 h2; subst h2; rfl
  · split at h; · cases h
    injection h with h; injection h with h1 h2; subst h2; rfl

theorem xlat_frame {s t : State} {k : Kind} {va : Word} {x : Xlat} (h : s.xlat k va = .ok (x, t)) :
    { t with hart := { t.hart with tlb := s.hart.tlb } } = s := by
  unfold State.xlat at h
  simp only [bind, Except.bind, pure, Except.pure] at h
  split at h; · cases h
  split at h; · cases h
  rename_i hl _ _ _
  injection h with h; injection h with h1 h2; subst h2; exact leaf_frame hl

theorem xlatFetch_frame {s t : State} {va : Word} {x : Xlat} (h : s.xlatFetch va = .ok (x, t)) :
    { t with hart := { t.hart with tlb := s.hart.tlb } } = s := by
  unfold State.xlatFetch need at h
  simp only [bind, Except.bind] at h
  split at h; · cases h
  exact xlat_frame h

/-- The state of a fetch put back to before it. -/
theorem took_frame {s u t : State} (h : { u with hart := { u.hart with tlb := s.hart.tlb } } = s) (k : TagsOnly u t) :
    { t with l2 := s.l2, poison := s.poison, l2Poison := s.l2Poison, broken := s.broken
             hart := { t.hart with tlb := s.hart.tlb } } = s := by
  obtain ⟨_, _, _, _, rfl⟩ := k
  rw [← h]

theorem fetch_frame {s t : State} {w : IWord} (h : s.fetch = .ok (w, t)) :
    { t with l2 := s.l2, poison := s.poison, l2Poison := s.l2Poison, broken := s.broken
             hart := { t.hart with tlb := s.hart.tlb } } = s := by
  unfold State.fetch parkCheck at h
  simp only [bind, Except.bind, pure, Except.pure] at h
  split at h; · cases h
  rename_i hl
  split at h; · cases h
  split at h
  · injection h with h; injection h with h1 h2; subst h2
    exact took_frame (xlatFetch_frame hl) (TagsOnly.rfl' _)
  · split at h; · cases h
    injection h with h; injection h with h1 h2; subst h2
    exact took_frame (xlatFetch_frame hl) (l2Take_tags _ _ _ _)

theorem fetchAdvice_frame {s t : State} {w : IWord} (h : s.fetchAdvice = some (w, t)) :
    { t with l2 := s.l2, poison := s.poison, l2Poison := s.l2Poison, broken := s.broken
             hart := { t.hart with tlb := s.hart.tlb } } = s := by
  unfold State.fetchAdvice at h
  simp only at h
  split at h
  · split at h
    · rename_i hl; injection h with h; injection h with h1 h2; subst h2
      exact took_frame (xlat_frame hl) (l2Take_tags _ _ _ _)
    · cases h
  · cases h

end Sys2Proof.Machine
end

