-- ==== Sys2Proof/Laws/Vector.lean ====
section
/-! SUPPORT. Vector registers and masks: reads after writes, progress indices, and what a write leaves
alone (R263, R267, R268). -/

namespace Sys2Proof.Machine

theorem packElems_lt (w : Nat) (f : Nat → Nat) (n : Nat) : packElems w f n < 2 ^ (n * w) := by
  induction n with
  | zero => simp [packElems]
  | succ n ih =>
    unfold packElems
    rw [Nat.shiftLeft_eq]
    have h1 : f n % 2 ^ w < 2 ^ w := Nat.mod_lt _ (by positivity)
    have h2 : (n + 1) * w = n * w + w := by ring
    rw [h2, pow_add]
    have h3 : f n % 2 ^ w * 2 ^ (n * w) ≤ (2 ^ w - 1) * 2 ^ (n * w) := Nat.mul_le_mul_right _ (by omega)
    have h4 : (2 ^ w - 1) * 2 ^ (n * w) + 2 ^ (n * w) = 2 ^ (n * w) * 2 ^ w := by
      have : 1 ≤ 2 ^ w := Nat.one_le_two_pow
      calc (2 ^ w - 1) * 2 ^ (n * w) + 2 ^ (n * w) = ((2 ^ w - 1) + 1) * 2 ^ (n * w) := by ring
        _ = 2 ^ (n * w) * 2 ^ w := by rw [Nat.sub_add_cancel this]; ring
    omega

/-- An element of packed elements. -/
theorem packElems_get (w : Nat) (f : Nat → Nat) (n j : Nat) (h : j < n) :
    packElems w f n / 2 ^ (j * w) % 2 ^ w = f j % 2 ^ w := by
  induction n with
  | zero => omega
  | succ n ih =>
    unfold packElems
    rw [Nat.shiftLeft_eq]
    by_cases hj : j = n
    · subst hj
      rw [Nat.add_mul_div_right _ _ (by positivity), Nat.div_eq_of_lt (packElems_lt w f j), Nat.zero_add,
        Nat.mod_mod]
    · have hlt : j < n := by omega
      have : n * w = j * w + w + (n - j - 1) * w := by
        have : n = j + 1 + (n - j - 1) := by omega
        conv_lhs => rw [this]
        ring
      rw [this, pow_add, pow_add]
      have e : f n % 2 ^ w * (2 ^ (j * w) * 2 ^ w * 2 ^ ((n - j - 1) * w)) =
          (f n % 2 ^ w * 2 ^ ((n - j - 1) * w) * 2 ^ w) * 2 ^ (j * w) := by ring
      rw [e, Nat.add_mul_div_right _ _ (by positivity), Nat.add_mul_mod_self_right, ih hlt]

/-- An element of a register whose bits are packed elements below its progress index. -/
theorem raw_pack (w n j tag : Nat) (f : Nat → Nat) (hj : j < n) (hn : n * w ≤ 32768) :
    VReg.raw ⟨BitVec.ofNat 32768 (packElems w f n), n * w, tag⟩ (j * w) w = f j % 2 ^ w := by
  unfold VReg.raw
  have h1 : j * w + w ≤ n * w := by
    calc j * w + w = (j + 1) * w := by ring
      _ ≤ n * w := Nat.mul_le_mul_right _ hj
  rw [if_pos h1]
  simp only [BitVec.toNat_ofNat, Nat.shiftRight_eq_div_pow]
  rw [Nat.mod_eq_of_lt (lt_of_lt_of_le (packElems_lt w f n) (Nat.pow_le_pow_right (by decide) hn))]
  exact packElems_get w f n j hj

/-- An element read is a number of its width. -/
theorem raw_lt (r : VReg) (lo n : Nat) : r.raw lo n < 2 ^ n := by
  unfold VReg.raw
  split
  · exact Nat.mod_lt _ (by positivity)
  · rename_i h
    simp only
    have hk : r.pidx - lo ≤ n := by omega
    generalize r.bits.toNat >>> lo = a
    generalize (Config.freeVec r.tag).toNat >>> (lo + (r.pidx - lo)) = b
    generalize r.pidx - lo = k at hk
    have h1 : a % 2 ^ k < 2 ^ k := Nat.mod_lt _ (by positivity)
    have h2 : b % 2 ^ (n - k) < 2 ^ (n - k) := Nat.mod_lt _ (by positivity)
    have h3 : 2 ^ n = 2 ^ (n - k) * 2 ^ k := by rw [← pow_add]; congr 1; omega
    rw [h3]
    have h4 : b % 2 ^ (n - k) * 2 ^ k ≤ (2 ^ (n - k) - 1) * 2 ^ k := Nat.mul_le_mul_right _ (by omega)
    have h5 : (2 ^ (n - k) - 1) * 2 ^ k + 2 ^ k = 2 ^ (n - k) * 2 ^ k := by
      have : 1 ≤ 2 ^ (n - k) := Nat.one_le_two_pow
      calc (2 ^ (n - k) - 1) * 2 ^ k + 2 ^ k = ((2 ^ (n - k) - 1) + 1) * 2 ^ k := by ring
        _ = _ := by rw [Nat.sub_add_cancel this]
    omega

theorem elem_lt (s : State) (d w i : Nat) : s.elem d w i < 2 ^ w := raw_lt _ _ _

/-- The register that a write of elements leaves. -/
def putReg (s : State) (w : Nat) (cnt f : Nat → Nat) (r : Nat) : VReg :=
  ⟨BitVec.ofNat 32768 (packElems w (fun j => f (r * s.hart.vlmax1 w + j)) (cnt r)), cnt r * w, s.free * 32 + r⟩

theorem putRegs_get (s : State) (field w : Nat) (cnt f : Nat → Nat) (n : Nat) (h : field + n ≤ 32) (q : Nat)
    (hq : q < 32) :
    (s.putRegs field w cnt f n).hart.v.get ⟨q, hq⟩ =
      if field ≤ q ∧ q < field + n then putReg s w cnt f (q - field) else s.hart.v.get ⟨q, hq⟩ := by
  induction n with
  | zero => rw [if_neg (by omega)]; rfl
  | succ n ih =>
    have hm : (field + n) % 32 = field + n := Nat.mod_eq_of_lt (by omega)
    have step : (s.putRegs field w cnt f (n + 1)).hart.v =
        (s.putRegs field w cnt f n).hart.v.set ((field + n) % 32) (putReg s w cnt f n)
          (Nat.mod_lt _ (by decide)) := by
      conv_lhs => unfold State.putRegs
      simp only
      split <;> rfl
    rw [step, Vector.get_eq_getElem, Vector.getElem_set]
    by_cases hqn : q = field + n
    · subst hqn
      rw [if_pos hm, if_pos ⟨by omega, by omega⟩, Nat.add_sub_cancel_left]
    · rw [if_neg (by rw [hm]; exact Ne.symm hqn)]
      have := ih (by omega)
      rw [Vector.get_eq_getElem] at this
      rw [this]
      by_cases hin : field ≤ q ∧ q < field + n
      · rw [if_pos hin, if_pos ⟨hin.1, by omega⟩]
      · rw [if_neg hin, if_neg (by omega)]

/-- A write of elements changes vector registers and their dirty marks only. -/
theorem putRegs_frame (s : State) (field w : Nat) (cnt f : Nat → Nat) (n : Nat) :
    { s.putRegs field w cnt f n with
      hart := { (s.putRegs field w cnt f n).hart with v := s.hart.v, dirtyv := s.hart.dirtyv } } = s := by
  induction n with
  | zero => rfl
  | succ n ih =>
    have h : ∀ (t : State), { t with hart := { t.hart with v := s.hart.v, dirtyv := s.hart.dirtyv } } = s →
        ∀ v dv, ({ t with hart := { t.hart with v := v, dirtyv := dv } } : State) =
          { s with hart := { s.hart with v := v, dirtyv := dv } } := by
      intro t ht v dv
      have := congrArg (fun u : State => { u with hart := { u.hart with v := v, dirtyv := dv } }) ht
      exact this
    unfold State.putRegs
    simp only
    split
    · have := h _ ih s.hart.v s.hart.dirtyv
      exact this
    · have := h _ ih s.hart.v s.hart.dirtyv
      exact this

/-- A write of elements leaves everything but vector registers, dirty marks and the free-value counter. -/
theorem putVec_frame (s : State) (field g w P : Nat) (f : Nat → Nat) :
    { s.putVec field g w P f with
      free := s.free
      hart := { (s.putVec field g w P f).hart with v := s.hart.v, dirtyv := s.hart.dirtyv } } = s := by
  have h1 := putRegs_frame s field w (fun r => min (P - r * s.hart.vlmax1 w) (s.hart.vlmax1 w)) f g
  have h2 := congrArg State.free h1
  have h3 : ({ s.putRegs field w (fun r => min (P - r * s.hart.vlmax1 w) (s.hart.vlmax1 w)) f g with
      free := s.free
      hart := { (s.putRegs field w (fun r => min (P - r * s.hart.vlmax1 w) (s.hart.vlmax1 w)) f g).hart with
        v := s.hart.v, dirtyv := s.hart.dirtyv } } : State) = s := by
    rw [← h2]
    exact h1
  exact h3

theorem putVec_eq (s : State) (field g w P : Nat) (f : Nat → Nat) :
    s.putVec field g w P f = { s with
      free := s.free + 1
      hart := { s.hart with
        v := (s.putVec field g w P f).hart.v, dirtyv := (s.putVec field g w P f).hart.dirtyv } } := by
  have := congrArg (fun u : State => { u with
      free := s.free + 1
      hart := { u.hart with
        v := (s.putVec field g w P f).hart.v, dirtyv := (s.putVec field g w P f).hart.dirtyv } })
    (putVec_frame s field g w P f)
  have hf : (s.putVec field g w P f).free = s.free + 1 := by
    have h2 := congrArg State.free (putRegs_frame s field w
      (fun r => min (P - r * s.hart.vlmax1 w) (s.hart.vlmax1 w)) f g)
    show (s.putRegs field w _ f g).free + 1 = _
    exact congrArg (· + 1) h2
  have e : ({ (s.putVec field g w P f) with free := s.free + 1 } : State) = s.putVec field g w P f := by
    rw [← hf]
  exact e.symm.trans this

theorem putVec_get (s : State) (field g w P : Nat) (f : Nat → Nat) (h : field + g ≤ 32) (q : Nat) (hq : q < 32) :
    (s.putVec field g w P f).hart.v.get ⟨q, hq⟩ =
      if field ≤ q ∧ q < field + g then
        putReg s w (fun r => min (P - r * s.hart.vlmax1 w) (s.hart.vlmax1 w)) f (q - field)
      else s.hart.v.get ⟨q, hq⟩ :=
  putRegs_get s field w _ f g h q hq

/-- The registers hold at most 32768 bits. -/
theorem regBits_le {h : Hart} (hl : h.grant.lanes ≤ 64) : h.regBits ≤ 32768 := by
  unfold Hart.regBits Hart.depth
  have h1 : min 16 h.brim ≤ 16 := by omega
  calc h.grant.lanes * min 16 h.brim * 32 ≤ 64 * 16 * 32 := by gcongr
    _ = 32768 := rfl

theorem vlmax1_bits {h : Hart} (hl : h.grant.lanes ≤ 64) (w : Nat) : h.vlmax1 w * w ≤ 32768 := by
  unfold Hart.vlmax1
  exact le_trans (Nat.div_mul_le_self _ _) (regBits_le hl)

/-- A read of an element after a write of elements (R263, R267). -/
theorem elem_putVec (s : State) (field g w P : Nat) (f : Nat → Nat) (h : field + g ≤ 32)
    (hl : s.hart.grant.lanes ≤ 64) (hP : P ≤ g * s.hart.vlmax1 w) (i : Nat) (hi : i < P) :
    (s.putVec field g w P f).elem field w i = f i % 2 ^ w := by
  have hv : (s.putVec field g w P f).hart.vlmax1 w = s.hart.vlmax1 w := by rw [putVec_eq]; rfl
  have hm : 0 < s.hart.vlmax1 w := by
    rcases Nat.eq_zero_or_pos (s.hart.vlmax1 w) with h0 | h0
    · rw [h0] at hP; simp at hP; omega
    · exact h0
  generalize hmm : s.hart.vlmax1 w = m at *
  have hr : i / m < g := (Nat.div_lt_iff_lt_mul hm).2 (by omega)
  have hq : field + i / m < 32 := by omega
  unfold State.elem State.vreg
  rw [hv]
  simp only
  have hfin : (Fin.ofNat 32 (field + i / m)) = ⟨field + i / m, hq⟩ := by
    apply Fin.ext; simp [Fin.ofNat, Nat.mod_eq_of_lt hq]
  rw [hfin, putVec_get s field g w P f h _ hq, if_pos ⟨Nat.le_add_right _ _, by have := hr; exact Nat.add_lt_add_left hr _⟩, Nat.add_sub_cancel_left]
  unfold putReg
  rw [hmm]
  have hlt : i % m < min (P - i / m * m) m := by
    have h1 := Nat.mod_lt i hm
    have h2 := Nat.div_add_mod i m
    have h3 : i / m * m = m * (i / m) := Nat.mul_comm _ _
    rw [Nat.lt_min]
    constructor <;> omega
  rw [raw_pack]
  · congr 2
    have h2 := Nat.div_add_mod i m
    have h3 : i / m * m = m * (i / m) := Nat.mul_comm _ _
    omega
  · exact hlt
  · have : min (P - i / m * m) m * w ≤ m * w := Nat.mul_le_mul_right _ (min_le_right _ _)
    exact le_trans this (by rw [← hmm]; exact vlmax1_bits hl w)

/-- The progress indices that a write of elements leaves (R267). -/
theorem pidx_putVec (s : State) (field g w P : Nat) (f : Nat → Nat) (h : field + g ≤ 32) (r : Nat) (hr : r < g) :
    ((s.putVec field g w P f).vreg (field + r)).pidx =
      min (P - r * s.hart.vlmax1 w) (s.hart.vlmax1 w) * w := by
  have hq : field + r < 32 := by omega
  unfold State.vreg
  have hfin : (Fin.ofNat 32 (field + r)) = ⟨field + r, hq⟩ := by
    apply Fin.ext; simp [Fin.ofNat, Nat.mod_eq_of_lt hq]
  rw [hfin, putVec_get s field g w P f h _ hq, if_pos ⟨by omega, by omega⟩, Nat.add_sub_cancel_left]
  rfl

/-- A bit of a mask given by a function. -/
theorem maskOf_get (n : Nat) (f : Nat → Bool) (i : Nat) (hn : n ≤ 65536) :
    (maskOf n f).getLsbD i = (decide (i < n) && f i) := by
  unfold maskOf
  rw [BitVec.getLsbD_ofNat]
  by_cases hi : i < n
  · have hp := packElems_get 1 (fun i => if f i then 1 else 0) n i hi
    have h65 : i < 65536 := by omega
    rw [Nat.mul_one] at hp
    rw [Nat.testBit_eq_decide_div_mod_eq]
    simp only [pow_one] at hp
    rw [hp]
    cases f i <;> simp [hi, h65]
  · have : packElems 1 (fun i => if f i then 1 else 0) n < 2 ^ i :=
      lt_of_lt_of_le (packElems_lt 1 _ n) (Nat.pow_le_pow_right (by decide) (by omega))
    rw [Nat.testBit_lt_two_pow this]
    simp [hi]

end Sys2Proof.Machine
end

