-- ==== Sys2Proof/Tests/Slice0.lean ====
section
/-! SUPPORT. Tests of the model on values from the manual, and states that meet the hypotheses of the
statements. -/

set_option Elab.async false

open Sys2Proof Sys2Proof.Machine Sys2Proof.Claims

namespace Sys2Proof.Tests

/-! ### Well-formedness: an ill-formed term for each check -/

/-- R222: a float second source has no integer form, an x register no float form. -/
theorem test_wf_form : Instr.wf (.vadd 3 1 (.vf 2) 0) = false ∧ Instr.wf (.vfadd 3 1 (.vx 2) 0) = false ∧
    Instr.wf (.vfma 3 1 (.vi 2) 0) = false ∧ Instr.wf (.vmerge 3 1 (.vf 2) 0) = false := by decide
/-- R282: shifts take no float, and immediates of 0 to 15; broadcasts take no immediate. -/
theorem test_wf_permute : Instr.wf (.vshup 3 1 (.vi 16) 0) = false ∧ Instr.wf (.vshdn 3 1 (.vf 2) 0) = false ∧
    Instr.wf (.vbcast 3 1 (.vi 1) 0) = false ∧ Instr.wf (.vinsx 3 1 (.vf 1) 0) = false := by decide
/-- R216: k0 is no destination. -/
theorem test_wf_k0 : Instr.wf (.vcmpEq 0 1 (.vv 2) 0) = false ∧ Instr.wf (.vcmpGe 0 1 (.vv 2) 0) = false ∧
    Instr.wf (.kand 0 1 2) = false ∧ Instr.wf (.kor 0 1 2) = false ∧ Instr.wf (.kxor 0 1 2) = false ∧
    Instr.wf (.knot 0 1) = false ∧ Instr.wf (.vsegsum 1 0) = false ∧ Instr.wf (.sqld 1 0 2 3) = false ∧
    Instr.wf (.vwaitAll 0 1 2 3 0 0) = false ∧ Instr.wf (.vwaitAny 0 1 2 3 0 0) = false := by decide
/-- R248: a fence between a path and itself. -/
theorem test_wf_path : Instr.wf (.fenceP .vec .vec .core) = false := by decide
/-- R189, R204, R211: an advice view of 12, an order of 6. -/
theorem test_wf_advice : Instr.wf (.aread 1 12) = false ∧ Instr.wf (.aorder 6) = false := by decide
/-- R7, R384, R432, R443, R454: numbers of cores, queues, dies, ports and hamlets that do not exist. -/
theorem test_wf_numbers : Instr.wf (.hartIssue 256) = false ∧ Instr.wf (.dispatchTick 256) = false ∧
    Instr.wf (.hqLaunch 64) = false ∧ Instr.wf (.bindHostQueue 1 64 ⟨0, 0, 0, 0, 0, 0⟩) = false ∧
    Instr.wf (.readErrorLog 1 4) = false ∧ Instr.wf (.clearErrorLog 1 4) = false ∧
    Instr.wf (.readTraceBuffer 1 32) = false ∧ Instr.wf (.linkPortDown 18) = false ∧
    Instr.wf (.linkFlitReceive 18 []) = false ∧ Instr.wf (.clockChange 32 .lane 600 .power) = false ∧
    Instr.wf (.throttleLevelChange 32 0) = false ∧ Instr.wf (.thermalLimitReached 32 0) = false ∧
    Instr.wf (.linkPortRetrained 18) = false := by decide
/-- Terms that pass those checks. -/
theorem test_wf_legal : Instr.wf (.vshup 3 1 (.vi 15) 0) = true ∧ Instr.wf (.vcmpEq 7 1 (.vv 2) 0) = true ∧
    Instr.wf (.fenceP .cpy .scl .core) = true ∧ Instr.wf (.aread 1 11) = true ∧
    Instr.wf (.hqLaunch 63) = true ∧ Instr.wf (.linkPortDown 17) = true := by decide

/-! ### Words that the manual writes out -/

/-- Lines 15, 24, 36 of rowmix: addi, addi, slli (RI). -/
theorem test_decode_immediate : decode 0x00500182 = .ok (.addi 6 0 80) ∧ decode 0x00005142 = .ok (.addi 5 10 0) ∧
    decode 0x00023A09 = .ok (.slli 8 7 2) := by decide
/-- Lines 16 and 17: mul, add (RR). -/
theorem test_decode_int : decode 0x28C52801 = .ok (.mul 5 5 6) ∧ decode 0x00A31801 = .ok (.add 3 3 5) := by decide
/-- Lines 18, 20, 80: ld.d, fld.s, st.d. -/
theorem test_decode_memory : decode 0x00081A93 = .ok (.ldD 10 3 8) ∧ decode 0x0018185A = .ok (.fldS 1 3 24) ∧
    decode 0x0000F759 = .ok (.stD 29 30 0) := by decide
/-- Lines 26, 28, 41: beq, bge, j with −15. -/
theorem test_decode_branch : decode 0x00102820 = .ok (.beq 5 0 16) ∧ decode 0x00028163 = .ok (.bge 16 5 2) ∧
    decode 0xFFFFFC66 = .ok (.j 0x3FFFFF1) := by decide
/-- R245, R247 to R249: amoadd.d.v, fence rel, d; fence.p cpy, scl, c; waita.eq.c. -/
theorem test_decode_sync : decode 0x88AA30E8 = .ok (.amoadd 6 10 5 true false false .device) ∧
    decode 0x002000A9 = .ok (.fence .rel .die) ∧ decode 0x04030069 = .ok (.fenceP .cpy .scl .core) ∧
    decode 0x0BAD3869 = .ok (.waitaEq 7 13 29 false .core) := by decide
/-- R254: fma.d f4, f1, f2, f3. -/
theorem test_decode_fp : decode 0x944120EA = .ok (.fma 4 1 2 3 true) := by decide
/-- Line 14, R261, the example of R370: cread LOOPN0, syscall 3, cread SAVEPTR, cwrite VLCAP. -/
theorem test_decode_system : decode 0x00A0142B = .ok (.cread 5 0x00A) ∧ decode 0x0030012B = .ok (.syscall 3) ∧
    decode 0x8140142B = .ok (.cread 5 0x814) ∧ decode 0x8075006B = .ok (.cwrite 0x807 10) := by decide
/-- Lines 23, 30, 47; R267, R355: setvt, setvl, vpidx, claim. -/
theorem test_decode_config : decode 0x0000002C = .ok (.setvt 0) ∧ decode 0x0720002C = .ok (.setvt 0x0720) ∧
    decode 0x0006382D = .ok (.setvl 7 6) ∧ decode 0x0805282D = .ok (.vpidx 5 5) ∧
    decode 0x04CA282D = .ok (.claim 5 10 6) := by decide
/-- R276, R280: vadd.i32 v3, v1, v2, k2; line 33: vcmp.gt.f32 k1, v1, 0; line 34: vfma.f32 v2, v1, f1, k1. -/
theorem test_decode_vector : decode 0x00411A2E = .ok (.vadd 3 1 (.vv 2) 2) ∧
    decode 0x100108B0 = .ok (.vcmpGt 1 1 (.vi 0) 0) ∧ decode 0x102111EF = .ok (.vfma 2 1 (.vf 1) 1) := by decide
/-- R284, R286, R332: vredsum.o.f32 v4, v5, v6; vdot16 v8, v2, v3, a5; vtopk v8, v7, t0. -/
theorem test_decode_groups : decode 0x20C52031 = .ok (.vredsumO 4 5 6 0) ∧
    decode 0x78C48032 = .ok (.vdot16 8 2 3 15 0) ∧ decode 0x18A74073 = .ok (.vtopk 8 7 5 0) := by decide
/-- Lines 31, 64; R305, R302: vld.f32, vst.f32, vstx.n32, vstx.o.n32, vlds.f32.keep. -/
theorem test_decode_vmem : decode 0x000B0834 = .ok (.vld 1 11 0 0) ∧ decode 0x000E2835 = .ok (.vst 5 14 0 0) ∧
    decode 0x082A1035 = .ok (.vstx 2 10 1 0 0) ∧ decode 0x0C2A1035 = .ok (.vstxO 2 10 1 0 0) ∧
    decode 0x050B1074 = .ok (.vlds 2 11 8 0 1) := by decide
/-- R308, R310: vamoadd.o.v.n32 v4, (a0), v1, k3; vwait.all.v.n64 k1, t0, v2, v4. -/
theorem test_decode_vamo : decode 0x042A230C = .ok (.vamoaddV 4 10 1 3 0 false false true) ∧
    decode 0x1845200E = .ok (.vwaitAll 1 5 2 4 0 2) := by decide
/-- Lines 50, 51, 54, 63, 68: mtile, mzero, mrow, mread, mrelease. -/
theorem test_decode_matrix : decode 0x012F0037 = .ok (.mtile false 9 15) ∧ decode 0x20000037 = .ok (.mzero 0) ∧
    decode 0x088F0F77 = .ok (.mrow 0 (.reg 30) 4 false 15) ∧ decode 0x28A00F77 = .ok (.mread 5 0 (.reg 30)) ∧
    decode 0x38000037 = .ok (.mrelease false) := by decide
/-- Lines 73 to 81 and R317: sqnew, sqres, sqst, sqcmt, sqlen, sqdrop, sqld. -/
theorem test_decode_sequence : decode 0x0008003A = .ok (.sqnew 0 8) ∧ decode 0x07A0E03A = .ok (.sqres 28 0 29) ∧
    decode 0x03803036 = .ok (.sqst 6 0 28 0) ∧ decode 0x0B80077A = .ok (.sqcmt 0 28 29) ∧
    decode 0x1000E83A = .ok (.sqlen 29 0) ∧ decode 0x1C00003A = .ok (.sqdrop 0) ∧
    decode 0x04E01A36 = .ok (.sqld 3 2 0 7) := by decide
/-- R347, R352: cpy a2, a0, t3, t4, t5; launch, join, yield, exit, mark. -/
theorem test_decode_sched : decode 0xE10A6278 = .ok (.cpy 12 10 8 9 28) ∧ decode 0x000E383B = .ok (.launch 7 14) ∧
    decode 0x0407003B = .ok (.join 0 7) ∧ decode 0x0407403B = .ok (.join 8 7) ∧
    decode 0x0800003B = .ok .yield ∧ decode 0x0C00003B = .ok .exit ∧ decode 0x1000003B = .ok .mark := by decide
/-- Lines 84 to 95 of the advice listing. -/
theorem test_decode_advice : decodeAdvice 0x000040FF = .ok (.ali 0 1) ∧ decodeAdvice 0x000038FF = .ok (.ali 7 0) ∧
    decodeAdvice 0x0000007F = .ok (.await 0) ∧ decodeAdvice 0x002018BF = .ok (.aread 3 2) ∧
    decodeAdvice 0x007EC1FF = .ok (.abeq 3 7 7) ∧ decodeAdvice 0x0100427F = .ok (.apf false 1 0 16) ∧
    decodeAdvice 0x0010013F = .ok (.aaddi 0 0 1) ∧ decodeAdvice 0xFFFE023F = .ok (.aj 0x3FFF8) ∧
    decodeAdvice 0x0000003F = .ok .ahalt := by decide
/-- R230: an unallocated major, an unallocated function, a reserved field; R380: setvt's are checked later. -/
theorem test_decode_refused : decode 0x00000000 = .error .majorUnallocated ∧
    decode 0x64000001 = .error .functionUnallocated ∧ decode 0x00000041 = .error .reservedField ∧
    decode 0x002B0834 = .error .reservedField ∧ decode 0x0403092B = .error .reservedField := by decide
/-- R216: k3 is an accepted mask. -/
theorem test_decode_mask : decode 0x102113EF = .ok (.vfma 2 1 (.vf 1) 3) := by decide
/-- The encoder writes the same words. -/
theorem test_encode : encode (.vwaitAll 1 5 2 4 0 2) = 0x1845200E ∧ encode (.mrow 0 (.reg 30) 4 false 15) = 0x088F0F77 ∧
    encode (.cwrite 0x807 10) = 0x8075006B ∧ encode (.abeq 3 7 7) = 0x007EC1FF := by decide
/-- The host's reading of a table word. -/
theorem test_table_word : decodeTableWord 32 0x28C52801 = some (.mul 5 5 6) ∧
    decodeTableWord 32 0x0000007F = some (.await 0) := by decide

/-! ### Single steps on values from the manual -/

/-- A running hart on core 0 with 4 lanes, 32 vector registers and 4 KiB of scratchpad. -/
def ready : State :=
  { State.reset with
    boot := .done
    hart := { Hart.reset with
      uid := 2 ^ 32, status := .running, pc := 0x1000, saveIdx := some 0, readyAt := 0
      bounds := { Bounds.none with vregs := 32, accs := 8, barriers := 16, seqs := 8, scratch := 4096 }
      grant := ⟨4, 0⟩, target := ⟨4, 0⟩, holds := true } }

/-- What a field is after an instruction; none where it stops. -/
def after {α : Type} (i : Instr) (s : State) (f : State → α) : Option α :=
  match exec i s with
  | .next t => some (f t)
  | _ => none

/-- x[r] of a state with x[1] and x[2] given. -/
def with2 (a b : Word) : State := (ready.setX 1 a).setX 2 b

theorem test_add_wraps : after (.add 3 1 2) (with2 0xFFFFFFFFFFFFFFFF 2) (·.x 3) = some 1 := by decide
theorem test_x0_discards : after (.add 0 1 2) (with2 5 6) (·.x 0) = some 0 := by decide
theorem test_div_min : after (.div 3 1 2) (with2 0x8000000000000000 0xFFFFFFFFFFFFFFFF) (·.x 3)
    = some 0x8000000000000000 := by decide
theorem test_rem_sign : after (.rem 3 1 2) (with2 0xFFFFFFFFFFFFFFF9 2) (·.x 3)
    = some 0xFFFFFFFFFFFFFFFF := by decide
theorem test_mulh : after (.mulh 3 1 2) (with2 0xFFFFFFFFFFFFFFFF 2) (·.x 3) = some 0xFFFFFFFFFFFFFFFF := by decide
theorem test_sra : after (.sra 3 1 2) (with2 0x8000000000000000 0x43) (·.x 3) = some 0xF000000000000000 := by decide
theorem test_clz : after (.clz 3 1) (with2 0x0000000100000000 0) (·.x 3) = some 31 := by decide
theorem test_beq : after (.beq 1 2 16) (with2 7 7) (·.hart.pc) = some 0x1040 := by decide
theorem test_jalr_link : after (.jalr 1 1) (with2 0x2000 0) (fun t => (t.hart.pc, t.x 1)) = some (0x2000, 0x1004) := by decide
theorem test_jalr_trap : after (.jalr 3 1) (with2 0x2002 0) (fun t => (t.hart.trap.tcause, t.hart.trap.tval, t.x 3))
    = some (0x0C2, 0x2002, 0) := by decide
theorem test_syscall : after (.syscall 3) ready (fun t => (t.hart.trap.tcause, t.hart.trap.tpc, t.hart.trap.priv))
    = some (0x343, 0x401, true) := by decide
theorem test_ld : after (.ldH 3 1 2) ((ready.scrWrite 16 [0, 0, 0x34, 0x92]).setX 1 0xFFFFFFFFFFC00010) (·.x 3)
    = some 0xFFFFFFFFFFFF9234 := by decide
theorem test_st : after (.stH 2 1 0) (with2 0xFFFFFFFFFFC00010 0x12345678) (fun t => (t.scrByte 16, t.scrByte 17))
    = some (0x78, 0x56) := by decide
theorem test_ld_misaligned : after (.ldD 3 1 0) (with2 0xFFFFFFFFFFC00014 0) (·.hart.trap.tcause) = some 0x0C0 := by decide
theorem test_amoadd : after (.amoadd 3 1 2 false false false .core)
    ((with2 0xFFFFFFFFFFC00010 1).scrWrite 16 [0xFF, 0xFF, 0xFF, 0xFF]) (fun t => (t.x 3, t.scrBytes 16 4))
    = some (0xFFFFFFFFFFFFFFFF, [0, 0, 0, 0]) := by decide
theorem test_barrier : after (.barArrive 2) ready (fun t => (t.hart.arrived, (t.core 0).phase.get 2)) = some (4, 1) := by decide
theorem test_fadd : after (.fadd 3 1 2 false) ((ready.setF 1 0x3F800000).setF 2 0x33800000)
    (fun t => (t.f 3, t.hart.csr.fcsr)) = some (0x3F800000, 1) := by decide
theorem test_fdiv_zero : after (.fdiv 3 1 2 true) ((ready.setF 1 0xBFF0000000000000).setF 2 0)
    (fun t => (t.f 3, t.hart.csr.fcsr)) = some (0xFFF0000000000000, 8) := by decide
theorem test_cread : after (.cread 5 0x009) ready (·.x 5) = some 16 := by decide
theorem test_cwrite_user : after (.cwrite 0x806 1) (with2 1 0) (fun t => (t.hart.trap.tcause, t.hart.trap.tval))
    = some (0x181, 0x8060806B) := by decide
theorem test_setvl : after (.setvl 3 1) (with2 100 0) (fun t => (t.x 3, t.hart.csr.vl)) = some (64, 64) := by decide

/-- Elements of a width packed, the lowest first. -/
def packed (w : Nat) : List Nat → Nat
  | [] => 0
  | x :: l => x + 2 ^ w * packed w l

/-- A state with v[r] holding elements of a width. -/
def withV (s : State) (r : Reg) (w : Nat) (l : List Nat) : State :=
  { s with hart := { s.hart with v := s.hart.v.set r.toNat ⟨BitVec.ofNat _ (packed w l), w * l.length, 0⟩ r.isLt } }

/-- VT and VL. -/
def typed (s : State) (vt : BitVec 16) (vl : BitVec 17) : State :=
  s.setCsr { s.hart.csr with vt := vt, vl := vl }

/-- The first n elements of v[r]. -/
def elems (r : Nat) (w n : Nat) (t : State) : List Nat := (List.range n).map fun e => t.elem r w e

/-- Two vectors of i32 in v1 and v2, VL = 3. -/
def twoI : State := withV (withV (typed ready 10 3) 1 32 [1, 2, 0xFFFFFFFF]) 2 32 [10, 20, 2]

theorem test_vadd : after (.vadd 3 1 (.vv 2) 0) twoI (elems 3 32 3) = some [11, 22, 1] := by decide +kernel
theorem test_vsadd : after (.vssub 3 1 (.vi 0x1F) 0) (withV (typed ready 8 2) 1 8 [127, 0x80]) (elems 3 8 2)
    = some [127, 0x81] := by decide +kernel
theorem test_vdiv : after (.vdiv 3 1 (.vx 0) 0) twoI (elems 3 32 3) = some [0xFFFFFFFF, 0xFFFFFFFF, 0xFFFFFFFF] := by decide +kernel
theorem test_vmin : after (.vmin 3 1 (.vv 2) 0) twoI (elems 3 32 3) = some [1, 2, 0xFFFFFFFF] := by decide +kernel
theorem test_masked : after (.vadd 3 1 (.vv 2) 1) (withV (twoI.setMask 1 5) 3 32 [7, 8, 9]) (elems 3 32 3)
    = some [11, 8, 1] := by decide +kernel
theorem test_vfma : after (.vfma 2 1 (.vf 1) 0)
    (withV (withV ((typed ready 0 2).setF 1 0x40000000) 1 32 [0x3F800000, 0x40400000]) 2 32 [0x3F800000, 0]) (elems 2 32 2)
    = some [0x40400000, 0x40C00000] := by decide +kernel
theorem test_vcmp : after (.vcmpGt 1 1 (.vi 0) 0) (withV (typed ready 10 3) 1 32 [1, 0, 0xFFFFFFFF])
    (fun t => (t.mask 1).toNat % 256) = some 1 := by decide +kernel
theorem test_kcount : after (.kcount 5 1) ((typed ready 10 3).setMask 1 0xD) (·.x 5) = some 2 := by decide +kernel
theorem test_vshup : after (.vshup 3 1 (.vi 1) 0) (withV twoI 3 32 [9, 9, 9]) (elems 3 32 3) = some [9, 1, 2] := by decide +kernel
theorem test_vcondense : after (.vcondense 3 1 1) (twoI.setMask 1 4) (elems 3 32 3) = some [0xFFFFFFFF, 0, 0] := by decide +kernel
theorem test_vredsum_order : after (.vredsumO 4 5 6 0)
    (withV (withV (typed ready 0 4) 5 32 [0x4B800000, 0x3F800000, 0x3F800000, 0x3F800000]) 6 32 [0]) (elems 4 32 1)
    = some [0x4B800000] := by decide +kernel
theorem test_vredmax : after (.vredmax 4 1 2 0) twoI (elems 4 32 1) = some [10] := by decide +kernel
theorem test_vld : after (.vld 3 1 0 0) ((typed ready 10 2).setX 1 0xFFFFFFFFFFC00020 |>.scrWrite 32 [1, 0, 0, 0, 2, 0, 0, 0])
    (elems 3 32 2) = some [1, 2] := by decide +kernel
theorem test_vst : after (.vst 1 5 0 0) (twoI.setX 5 0xFFFFFFFFFFC00020) (·.scrBytes 36 8)
    = some [2, 0, 0, 0, 0xFF, 0xFF, 0xFF, 0xFF] := by decide +kernel
theorem test_vlds : after (.vlds 3 1 5 0 0) (((typed ready 10 2).setX 1 0xFFFFFFFFFFC00020).setX 5 8 |>.scrWrite 32
    [1, 0, 0, 0, 7, 7, 7, 7, 2, 0, 0, 0]) (elems 3 32 2) = some [1, 2] := by decide +kernel
theorem test_vamoadd : after (.vamoaddC 4 5 2 0 0 false false false)
    ((withV (withV (typed ready 14 2) 2 32 [0, 0]) 4 32 [5, 6]).setX 5 0xFFFFFFFFFFC00020 |>.scrWrite 32 [1, 0, 0, 0])
    (fun t => (elems 4 32 2 t, t.scrByte 32)) = some ([1, 6], 12) := by decide +kernel
theorem test_vtopk : after (.vtopk 8 7 5 0) ((withV (typed ready 0 3) 7 32 [0x3F800000, 0x40000000, 0x7FC00000]).setX 5 4)
    (elems 8 32 4) = some [1, 0, 2, 0xFFFFFFFF] := by decide +kernel
theorem test_vargmax : after (.vargmax 8 7 0) (withV (typed ready 0 3) 7 32 [0x3F800000, 0x40000000, 0x40000000])
    (elems 8 32 1) = some [1] := by decide +kernel
theorem test_setvt : after (.setvt 0x0720) ready (·.hart.csr.vt) = some 0x0720 := by decide +kernel
theorem test_setvt_illegal : after (.setvt 0x0017) ready (fun t => (t.hart.trap.tcause, t.hart.trap.tval)) = some (0x042, 0x17) := by decide +kernel
theorem test_vpidx : after (.vpidx 5 1) twoI (·.x 5) = some 3 := by decide +kernel
theorem test_mzero : after (.mzero 0) ready (fun t => (t.accRow 0 63).toNat) = some 0 := by decide +kernel
theorem test_mread_bound : after (.mread 5 0 (.const 1)) (typed ready 0 200) (·.hart.trap.tcause) = some 0x0C4 := by decide +kernel
theorem test_mrelease : after (.mrelease false) ready (fun t => t.hart.tb.get 0) = some none := by decide +kernel
theorem test_sqlen_unbound : after (.sqlen 5 2) ready (fun t => (t.hart.trap.tcause, t.hart.trap.tval))
    = some (0x1C5, 0x8000000000000002) := by decide +kernel
theorem test_cpy_size : after (.cpy 12 10 8 9 28) (ready.setX 8 0x20000000000) (·.hart.trap.tcause) = some 0x20D := by decide +kernel
theorem test_mark : after .mark ready (·.hart.csr.pmark) = some 1 := by decide +kernel
theorem test_launch_align : after (.launch 7 14) (ready.setX 14 4) (·.hart.trap.tcause) = some 0x0C8 := by decide +kernel
theorem test_join_none : after (.join 8 7) (ready.setX 7 5) (·.hart.trap.tcause) = some 0x243 := by decide +kernel
theorem test_wfi : after .wfi ready (·.hart.trap.tcause) = some 0x182 := by decide +kernel
theorem test_tret : after .tret (ready.setTrap { ready.hart.trap with priv := true, tpc := 0x400, pie := true })
    (fun t => (t.hart.pc, t.hart.trap.priv, t.hart.trap.ie)) = some (0x1000, false, true) := by decide +kernel
theorem test_aadd : after (.aaddi 0 0 0xFFF) ready (fun t => (t.g 0, t.hart.adv.apc)) = some (0xFFFFFFFFFFFFFFFF, 4) := by decide +kernel
theorem test_await : after (.await 0) { ready with hart := { ready.hart with adv := { ready.hart.adv with g := Vector.replicate 8 1 } } }
    (·.hart.adv.st) = some .waiting := by decide +kernel

/-! ### States that meet the hypotheses of the statements -/

/-- A page of memory read and written at 0x2000 to 0x2FFF, physical 0x200000, G256; the vector window's first page
at 2^40, physical 2^26. -/
def mapped : State :=
  { ready with
    mgmt := { Mgmt.reset with parts := [⟨0xFF, 0xF, [(0, 0x8000000000)]⟩] }
    ctxs := [(0, { Ctx.reset with sttbEn := true, vttbEn := true, vwbase := 1 })]
    cores := [(0, { Core.reset with vttCtx := some 0, vtt := [(0, 0xED), (3, 0x04)] })]
    hart := { ready.hart with tlb := [⟨0, 0x2000, 4096, 0x2000EF⟩] } }

/-- The same at the supervisor level. -/
def super : State := mapped.setTrap { mapped.hart.trap with priv := true }

/-- A state whose next word is one. -/
def placed (w : Nat) : State := State.reset.withFetchWord 32 w

theorem ok_of {ε α : Type} {e : Except ε α} {p : α} (h : e.toOption = some p) : e = .ok p := by
  cases e with
  | error e => cases h
  | ok r => exact congrArg Except.ok (Option.some.inj h)

/-- What an error says. -/
def failure {ε α : Type} : Except ε α → Option ε
  | .error e => some e
  | .ok _ => none

theorem error_of {ε α : Type} {e : Except ε α} {x : ε} (h : failure e = some x) : e = .error x := by
  cases e with
  | error y => exact congrArg Except.error (Option.some.inj h)
  | ok r => cases h

theorem witness_WordsDecodeBack : (Instr.mrow 7 (.reg 31) 31 true 31).wf = true ∧
    (Instr.mrow 7 (.reg 31) 31 true 31).wordClass = .semantic ∧ (Instr.aorder 5).wf = true ∧
    (Instr.aorder 5).wordClass = .advice := by decide

theorem witness_DecodedWordsEncodeBack : ∃ w i, decode w = .ok i := ⟨0x28C52801, .mul 5 5 6, by decide⟩

theorem fetch_eq (s : State) (w : IWord)
    (h : (match s.fetch with | .ok r => r.1 == w && r.2.passes w | .error _ => false) = true) :
    ∃ t, s.fetch = .ok (w, t) ∧ t.passes w = true := by
  revert h
  cases s.fetch with
  | error e => intro h; cases h
  | ok r =>
    obtain ⟨a, t⟩ := r
    intro h
    replace h := Bool.and_eq_true_iff.mp h
    exact ⟨t, by rw [show a = w from by simpa using h.1], h.2⟩

theorem witness_StepRunsDecodedWord : ∀ w ∈ [(0x28C52801, true), (0x00000041, false)],
    (placed w.1).agenda = .front (placed w.1).hart.uid :: [] ∧ (placed w.1).hart.status = .running ∧
    (placed w.1).hart.wait.retries = true ∧ (placed w.1).hart.awaits = false ∧ (placed w.1).hart.interrupted = false ∧
    (∃ t, (({ placed w.1 with agenda := [] } : State).setWait .none).fetch = .ok (BitVec.ofNat 32 w.1, t) ∧
      t.passes (BitVec.ofNat 32 w.1) = true) ∧
    (decode (BitVec.ofNat 32 w.1)).isOk = w.2 := by
  intro w hw
  simp only [List.mem_cons, List.not_mem_nil, or_false] at hw
  rcases hw with rfl | rfl <;>
    exact ⟨by decide +kernel, by decide +kernel, by decide +kernel, by decide +kernel, by decide +kernel,
      fetch_eq _ _ (by decide +kernel), by decide +kernel⟩

/-- What the units of a core's harts leave, where they leave a next state. -/
noncomputable def unitsOf (c : Nat) (s : State) : Option State :=
  match ((s.inTurn c).map (·.uid)).foldl (fun o x => andThen o (unitsStep x)) (.next (s.pass 1)) with
  | .next u => some u
  | _ => none

/-- With an empty agenda, the issue of a core whose one hart runs a word. -/
theorem witness_StepRunsDecodedWord_issue : let s : State := { placed 0x28C52801 with agenda := [] }
    s.boot = .done ∧ s.coresInTurn = 0 :: [] ∧ (match unitsOf 0 s with
      | none => false
      | some u => (u.inTurn 0).all (fun g => g.nextEntry.isNone) && match u.issuer 0 with
        | none => false
        | some h => match u.focus h.uid with
          | none => false
          | some v => !v.hart.interrupted && v.hart.status == .running && v.hart.wait.retries && !v.hart.awaits &&
            match ((v.tookTurn h).setWait .none).fetch with
            | .ok r => r.1 == 0x28C52801 && r.2.passes r.1
            | .error _ => false) = true := by decide +kernel

theorem fetchAdvice_eq (s : State) (w : IWord)
    (h : (match s.fetchAdvice with | some r => r.1 == w | none => false) = true) :
    ∃ t, s.fetchAdvice = some (w, t) := by
  revert h
  cases s.fetchAdvice with
  | none => intro h; cases h
  | some r => obtain ⟨a, t⟩ := r; intro h; exact ⟨t, by rw [show a = w from by simpa using h]⟩

theorem witness_AdviceSteps : ∀ w ∈ [(0x0010013F, true), (0x000007FF, false)],
    (placed w.1).agenda = [.advice (placed w.1).hart.uid] ∧ (placed w.1).hart.adv.st = .running ∧
    (placed w.1).hart.inSlot = true ∧
    (∃ t, ({ placed w.1 with agenda := [] } : State).fetchAdvice = some (BitVec.ofNat 32 w.1, t)) ∧
    (decodeAdvice (BitVec.ofNat 32 w.1)).isOk = w.2 := by
  intro w hw
  simp only [List.mem_cons, List.not_mem_nil, or_false] at hw
  rcases hw with rfl | rfl <;>
    exact ⟨by decide +kernel, by decide +kernel, by decide +kernel, fetchAdvice_eq _ _ (by decide +kernel),
      by decide +kernel⟩

theorem witness_DivisionAndCounts : (with2 0x8000000000000000 0xFFFFFFFFFFFFFFFF).x 1 = 0x8000000000000000 ∧
    (with2 0x8000000000000000 0xFFFFFFFFFFFFFFFF).x 2 = 0xFFFFFFFFFFFFFFFF := by decide

theorem witness_ControlTransfers : ((with2 0x2000 0x2003).x 1).toNat % 4 = 0 ∧
    ((with2 0x2000 0x2003).x 2).toNat % 4 ≠ 0 := by decide

theorem witness_TrapsAndReturn : (0x0400012B : IWord).toNat % 64 = 0x2B ∧ (0x0400012B : IWord).toNat / 64 % 16 = 4 ∧
    (0x0400012B : IWord).toNat / 2 ^ 26 ≠ 0 ∧ (0x0400016B : IWord).toNat / 64 % 16 = 5 ∧
    super.hart.trap.priv = true ∧ ready.hart.trap.priv = false ∧
    ({ super with hart := { super.hart with irqSoft := some 1 } } : State).hart.irqSoft ≠ none ∧
    ({ super with hart := { super.hart with irqMail := some 1 } } : State).hart.irqMail ≠ none := by decide

theorem canonical_mapped : Canonical mapped := by unfold Canonical; decide +kernel
theorem canonical_super : Canonical super := by unfold Canonical; decide +kernel

theorem witness_TranslationFences : super.hart.trap.priv = true ∧ Canonical super ∧ super.poison = [] ∧
    (∀ n l, tget (super.core super.hart.core).l1 n = some l → l.poison = 0) ∧
    super.myCtx.vwbase.toNat * 2 ^ 40 ≤ (super.setX 1 0x10000000000 |>.x 1).toNat ∧
    (super.setX 1 0x10000000000 |>.x 1).toNat < super.myCtx.vwbase.toNat * 2 ^ 40 + 2 ^ 40 :=
  ⟨by decide, canonical_super, by decide, fun _ _ h => (by cases h), by decide, by decide⟩

theorem witness_CsrWrites : ready.hart.queue = [] ∧ super.hart.trap.priv = true ∧
    (((ready.setX 1 4).x 1).getLsbD 2 = false → False) ∧
    ((ready.setX 1 3).x 1).getLsbD 2 = (ready.setX 1 3).hart.csr.det ∧
    (((ready.setX 1 3).x 1).getLsbD 2 = true → (ready.setX 1 3).hart.csr.det = true) ∧
    (((ready.setX 1 4).x 1).getLsbD 2 = true → (ready.setX 1 4).hart.csr.det = false) := by decide

theorem witness_CsrAccess : ready.hart.queue = [] ∧ super.hart.trap.priv = true ∧ super.hart.saveIdx = some 0 ∧
    (0x800 ≤ (0x800 : BitVec 12).toNat ∧ 0x800 ≤ (0xFFF : BitVec 12).toNat ∧ ready.hart.trap.priv = false) ∧
    (0x016 ≤ (0x016 : BitVec 12).toNat ∧ (0x7FF : BitVec 12).toNat < 0x800) ∧
    (0x817 ≤ (0x817 : BitVec 12).toNat ∧ 0x817 ≤ (0xFFF : BitVec 12).toNat) ∧
    ((1 : Reg) ≠ 0 ∧ (0x000 : BitVec 12) ∈ ([0x000, 0x015] : List (BitVec 12)) ∧
      (0x815 : BitVec 12) ∈ ([0x808, 0x811, 0x814, 0x815] : List (BitVec 12))) := by decide

/-- x1 at an offset of the local window. -/
def atWindow (off : Nat) : State := mapped.setX 1 (0xFFFFFFFFFFC00000 + BitVec.ofNat 64 off)

theorem witness_WindowAccesses : InScratch (atWindow 4088) (ea (atWindow 4088) 1 0) 8 4088 ∧ 4088 % 8 = 0 ∧
    InScratch (atWindow 4095) (ea (atWindow 4095) 1 0) 1 4095 := by unfold InScratch; decide +kernel

/-- x1 at the mapped page, x2 at the vector window. -/
def atPage : State := (mapped.setX 1 0x2008).setX 2 0x10000000000

/-- The translation of x1. -/
def pageXlat : Xlat := ⟨0x200008, false, false, false, false, 0, 3⟩

/-- A line of L1 that holds the page's first 32 bytes, byte 8 of them dirty. -/
def line8 : L1Line := ⟨0x5500000000000000, 1, 0, 0x100, 0, false, 3, 1⟩

/-- The same with the line in L1. -/
def atPageL1 : State := atPage.setLine 0 0x2000 line8

theorem witness_PhysicalAccesses :
    (inWindow (ea atPage 1 0) = false ∧ (ea atPage 1 0).toNat % 8 = 0 ∧
      atPage.xlat .read (ea atPage 1 0) = .ok (pageXlat, atPage) ∧
      atPage.xlat .write (ea atPage 1 0) = .ok (pageXlat, atPage) ∧ Direct pageXlat 8 ∧ Canonical atPage ∧
      tget (atPage.core 0).l1 (pageXlat.pa / 256) = none ∧ Clear atPage pageXlat 8) ∧
    (atPageL1.xlat .read (ea atPageL1 1 0) = .ok (pageXlat, atPageL1) ∧ Canonical atPageL1 ∧
      tget (atPageL1.core 0).l1 (pageXlat.pa / 256) = some line8 ∧
      line8.valid.getLsbD (pageXlat.pa % 256 / 32) = true ∧
      (∀ i, i < 8 → line8.poison.getLsbD (pageXlat.pa % 256 + i) = false) ∧ line8.poison = 0 ∧
      line8.gran = pageXlat.gran ∧ line8.broken = 0 ∧ NoStaleCopy atPageL1 pageXlat ∧ Tbl.rising atPageL1.hostMem = true ∧
      Clear atPageL1 pageXlat 8) := by
  refine ⟨⟨by decide +kernel, by decide +kernel, ok_of (by decide +kernel), ok_of (by decide +kernel),
    by unfold Direct; decide, by unfold Canonical; decide +kernel, by decide +kernel, ?_⟩,
    ⟨ok_of (by decide +kernel), by unfold Canonical; decide +kernel, by decide +kernel, by decide +kernel,
      by decide +kernel, by decide, by decide, by decide, fun _ => rfl, rfl, ?_⟩⟩ <;>
  · exact ⟨fun _ _ => ⟨rfl, rfl⟩, fun _ _ _ => rfl⟩

/-- The page at the domain window of the device's own number, which loops back. -/
def remoteXlat : Xlat := ⟨0x200008, false, false, false, true, 0, 3⟩
def atRemote : State :=
  { atPage with
    mgmt := { atPage.mgmt with present := 1 }
    hart := { atPage.hart with tlb := [⟨0, 0x2000, 4096, 0xE0000002000EF⟩] } }

theorem witness_PhysicalAccesses_places :
    (let s : State := { atPage with hart := { atPage.hart with l0 := [(0x200008 / 64, 7)] } }
     s.xlat .read (ea s 1 0) = .ok (pageXlat, s) ∧ tget s.hart.l0 (pageXlat.pa / 64) = some 7 ∧ pageXlat.cache = 0 ∧
      pageXlat.lnk = false ∧ s.hart.lag = false) ∧
    (let s : State := { atPage with hart := { atPage.hart with relScl := true } }
     s.xlat .write (ea s 1 0) = .ok (pageXlat, s) ∧ s.hart.relScl = true ∧ s.hart.lag = false) ∧
    (atRemote.xlat .read (ea atRemote 1 0) = .ok (remoteXlat, atRemote) ∧ Canonical atRemote ∧
      atRemote.xlat .write (ea atRemote 1 0) = .ok (remoteXlat, atRemote) ∧ Direct remoteXlat 8 ∧ Clear atRemote remoteXlat 8) := by
  refine ⟨⟨ok_of (by decide +kernel), by decide +kernel, rfl, rfl, by decide +kernel⟩,
    ⟨ok_of (by decide +kernel), by decide +kernel, by decide +kernel⟩,
    ⟨ok_of (by decide +kernel), by unfold Canonical; decide +kernel, ok_of (by decide +kernel), by unfold Direct; decide, ?_⟩⟩
  exact ⟨fun _ _ => ⟨rfl, rfl⟩, fun _ _ _ => rfl⟩

theorem witness_ScalarAccessTraps : (ea (mapped.setX 1 0x2001) 1 0).toNat % 2 ≠ 0 ∧
    ((ea (atWindow 4092) 1 0).toNat % 4 = 0 ∧ inWindow (ea (atWindow 4096) 1 0) = true ∧
      (atWindow 4096).hart.bounds.scratch < windowOffset (ea (atWindow 4096) 1 0) + 1) ∧
    (inWindow (ea (ready.setX 1 0x8000000000000000) 1 0) = false ∧
      (ready.setX 1 0x8000000000000000).xlat .read 0x8000000000000000 = .error (.trap 0x100 0x8000000000000000)) ∧
    ((mapped.setX 1 0x2004).x 1).toNat % 8 ≠ 0 ∧ ((mapped.setX 1 0x2002).x 1).toNat % 4 ≠ 0 :=
  ⟨by decide +kernel, by decide +kernel, ⟨by decide +kernel, error_of (by decide +kernel)⟩, by decide +kernel, by decide +kernel⟩

theorem witness_ScalarAtomics : (Canonical (atWindow 4088) ∧ InScratch (atWindow 4088) ((atWindow 4088).x 1) 8 4088 ∧ 4088 % 8 = 0) ∧
    (Canonical atPageL1 ∧ inWindow (atPageL1.x 1) = false ∧ (atPageL1.x 1).toNat % 8 = 0 ∧
      atPageL1.xlat .rw (atPageL1.x 1) = .ok (pageXlat, atPageL1) ∧ isHost pageXlat.pa = false ∧ Direct pageXlat 8 ∧
      Clear atPageL1 pageXlat 8 ∧
      ∀ e, tget (atPageL1.core atPageL1.hart.core).l1 (pageXlat.pa / 256) = some e → e.poison = 0 ∧ e.gran = pageXlat.gran) := by
  refine ⟨⟨by unfold Canonical; decide +kernel, by unfold InScratch; decide +kernel, by decide⟩,
    by unfold Canonical; decide +kernel, by decide +kernel, by decide +kernel, ok_of (by decide +kernel),
    by decide, by unfold Direct; decide, ?_, ?_⟩
  · exact ⟨fun _ _ => ⟨rfl, rfl⟩, fun _ _ _ => rfl⟩
  · intro e he
    have : tget (atPageL1.core atPageL1.hart.core).l1 (pageXlat.pa / 256) = some line8 := by decide +kernel
    rw [← Option.some.inj (this.symm.trans he)]; exact ⟨by decide +kernel, by decide +kernel⟩

/-- A copy command that reads and writes the scratchpad. -/
def copy8 : CopyCmd := ⟨.queued, encode (.cpy 12 10 8 9 28), [0xFFFFFFFFFFC00000, 0xFFFFFFFFFFC00040, 8,
  0xFFFFFFFFFFFFFFFF, 0], [], 0, 0, 0, false, false, none, [], 0⟩

theorem witness_ScalarFormsComplete : (Canonical (atWindow 4088) ∧ (atWindow 4088).hart.scrBad = [] ∧
      InScratch (atWindow 4088) ((atWindow 4088).x 1) 8 4088 ∧ 4088 % 8 = 0) ∧
    (Canonical atPageL1 ∧ inWindow (atPageL1.x 1) = false ∧ (atPageL1.x 1).toNat % 8 = 0 ∧
      atPageL1.xlat .rw (atPageL1.x 1) = .ok (pageXlat, atPageL1) ∧ isHbm pageXlat.pa = true ∧ pageXlat.lnk = false ∧
      Direct pageXlat 8 ∧ Clear atPageL1 pageXlat 8 ∧
      ∀ e, tget (atPageL1.core atPageL1.hart.core).l1 (pageXlat.pa / 256) = some e → e.poison = 0 ∧ e.gran = pageXlat.gran) ∧
    (∀ c ∈ ({ mapped with hart := { mapped.hart with copyq := [copy8] } } : State).hart.copyq, c.on .lnk = false) := by
  refine ⟨⟨by unfold Canonical; decide +kernel, by decide +kernel, by unfold InScratch; decide +kernel, by decide⟩,
    ⟨by unfold Canonical; decide +kernel, by decide +kernel, by decide +kernel, ok_of (by decide +kernel),
    by decide, by decide, by unfold Direct; decide, ?_, ?_⟩, by decide +kernel⟩
  · exact ⟨fun _ _ => ⟨rfl, rfl⟩, fun _ _ _ => rfl⟩
  · intro e he
    have : tget (atPageL1.core atPageL1.hart.core).l1 (pageXlat.pa / 256) = some line8 := by decide +kernel
    rw [← Option.some.inj (this.symm.trans he)]; exact ⟨by decide +kernel, by decide +kernel⟩

theorem witness_FencesAct : Canonical mapped ∧ (Scope.die).wide = true ∧ (Scope.core).wide = false ∧
    FenceOrder.rel ≠ .acq ∧ (∀ p, ∀ c ∈ mapped.hart.copyq, c.on p = false) ∧
    (∃ c ∈ ({ mapped with hart := { mapped.hart with copyq := [copy8] } } : State).hart.copyq, c.on .cpy = true) ∧
    (∀ c ∈ [copy8], c.on .lnk = false) :=
  ⟨canonical_mapped, by decide, by decide, by decide, fun _ _ h => (by cases h), by decide +kernel, by decide +kernel⟩

theorem witness_WordWaits : Canonical (atWindow 16) ∧ (atWindow 16).hart.status = .running ∧
    (atWindow 16).hart.wait = .none ∧ (∃ v, WordAt (atWindow 16) ((atWindow 16).x 1) 8 v (atWindow 16)) ∧
    WordAt atPage (atPage.x 1) 8 0 atPage ∧ atPage.x 3 = 0 ∧ (atPage.setX 3 5).x 3 ≠ 0 := by
  refine ⟨by unfold Canonical; decide +kernel, by decide +kernel, by decide +kernel, ⟨_, by decide +kernel, .inl ⟨16, ?_, rfl, rfl, rfl⟩⟩,
    ⟨by decide +kernel, .inr ⟨pageXlat, by decide +kernel, ok_of (by decide +kernel), by unfold Direct; decide,
      ⟨fun _ _ => ⟨rfl, rfl⟩, fun _ _ _ => rfl⟩, fun _ => rfl, fun _ _ h => (by cases h), by decide +kernel⟩⟩,
    by decide +kernel, by decide +kernel⟩
  · unfold InScratch; decide +kernel

theorem witness_Barriers : (15 : BitVec 4).toNat < ready.hart.bounds.barriers ∧ ready.hart.status = .running ∧
    ready.hart.arrived.getLsbD 15 = false ∧ ready.hart.copyq = [] ∧
    (let s : State := { ready with
       cores := [(0, { Core.reset with phase := Vector.replicate 16 1 })], hart := { ready.hart with arrived := 0x8000 } }
     s.hart.arrived.getLsbD 15 = true ∧ s.hart.phase.get (15 : BitVec 4).toFin < (s.core 0).phase.get (15 : BitVec 4).toFin) ∧
    (let s : State := { ready with hart := { ready.hart with arrived := 0x8000 } }
     s.hart.arrived.getLsbD 15 = true ∧ ¬ s.hart.phase.get (15 : BitVec 4).toFin < (s.core 0).phase.get (15 : BitVec 4).toFin) := by
  decide +kernel

/-- f1 and f2 given. -/
def withF (a b : Word) : State := (ready.setF 1 a).setF 2 b

theorem witness_ScalarFpEdges :
    (IsNan false (src (withF 0x7F800001 0x3F800000) false 1) ∧ IsSig false (src (withF 0x7F800001 0x3F800000) false 1) ∧
      ¬ IsNan false (src (withF 0x7F800001 0x3F800000) false 2)) ∧
    (IsZero false (src (withF 0x80000000 0x7F800000) false 1) ∧ IsInf false (src (withF 0x80000000 0x7F800000) false 2)) ∧
    (IsInf true (src (withF 0x7FF0000000000000 0xFFF0000000000000) true 1) ∧
      IsInf true (src (withF 0x7FF0000000000000 0xFFF0000000000000) true 2) ∧
      signField true (src (withF 0x7FF0000000000000 0xFFF0000000000000) true 1) ≠
        signField true (src (withF 0x7FF0000000000000 0xFFF0000000000000) true 2)) ∧
    (IsZero true (src (withF 0 0) true 1) ∧ IsZero true (src (withF 0 0) true 2)) ∧
    (IsFinite false (src (withF 0x00000001 0) false 1) ∧ ¬ IsZero false (src (withF 0x00000001 0) false 1) ∧
      IsZero false (src (withF 0x00000001 0) false 2)) ∧
    (¬ IsNan false (src (withF 0xBF800000 0) false 1) ∧ ¬ IsZero false (src (withF 0xBF800000 0) false 1) ∧
      signField false (src (withF 0xBF800000 0) false 1) = true) ∧
    (IsNan false (src (withF 0 0x7FC00000) false 2) ∧ ¬ IsNan false (src (withF 0 0x7FC00000) false 1)) ∧
    (IsNan false (src (withF 0xFFC00000 0x7FC00000) false 2) ∧ IsNan false (src (withF 0xFFC00000 0x7FC00000) false 1)) := by
  simp only [IsNan, IsSig, IsZero, IsInf, IsFinite]
  decide +kernel

/-- A smaller and a larger number, and the two zeros. -/
theorem witness_ScalarFpEdges_order :
    valueOf false (src (withF 0x3F800000 0x40000000) false 1) < valueOf false (src (withF 0x3F800000 0x40000000) false 2) ∧
    valueOf false (src (withF 0x80000000 0) false 1) = valueOf false (src (withF 0x80000000 0) false 2) ∧
    signField false (src (withF 0x80000000 0) false 1) = true ∧
    signField false (src (withF 0x80000000 0) false 2) = false := by
  have h1 : src (withF 0x3F800000 0x40000000) false 1 = 0x3F800000 := by decide +kernel
  have h2 : src (withF 0x3F800000 0x40000000) false 2 = 0x40000000 := by decide +kernel
  have h3 : src (withF 0x80000000 0) false 1 = 0x80000000 := by decide +kernel
  have h4 : src (withF 0x80000000 0) false 2 = 0 := by decide +kernel
  rw [h1, h2, h3, h4]
  refine ⟨?_, ?_, by decide, by decide⟩ <;> simp [valueOf, signField, expField, fracField, Nat.testBit]; norm_num

theorem witness_ExactArithmetic : (0x00000001 < 2 ^ 32 ∧ IsFinite false 0x00000001) ∧
    (0x7FEFFFFFFFFFFFFF < 2 ^ 64 ∧ IsFinite true 0x7FEFFFFFFFFFFFFF) ∧ (1 : Nat) ≠ 0 := by
  simp only [IsFinite]; decide

theorem witness_RoundedOnce : ∀ rm : List Rm, rm = [.rne, .rtz, .rup, .rdn, .rmm] → ∀ m ∈ rm,
    ((fpFmt false).convert (.mode m) (.fin false 1 0 3)).flags.getLsbD 2 = false := by
  rintro _ rfl; decide +kernel

theorem witness_VectorConfiguration :
    (let v : BitVec 16 := 0x0B76
     v.toNat % 32 ≤ 22 ∧ v.toNat / 256 ≤ 11 ∧ v.getLsbD 7 = false) ∧
    (let v : BitVec 16 := 0x0C00
     ¬ (v.toNat % 32 ≤ 22 ∧ v.toNat / 256 ≤ 11 ∧ v.getLsbD 7 = false)) ∧
    Settled ready ∧ (31 : Reg).toNat < ready.hart.bounds.vregs ∧
    (let s : State := { ready with hart := { ready.hart with bounds := { ready.hart.bounds with vregs := 31 } } }
     s.hart.bounds.vregs ≤ (31 : Reg).toNat) ∧
    ((atWindow 8).x 1).toNat % 16 ≠ 0 ∧
    (Settled (atWindow 4080) ∧ ((atWindow 4080).x 1).toNat % 16 = 0 ∧ InScratch (atWindow 4080) ((atWindow 4080).x 1) 16 4080 ∧
      (atWindow 4080).hart.bounds.scratch ≤ 3670016) := by
  unfold Settled InScratch; decide +kernel

/-- The hart holds lanes 0 to 3 and its target is lanes 4 to 11, which another hart of the core may hold. -/
def moving (other : List Hart) : State :=
  { ready with others := other, hart := { ready.hart with target := ⟨8, 4⟩ } }

/-- A hart that holds lanes 8 to 11 of core 0. -/
def holder : Hart := { ready.hart with uid := 2 ^ 32 + 1, slot := 1, grant := ⟨4, 8⟩, target := ⟨4, 8⟩ }

theorem witness_GrantPoints :
    (∀ l ∈ [[], [holder]], (moving l).hart.bounds.vregs ≠ 0 ∧ (moving l).hart.queue = [] ∧
      (moving l).hart.reclaimed = false) ∧
    ((∀ h ∈ (moving []).others, h.core = (moving []).hart.core → h.holds = true → False) ∧
      (moving []).hart.required ≤ (moving []).hart.target.lanes ∧ (moving []).hart.target.lanes ≠ 0 ∧
      (moving []).hart.target.lanes ≠ (moving []).hart.grant.lanes) ∧
    (¬ (∀ h ∈ (moving [holder]).others, h.core = (moving [holder]).hart.core → h.holds = true →
        ¬ (h.grant.base < (moving [holder]).hart.target.base + (moving [holder]).hart.target.lanes ∧
          (moving [holder]).hart.target.base < h.grant.base + h.grant.lanes)) ∧
      (moving [holder]).hart.holds = true ∧ (moving [holder]).hart.grant.lanes ≠ 0) ∧
    (let s : State := { moving [holder] with hart := { (moving [holder]).hart with holds := false, x := Vector.replicate 32 1 } }
     s.hart.holds = false ∧ s.x 1 ≠ 0 ∧ s.others = [holder]) := by decide +kernel

theorem witness_VectorIntegerResults : Issues twoI ∧ isInt (etype twoI) ∧
    Fits twoI ([(31 : Reg).toNat, (1 : Reg).toNat] ++ srcFields (.vv 2)) ∧ Fits twoI [(31 : Reg).toNat, (1 : Reg).toNat] ∧
    (∀ r, VSrc.vv 2 ≠ .vf r) ∧ vs twoI < vl twoI ∧
    (Issues (typed ready 15 0) ∧ isInt (etype (typed ready 15 0)) ∧ vl (typed ready 15 0) ≤ vs (typed ready 15 0)) := by
  unfold Issues isInt Fits; exact ⟨by decide +kernel, by decide +kernel, by decide +kernel, by decide +kernel,
    fun r h => (by cases h), by decide +kernel, by decide +kernel⟩

/-- Two vectors of f32. -/
def twoF : State := withV (withV (typed ready 0 3) 1 32 [0x3F800000, 0x40000000, 0x7FC00000]) 2 32 [0, 0x3F800000, 1]

theorem witness_VectorFloatResults : Issues twoF ∧ etype twoF ≤ 2 ∧ etype (typed ready 2 0) ≤ 2 ∧
    Fits twoF ([(3 : Reg).toNat, (1 : Reg).toNat] ++ srcFields (.vv 2)) ∧ Fits twoF [(3 : Reg).toNat, (1 : Reg).toNat] ∧
    (∀ r, VSrc.vi 3 ≠ .vx r) ∧ vs twoF < vl twoF := by
  unfold Issues Fits; exact ⟨by decide +kernel, by decide +kernel, by decide +kernel, by decide +kernel, by decide +kernel,
    fun r h => (by cases h), by decide +kernel⟩

theorem witness_MaskResults : Issues twoI ∧ (1 : KReg) ≠ 0 ∧ Fits twoI ((1 : Reg).toNat :: srcFields (.vv 2)) ∧
    etype twoI ≤ 15 ∧ isInt (etype twoI) ∧ (∀ r, VSrc.vv 2 ≠ .vf r) ∧ (Issues twoF ∧ etype twoF ≤ 7 ∧
      Fits twoF ((1 : Reg).toNat :: srcFields (.vv 2))) ∧ vs twoI < vl twoI ∧ twoI.hart.grant.lanes ≤ 64 ∧
    vl twoI ≤ group twoI * perReg twoI (width twoI) := by
  unfold Issues isInt Fits; exact ⟨by decide +kernel, by decide, by decide +kernel, by decide +kernel, by decide +kernel,
    fun r h => (by cases h), by decide +kernel, by decide +kernel, by decide +kernel, by decide +kernel⟩

theorem witness_VectorPermutes : Issues twoI ∧ etype twoI ≤ 15 ∧ Fits twoI [(3 : Reg).toNat, (1 : Reg).toNat, (2 : Reg).toNat] ∧
    Matches (.vx 1) (etype twoI) ∧ Matches (.vf 1) (etype twoF) ∧ vl twoI ≠ 0 ∧ vl (typed ready 10 0) = 0 := by
  unfold Issues Fits Matches isInt; decide +kernel

theorem witness_VectorReductions : Issues twoF ∧ etype twoF ≤ 15 ∧
    Fits twoF [(3 : Reg).toNat, (1 : Reg).toNat, (2 : Reg).toNat] ∧ twoF.hart.csr.det = false ∧
    (let s : State := twoF.setCsr { twoF.hart.csr with det := true }
     Issues s ∧ Fits s [(3 : Reg).toNat, (1 : Reg).toNat, (2 : Reg).toNat] ∧ s.hart.csr.det = true) := by
  unfold Issues Fits; decide +kernel

theorem scaleOfSrc_one (s : State) (D : Desc) (f n : Nat) (h : D.scale = 1) : scaleOfSrc s D f n = [f + group s] := by
  unfold scaleOfSrc; exact if_pos (.inl h)

theorem scaleOfSrc_zero (s : State) (D : Desc) (f n : Nat) (h : D.scale = 0) : scaleOfSrc s D f n = [] := by
  unfold scaleOfSrc; refine if_neg ?_
  rintro (h' | h' | h') <;> [skip; skip; replace h' := h'.1] <;> rw [h] at h' <;> cases h'

/-- The hart with 16 lanes. -/
def wide : State := { ready with hart := { ready.hart with grant := ⟨16, 0⟩, target := ⟨16, 0⟩ } }

/-- A type, VL and a descriptor in x15. -/
def narrow (vt : BitVec 16) (vl : BitVec 17) (D : Word) : State := (typed wide vt vl).setX 15 D

/-- vdot16 v8, v2, v4, x15 with e4m3 sources under block scales in v3 and v5. -/
theorem witness_NarrowResults_dot : let s := narrow 4 40 0x10044
    let D := Desc.of (s.x 15)
    Issues s ∧ Fits s [(8 : Reg).toNat, (2 : Reg).toNat] ∧ fmtWidth D.src1 = width s ∧
    (D.rnd = 6 → (15 : Reg).toNat ≤ 29) ∧ D.check (dotAccept D) (s.x 15) = .ok () ∧ Fits s [(4 : Reg).toNat] ∧
    Scales s (scaleOfSrc s D 2 D.src1 ++ scaleOfSrc s D 4 D.src2) ∧
    Apart (group s) [(8, group s)] 32 [(2, 8), (4, 8)] (scaleOfSrc s D 2 D.src1 ++ scaleOfSrc s D 4 D.src2) ∧
    vl s ≠ 0 := by
  intro s D
  have h : D.scale = 1 := by decide +kernel
  rw [scaleOfSrc_one _ _ _ _ h, scaleOfSrc_one _ _ _ _ h]
  unfold Issues Fits Scales Apart
  exact ⟨by decide +kernel, by decide +kernel, by decide +kernel, by decide +kernel, ok_of (by decide +kernel),
    by decide +kernel, by decide +kernel, .inr (by decide +kernel), by decide +kernel⟩

/-- vdeq of e4m3 to f32 without a scale, vcvt of f32 to bf16. -/
theorem witness_NarrowResults_convert : (let s := narrow 4 40 0x0004
      let D := Desc.of (s.x 15)
      Issues s ∧ Fits s [(8 : Reg).toNat, (2 : Reg).toNat] ∧ fmtWidth D.src1 = width s ∧
      D.check deqAccept (s.x 15) = .ok () ∧ Scales s (scaleOfSrc s D 2 D.src1) ∧
      Apart (group s) [(8, group s)] (fmtWidth D.dst) [(2, 8)] (scaleOfSrc s D 2 D.src1) ∧
      vl s ≤ group s * perReg s (fmtWidth D.dst) ∧ vs s < vl s) ∧
    (let s := narrow 0 40 0x0100
      let D := Desc.of (s.x 15)
      Issues s ∧ Fits s [(8 : Reg).toNat, (2 : Reg).toNat] ∧ fmtWidth D.src1 = width s ∧
      D.check cvtAccept (s.x 15) = .ok () ∧ Scales s [] ∧
      Apart (group s) [(8, group s)] (fmtWidth D.dst) [(2, 32)] [] ∧ vl s ≤ group s * perReg s (fmtWidth D.dst)) := by
  constructor
  · intro s D
    have h : D.scale = 0 := by decide +kernel
    rw [scaleOfSrc_zero _ _ _ _ h]
    unfold Issues Fits Scales Apart
    exact ⟨by decide +kernel, by decide +kernel, by decide +kernel, ok_of (by decide +kernel),
      by decide +kernel, .inr (by decide +kernel), by decide +kernel, by decide +kernel⟩
  · intro s D
    unfold Issues Fits Scales Apart
    exact ⟨by decide +kernel, by decide +kernel, by decide +kernel, ok_of (by decide +kernel),
      by decide +kernel, .inr (by decide +kernel), by decide +kernel⟩

/-- vquant of f32 to e4m3 with block scales in v9; vbpack and vbunpack of i8. -/
theorem witness_NarrowResults_pack : (let s := narrow 0 40 0x10400
      let D := Desc.of (s.x 15)
      Issues s ∧ Fits s [(8 : Reg).toNat, (2 : Reg).toNat] ∧ fmtWidth D.src1 = width s ∧
      D.check quantAccept (s.x 15) = .ok () ∧ Scales s [(8 : Nat) + group s] ∧
      Apart (group s) [(8, group s), (8 + group s, 1)] (fmtWidth D.dst) [(2, 32)] [] ∧ vl s ≠ 0) ∧
    (let s := narrow 8 1000 0x0A08
      let D := Desc.of (s.x 15)
      Issues s ∧ Fits s [(8 : Reg).toNat, (2 : Reg).toNat] ∧ fmtWidth D.src1 = width s ∧
      1024 ≤ group s * perReg s 8 ∧ Apart (group s) [(8, group s)] 8 [(2, 8)] [] ∧
      D.check packAccept (s.x 15) = .ok () ∧ vl s ≠ 0) ∧
    (let s := narrow 8 1000 0x1C080A
      let D := Desc.of (s.x 15)
      Issues s ∧ Fits s [(8 : Reg).toNat, (2 : Reg).toNat] ∧ fmtWidth D.src1 = width s ∧
      1024 ≤ group s * perReg s 8 ∧ D.check unpackAccept (s.x 15) = .ok () ∧ vl s ≠ 0) := by
  refine ⟨?_, ?_, ?_⟩ <;> intro s D <;> unfold Issues Fits
  · unfold Scales Apart
    exact ⟨by decide +kernel, by decide +kernel, by decide +kernel, ok_of (by decide +kernel),
      by decide +kernel, .inr (by decide +kernel), by decide +kernel⟩
  · unfold Apart
    exact ⟨by decide +kernel, by decide +kernel, by decide +kernel, by decide +kernel,
      .inr (by decide +kernel), ok_of (by decide +kernel), by decide +kernel⟩
  · exact ⟨by decide +kernel, by decide +kernel, by decide +kernel, by decide +kernel,
      ok_of (by decide +kernel), by decide +kernel⟩

/-- Two heads of 4 elements; x5 at the scratchpad's start. -/
def heads : State := typed ready 0x0300 8

theorem witness_AttentionChain : Issues heads ∧ ChainFits heads [(2 : Reg).toNat] ∧ ChainFits heads [] ∧
    OffsetFits heads (heads.x 5).toNat (64 * vl heads) ∧ headCount heads = 2 ∧ (1 : KReg) ≠ 0 ∧
    (let s : State := { heads with hart := { heads.hart with chain := { heads.hart.chain with buf := .scored } } }
     ChainFits s [] ∧ s.hart.chain.buf = .scored) := by
  unfold Issues ChainFits OffsetFits Fits; decide +kernel

theorem witness_SelectionAndSampling : Issues twoF ∧ Fits twoF [(3 : Reg).toNat, (1 : Reg).toNat, (2 : Reg).toNat] ∧
    Fits twoF [(3 : Reg).toNat] ∧ etype twoF = 0 ∧
    (let s := twoF.setX 5 0x100000000
     (s.x 5).toNat / 2 ^ 48 = 0 ∧ 1 ≤ (s.x 5).toNat / 2 ^ 32 % 2 ^ 16 ∧ (s.x 5).toNat / 2 ^ 32 % 2 ^ 16 ≤ 1024 ∧
     (s.x 5).toNat / 2 ^ 32 % 2 ^ 16 ≤ group s * perReg s 32 ∧
     OffsetFits s ((s.x 5).toNat % 2 ^ 32) (8 * vl s * ((s.x 5).toNat / 2 ^ 32 % 2 ^ 16))) ∧
    (1 ≤ ((twoF.setX 5 64).x 5).toNat ∧ ((twoF.setX 5 64).x 5).toNat ≤ 64) ∧
    rankIn twoF 1 (candidates twoF 0 0 (vl twoF)) 1 = 0 ∧ 1 ∈ candidates twoF 0 0 (vl twoF) ∧
    (segLen twoF = 3 ∧ 0 < (vl twoF + segLen twoF - 1) / segLen twoF) ∧ vl twoF ≠ 0 := by
  unfold Issues Fits OffsetFits; decide +kernel

/-- Addresses for vector memory: x1 in the local window, x2 in the vector window, x4 the stride 4. -/
def vmem : State := ((withV (withV (typed mapped 10 2) 3 32 [5, 6]) 4 32 [0, 4]).setX 1 0xFFFFFFFFFFC00FF8).setX 2
  0x10000000020 |>.setX 4 4

theorem canonical_vmem : Canonical vmem := by unfold Canonical; decide +kernel

/-- The translation of the vector window's first page at an offset. -/
def vecXlat (o : Nat) : Xlat := ⟨0x4000000 + o, false, false, false, false, 0, 3⟩

theorem quiet_vec (s : State) (hp : s.poison = []) (hb : s.broken = []) (hg : s.grain = []) (hl : (s.core s.hart.core).l1 = []) (o n : Nat) :
    Quiet s (vecXlat o) n := by
  unfold Quiet State.grainOf
  rw [hp, hb, hg, hl]
  exact ⟨fun _ _ _ _ => ⟨rfl, rfl⟩, fun _ _ _ _ _ => rfl, fun _ _ _ _ h => by cases h⟩

theorem reads_vec (s : State) (hp : s.poison = []) (hb : s.broken = []) (hg : s.grain = []) (hl : (s.core s.hart.core).l1 = [])
    (hh : s.hostMem = []) (far : Xlat → Bool) (va : Word) (o n : Nat) (h : va.toNat % n = 0) (hw : inWindow va = false)
    (hx : s.xlatVec true false va = .ok (vecXlat o)) :
    ReadsAs s far 3 va n fun i => seen s (far (vecXlat o)) (0x4000000 + o + i) := by
  refine ⟨h, .inr ⟨vecXlat o, hw, hx, rfl, fun _ => hh, fun h => (by cases h), fun h => (by cases h),
    fun _ _ => ⟨rfl, quiet_vec s hp hb hg hl o n, fun i _ => rfl⟩⟩⟩

/-- vld v3, (x2): two elements of the vector window; the strided and indexed forms read the same. -/
theorem witness_VectorLoads : Issues vmem ∧ Canonical vmem ∧ Fits vmem [(3 : Reg).toNat] ∧ etype vmem ≤ 15 ∧
    IndexFits vmem 4 ∧ vs vmem < vl vmem ∧ ∀ m ∈ vloads vmem 3 2 4 0 0, ∀ u ∈ unitsOn vmem 0,
      ReadsAs vmem m.2.1 3 (m.2.2 u) (unitSize vmem)
        fun i => seen vmem (m.2.1 (vecXlat (32 + 4 * u))) (0x4000000 + (32 + 4 * u) + i) := by
  refine ⟨by unfold Issues; decide +kernel, canonical_vmem, by unfold Fits; decide +kernel, by decide +kernel,
    by unfold IndexFits; decide +kernel, by decide +kernel, ?_⟩
  intro m hm u hu
  have hu' : u = 0 ∨ u = 1 := by
    have : unitsOn vmem 0 = [0, 1] := by decide +kernel
    rw [this] at hu; simpa using hu
  have hn : unitSize vmem = 4 := by decide +kernel
  have hc : ∀ u, u = 0 ∨ u = 1 → ∀ m ∈ vloads vmem 3 2 4 0 0, m.2.2 u = 0x10000000020 + BitVec.ofNat 64 (4 * u) := by
    rintro u (rfl | rfl) m hm <;>
    · simp only [vloads, List.mem_cons, List.not_mem_nil, or_false] at hm
      rcases hm with rfl | rfl | rfl | rfl | rfl | rfl <;> decide +kernel
  rw [hc u hu' m hm, hn]
  rcases hu' with rfl | rfl <;>
    exact reads_vec _ rfl rfl rfl rfl rfl _ _ _ 4 (by decide +kernel) (by decide +kernel) (ok_of (by decide +kernel))

/-- A BPI tile of two planes at the vector window, for a hart of 16 lanes. -/
def bpi : State :=
  (typed { mapped with hart := { mapped.hart with grant := ⟨16, 0⟩, target := ⟨16, 0⟩ } } 16 1000).setX 2 0x10000000000

theorem witness_VectorLoads_planes : Issues bpi ∧ Canonical bpi ∧ Fits bpi [(30 : Reg).toNat] ∧ 16 ≤ etype bpi ∧ etype bpi ≤ 22 ∧
    (30 : Reg).toNat + group bpi ≤ 31 ∧ (30 : Reg).toNat + group bpi < bpi.hart.bounds.vregs ∧
    1024 ≤ group bpi * perReg bpi 8 ∧ (bpi.x 2).toNat % 32 = 0 ∧ vl bpi ≠ 0 ∧
    ∀ (far : Xlat → Bool) (t c : Nat), vs bpi / 1024 ≤ t → t < (vl bpi + 1023) / 1024 → c ≤ 4 * (etype bpi - 14) →
      ReadsAs bpi far 3 (bpi.x 2 + BitVec.ofNat 64 (1056 * t + 32 * c)) 32
        fun i => seen bpi (far (vecXlat (32 * c))) (0x4000000 + 32 * c + i) := by
  refine ⟨by unfold Issues; decide +kernel, by unfold Canonical; decide +kernel, by unfold Fits; decide +kernel,
    by decide +kernel, by decide +kernel, by decide +kernel, by decide +kernel, by decide +kernel, by decide +kernel,
    by decide +kernel, ?_⟩
  intro far t c _ ht hc
  have e1 : (vl bpi + 1023) / 1024 = 1 := by decide +kernel
  have e2 : 4 * (etype bpi - 14) = 8 := by decide +kernel
  have h : ∀ c : Fin 9, (bpi.x 2 + BitVec.ofNat 64 (1056 * 0 + 32 * c.val)).toNat % 32 = 0 ∧
      inWindow (bpi.x 2 + BitVec.ofNat 64 (1056 * 0 + 32 * c.val)) = false ∧
      (bpi.xlatVec true false (bpi.x 2 + BitVec.ofNat 64 (1056 * 0 + 32 * c.val))).toOption = some (vecXlat (32 * c.val)) := by
    decide +kernel
  have h' := h ⟨c, by rw [e2] at hc; exact Nat.lt_succ_of_le hc⟩
  have ht0 : t = 0 := by rw [e1] at ht; exact Nat.lt_one_iff.mp ht
  rw [ht0]
  exact reads_vec _ rfl rfl rfl rfl rfl _ _ _ 32 h'.1 h'.2.1 (ok_of h'.2.2)

/-- Targets of the vector window's first page. -/
def vecTarget (u : Nat) : Target := .phys (vecXlat (32 + 4 * u))

/-- The units of vmem write to the vector window, for a store and for an atomic. -/
theorem writes_vmem (rd : Bool) : ∀ u ∈ unitsOn vmem 0, WritesTo vmem rd 3 (indexAddrOf vmem 2 4 u) (unitSize vmem) (vecTarget u) := by
  intro u hu
  have hu' : u = 0 ∨ u = 1 := by
    have : unitsOn vmem 0 = [0, 1] := by decide +kernel
    rw [this] at hu; simpa using hu
  have hn : unitSize vmem = 4 := by decide +kernel
  rw [hn]
  rcases hu' with rfl | rfl <;> cases rd <;>
    exact ⟨by decide +kernel, .inr ⟨_, by decide +kernel, ok_of (by decide +kernel), rfl, rfl, rfl,
      fun _ => rfl, fun i l _ h => (by cases h), fun _ => ⟨by decide +kernel, quiet_vec _ rfl rfl rfl rfl _ _⟩, rfl⟩⟩

theorem witness_VectorStores : Issues vmem ∧ Canonical vmem ∧ Fits vmem [(3 : Reg).toNat] ∧ etype vmem ≤ 15 ∧
    IndexFits vmem 4 ∧ vs vmem < vl vmem ∧ ∀ m ∈ vstores vmem 3 2 4 0 0, ∀ u ∈ unitsOn vmem 0,
      WritesTo vmem false 3 (m.2.2 u) (unitSize vmem) (vecTarget u) := by
  refine ⟨by unfold Issues; decide +kernel, canonical_vmem, by unfold Fits; decide +kernel, by decide +kernel,
    by unfold IndexFits; decide +kernel, by decide +kernel, ?_⟩
  intro m hm u hu
  have hu' : u = 0 ∨ u = 1 := by
    have : unitsOn vmem 0 = [0, 1] := by decide +kernel
    rw [this] at hu; simpa using hu
  have hc : ∀ u, u = 0 ∨ u = 1 → ∀ m ∈ vstores vmem 3 2 4 0 0, m.2.2 u = indexAddrOf vmem 2 4 u := by
    rintro u (rfl | rfl) m hm <;>
    · simp only [vstores, List.mem_cons, List.not_mem_nil, or_false] at hm
      rcases hm with rfl | rfl | rfl | rfl <;> decide +kernel
  rw [hc u hu' m hm]
  exact writes_vmem false u hu

theorem witness_VectorAtomics : Issues vmem ∧ Canonical vmem ∧ Fits vmem [(3 : Reg).toNat] ∧ IndexFits vmem 4 ∧
    etype vmem ∈ [10, 11, 14, 15] ∧ vs vmem < vl vmem ∧ vmem.hart.csr.det = false ∧
    (vmem.setCsr { vmem.hart.csr with det := true }).hart.csr.det = true ∧
    ∀ u ∈ unitsOn vmem 0, WritesTo vmem true 3 (indexAddrOf vmem 2 4 u) (unitSize vmem) (vecTarget u) :=
  ⟨by unfold Issues; decide +kernel, canonical_vmem, by unfold Fits; decide +kernel, by unfold IndexFits; decide +kernel,
    by decide +kernel, by decide +kernel, by decide +kernel, by decide +kernel, writes_vmem true⟩

/-- Two flags of n64 in the vector window. -/
def flags2 : State := withV (withV (typed mapped 15 2) 2 64 [0x10000000020, 0x10000000028]) 4 64 [1, 0]

theorem witness_FlagWaits : Issues flags2 ∧ Canonical flags2 ∧ (1 : KReg) ≠ 0 ∧ etype flags2 = 15 ∧
    Fits flags2 [(4 : Reg).toNat] ∧ group flags2 * 64 / width flags2 = 1 ∧
    (2 : Reg).toNat + group flags2 * 64 / width flags2 ≤ flags2.hart.bounds.vregs ∧ flags2.hart.status = .running ∧
    flags2.hart.wait = .none ∧ ((List.range (vl flags2)).filter fun e => on flags2 0 e) = [0, 1] ∧
    ((List.range (vl flags2)).filter fun e => on flags2 1 e) = [] ∧
    (∀ e ∈ [0, 1], (ReadsAs flags2 (fun _ => true) 3 (BitVec.ofNat 64 (flags2.elem 2 64 e)) 8
        fun i => seen flags2 true (0x4000000 + (32 + 8 * e) + i)) ∧
      ∀ p, flags2.xlatVec true false (BitVec.ofNat 64 (flags2.elem 2 64 e)) = .ok p → isHost p.pa = false) ∧
    flags2.x 3 = 0 ∧ (flags2.setX 3 9).x 3 ≠ 0 := by
  refine ⟨by unfold Issues; decide +kernel, by unfold Canonical; decide +kernel, by decide, by decide +kernel,
    by unfold Fits; decide +kernel, by decide +kernel, by decide +kernel, by decide +kernel, by decide +kernel,
    by decide +kernel, by decide +kernel, ?_, by decide +kernel, by decide +kernel⟩
  intro e he
  have hx : ∀ e, e = 0 ∨ e = 1 → flags2.xlatVec true false (BitVec.ofNat 64 (flags2.elem 2 64 e)) =
      .ok (vecXlat (32 + 8 * e)) := by
    rintro e (rfl | rfl) <;> exact ok_of (by decide +kernel)
  have he' : e = 0 ∨ e = 1 := by simpa using he
  refine ⟨reads_vec _ rfl rfl rfl rfl rfl _ _ _ 8 ?_ ?_ (hx e he'), fun p hp => ?_⟩
  · rcases he' with rfl | rfl <;> decide +kernel
  · rcases he' with rfl | rfl <;> decide +kernel
  · rw [hx e he'] at hp; cases hp; rcases he' with rfl | rfl <;> decide +kernel

/-- An e4m3 tile of K rows staged in tb0, with its descriptor in x15 and the vector window in x9. -/
def tiled (vl : BitVec 17) (k : Nat) : State :=
  let s := ((typed mapped 4 vl).setX 15 0x44).setX 9 0x10000000000
  { s with hart := { s.hart with tb := #v[some ⟨0, 0x44, k, 0, []⟩, none], bounds := { s.hart.bounds with paired := true } } }

/-- Where nothing is poisoned or in error, a byte has no flaw. -/
theorem flaw_none (s : State) (hp : s.poison = []) (hb : s.broken = []) (pa : Nat) : s.flaw pa = .none := by
  simp [State.flaw, State.poisoned, hp, hb]

/-- mtile tb1, (x9), x15 with K = 1: four sectors. -/
theorem witness_MatrixResults_tile : let s := tiled 1 1
    let D := Desc.of (s.x 15)
    Issues s ∧ fmtWidth D.src2 = width s ∧ D.check tileAccept (s.x 15) = .ok () ∧
    vl s ≤ group s * perReg s (width s) ∧ tileKOk D.src2 (vl s) = true ∧ (s.x 9).toNat % 256 = 0 ∧
    inWindow (s.x 9) = false ∧
    ∀ o n, TilePiece D (vl s) o n → L2Reads s (s.x 9 + BitVec.ofNat 64 o) n fun i => cellGet s.mem (0x4000000 + o + i) := by
  intro s D
  refine ⟨by unfold Issues; decide +kernel, by decide +kernel, ok_of (by decide +kernel), by decide +kernel,
    by decide +kernel, by decide +kernel, by decide +kernel, ?_⟩
  intro o n h
  have h1 : D.src2 = 4 := by decide +kernel
  have h2 : D.scale = 0 := by decide +kernel
  have h3 : vl s = 1 := by decide +kernel
  have hw : fmtWidth 4 = 8 := by decide
  unfold TilePiece at h
  rw [h1, h2, h3, hw, if_neg (by decide)] at h
  obtain ⟨c, rfl, hc, rfl⟩ := h
  have hc' : c < 4 := by
    have : 32 * c < 128 := hc
    exact (Nat.mul_lt_mul_left (by decide : 0 < 32)).mp this
  have hx : ∀ c : Fin 4, inWindow (s.x 9 + BitVec.ofNat 64 (32 * c.val)) = false ∧
      (s.xlatVec true false (s.x 9 + BitVec.ofNat 64 (32 * c.val))).toOption = some (vecXlat (32 * c.val)) := by
    decide +kernel
  have hx' := hx ⟨c, hc'⟩
  refine ⟨vecXlat (32 * c), hx'.1, ok_of hx'.2, rfl, ?_, fun h => (by cases h), fun _ i _ => ⟨rfl, flaw_none _ rfl rfl _, fun _ => rfl⟩⟩
  have : ∀ c : Fin 4, isHost (vecXlat (32 * c.val)).pa = false := by decide +kernel
  exact this ⟨c, hc'⟩

/-- mrow and mrow.sp with the tile of tb0; mzero, mread at row 63. -/
theorem witness_MatrixResults_row : (let s := tiled 1 1
      let D := Desc.of (s.x 15)
      tileIn s false = some ⟨0, 0x44, 1, 0, []⟩ ∧ vl s = 1 ∧
      ProductFits s 7 (.const 63) 4 15 ⟨0, 0x44, 1, 0, []⟩ (scaleOfSrc s D (4 : Reg).toNat D.src1)) ∧
    (let s := tiled 4 32
      let D := Desc.of (s.x 15)
      let N := vl s * 32 / 32
      tileIn s false = some ⟨0, 0x44, 32, 0, []⟩ ∧ N = 4 ∧ vl s = N * (32 / 32) ∧
      ProductFits s 7 (.reg 1) 4 15 ⟨0, 0x44, 32, 0, []⟩
        (((4 : Reg).toNat + group s) :: (scaleOfSrc s D (4 : Reg).toNat D.src1).map (· + 1))) ∧
    (7 : AccReg).toNat < ready.hart.bounds.accs ∧
    (let s := typed wide 0 128;
      Issues s ∧ Fits s [(3 : Reg).toNat] ∧ width s = 32 ∧ vl s ≤ 128 ∧ Claims.rowOf s (.const 63) < 64) := by
  refine ⟨?_, ?_, by decide +kernel, by unfold Issues Fits; decide +kernel⟩ <;> intro s D
  · have h : D.scale = 0 := by decide +kernel
    rw [scaleOfSrc_zero _ _ _ _ h]
    unfold ProductFits Fits
    exact ⟨by decide +kernel, by decide +kernel, by decide +kernel, by decide +kernel, by decide +kernel, by decide +kernel,
      ok_of (by decide +kernel), by decide +kernel, by decide +kernel, by decide +kernel, by decide +kernel⟩
  · have h : D.scale = 0 := by decide +kernel
    rw [scaleOfSrc_zero _ _ _ _ h]
    unfold ProductFits Fits
    exact ⟨by decide +kernel, by decide +kernel, by decide +kernel, by decide +kernel, by decide +kernel, by decide +kernel, by decide +kernel,
      ok_of (by decide +kernel), by decide +kernel, by decide +kernel, by decide +kernel, by decide +kernel⟩

/-- mepi of a row to bf16 at the vector window. -/
def epilogue : State := ((typed mapped 0 4).setX 15 0x0100).setX 9 0x10000000000

theorem witness_MatrixResults_epi : (7 : AccReg).toNat < epilogue.hart.bounds.accs ∧ width epilogue = 32 ∧
    epiCheck (Desc.of (epilogue.x 15)) 15 (epilogue.x 15) = .ok () ∧ Claims.rowOf epilogue (.const 5) < 64 ∧
    (epilogue.x 9).toNat % 32 = 0 ∧ inWindow (epilogue.x 9) = false ∧
    (∀ c, 32 * c < 128 * (fmtWidth (Desc.of (epilogue.x 15)).dst / 8) →
      inWindow (epilogue.x 9 + BitVec.ofNat 64 (32 * c)) = false ∧
      epilogue.xlatVec false true (epilogue.x 9 + BitVec.ofNat 64 (32 * c)) = .ok (vecXlat (32 * c)) ∧
      (vecXlat (32 * c)).mig = false ∧ (vecXlat (32 * c)).seq = false ∧ isHost (vecXlat (32 * c)).pa = false) ∧
    (∀ c, tget epilogue.hart.acc (64 * (7 : AccReg).toNat + 5) = some c →
      rowPasses c (decide ((Desc.of (epilogue.x 15)).src1 = 11)) = true) := by
  refine ⟨by decide +kernel, by decide +kernel, ok_of (by decide +kernel), by decide +kernel, by decide +kernel,
    by decide +kernel, ?_, fun c h => (by cases h)⟩
  intro c hc
  have e : 128 * (fmtWidth (Desc.of (epilogue.x 15)).dst / 8) = 256 := by decide +kernel
  have hc' : c < 8 := by
    rw [e] at hc
    exact (Nat.mul_lt_mul_left (by decide : 0 < 32)).mp (show 32 * c < 32 * 8 from hc)
  have hx : ∀ c : Fin 8, inWindow (epilogue.x 9 + BitVec.ofNat 64 (32 * c.val)) = false ∧
      (epilogue.xlatVec false true (epilogue.x 9 + BitVec.ofNat 64 (32 * c.val))).toOption = some (vecXlat (32 * c.val)) ∧
      isHost (vecXlat (32 * c.val)).pa = false := by decide +kernel
  have h := hx ⟨c, hc'⟩
  exact ⟨h.1, ok_of h.2.1, rfl, rfl, h.2.2⟩

/-- The odd partner waits at its mrow.p, and the even one arrives. -/
def paired : State :=
  let s := tiled 1 1
  { s with others := [{ s.hart with
      uid := 2 ^ 32 + 1, slot := 1, status := .sleeping, wait := .pair 0 6 2 4 false 0x44 0
      tb := #v[some ⟨0, 0x44, 1, 0, []⟩, none] }] }

theorem witness_MatrixResults_pair : ∃ u, paired.focus (if paired.hart.uid % 2 = 0 then paired.hart.uid + 1 else paired.hart.uid - 1) =
      some u ∧ paired.others.length = 1 ∧ u.hart.wait = .pair 0 6 2 4 false 0x44 0 ∧ u.hart.pairs = paired.hart.pairs ∧
    tileIn paired false = some ⟨0, 0x44, 1, 0, []⟩ ∧ tileIn u false = some ⟨0, 0x44, 1, 0, []⟩ ∧
    (paired.x 15).setWidth 32 = (0x44 : Word).setWidth 32 ∧ paired.hart.bounds.paired = true ∧
    ProductFits paired 7 (.const 0) 4 15 ⟨0, 0x44, 1, 0, []⟩ (scaleOfSrc paired (Desc.of (paired.x 15)) 4 4) ∧ vl paired = 1 ∧
    Issues paired := by
  have h : (Desc.of (paired.x 15)).scale = 0 := by decide +kernel
  rw [scaleOfSrc_zero _ _ _ _ h]
  unfold ProductFits Fits Issues
  exact ⟨_, rfl, by decide +kernel, by decide +kernel, by decide +kernel, by decide +kernel, by decide +kernel, by decide +kernel,
    by decide +kernel, ⟨by decide +kernel, by decide +kernel, by decide +kernel, by decide +kernel, ok_of (by decide +kernel),
      by decide +kernel, by decide +kernel, by decide +kernel, by decide +kernel⟩, by decide +kernel, by decide +kernel⟩

/-- The partner's bound passed, and not passed, at the arrival. -/
theorem witness_MatrixResults_late : (let s : State := { paired with time := 1000000000 }
      (match s.focus (s.hart.uid + 1) with | some u => decide (u.hart.csr.pairto.toNat < s.laneCycles 0) | none => false) = true) ∧
    (match paired.focus (paired.hart.uid + 1) with | some u => decide (paired.laneCycles 0 ≤ u.hart.csr.pairto.toNat) | none => false) =
      true := by decide +kernel

/-- A live sequence of 18 slots of 64 bytes: 16 visible, two reserved through sq0. -/
def seq18 : Seq where
  gen := 1
  voids := 0
  root := 0x4001000
  cls := 0
  slotlog := 0
  refcnt := 1
  forklen := 0
  parent := none
  rlen := 18
  clen := 16
  pending := []
  resv := [⟨16, 2, 2 ^ 32, 0⟩]
  leaves := [(0, 0x4002000)]
  blocks := [(0, 0x4100000), (1, 0x4102000)]

/-- Its context, with a record of it, and free storage. -/
def seqCtx (q : Seq) : Ctx :=
  { Ctx.reset with
    arenaEn := true, arenaLog := 2, seqs := [(3, q)], blocks := [(0x4100000, ⟨8192, 1, 0⟩), (0x4102000, ⟨8192, 1, 0⟩)]
    poolNext := 0x4200000, poolEnd := 0x4300000 }

/-- sq0 bound to it; x5 and x6 given. -/
def seqs (q : Seq) (a n : Word) : State :=
  let s := (ready.setX 5 a).setX 6 n
  { s with
    ctxs := [(0, seqCtx q)]
    hart := { s.hart with sq := #v[some ⟨0x100003, 16⟩, none, none, none, none, none, none, none] } }

theorem some_of {α : Type} {o : Option α} (h : o.isSome = true) : ∃ a, o = some a := Option.isSome_iff_exists.mp h

theorem witness_SequenceControl_reserve : (seqs seq18 0 0).hart.queue = [] ∧ BoundTo (seqs seq18 0 0) 0 ⟨0x100003, 16⟩ 3 seq18 ∧
    ((seqs seq18 0 0).x 6).toNat = 0 ∧ 1024 < ((seqs seq18 0 1025).x 6).toNat ∧
    (let q := { seq18 with rlen := 2 ^ 20 }
     BoundTo (seqs q 0 1) 0 ⟨0x100003, 16⟩ 3 q ∧ 2 ^ 20 < q.rlen + ((seqs q 0 1).x 6).toNat) ∧
    seq18.clen + 1024 < seq18.rlen + ((seqs seq18 0 1023).x 6).toNat ∧
    (¬ (seq18.clen + 1024 < seq18.rlen + ((seqs seq18 0 15).x 6).toNat ∨ seq18.resv.length = 64 ∨
      (seqs seq18 0 15).myCtx.blocksFor seq18
        ((List.range ((seq18.rlen + ((seqs seq18 0 15).x 6).toNat + 15) / 16)).filter fun k => decide (seq18.rlen / 16 ≤ k)) =
        none)) := by
  refine ⟨by decide +kernel, (by unfold BoundTo; decide +kernel), by decide +kernel, by decide +kernel, ⟨(by unfold BoundTo; decide +kernel), by decide +kernel⟩,
    by decide +kernel, ?_⟩
  decide +kernel

theorem owns_seq18 : ∀ k, k < 2 → Owns (seqs seq18 16 2) seq18 0 (((seqs seq18 16 2).x 5).toNat + k) := by
  have h : ∀ k : Fin 2, Owns (seqs seq18 16 2) seq18 0 (((seqs seq18 16 2).x 5).toNat + k.val) := by
    unfold Owns; decide +kernel
  exact fun k hk => h ⟨k, hk⟩

theorem witness_SequenceControl_commit : ((seqs seq18 16 2).x 6).toNat = 2 ∧
    (∀ k, k < 2 → Owns (seqs seq18 16 2) seq18 0 (((seqs seq18 16 2).x 5).toNat + k)) ∧
    ((seqs seq18 16 2).x 5).toNat + ((seqs seq18 16 2).x 6).toNat = seq18.rlen ∧
    ¬ Owns (seqs seq18 17 2) seq18 0 (((seqs seq18 17 2).x 5).toNat + 1) ∧
    BoundTo (seqs seq18 16 2) 0 ⟨0x100003, 16⟩ 3 seq18 ∧ BoundTo (seqs seq18 17 2) 0 ⟨0x100003, 16⟩ 3 seq18 :=
  ⟨by decide +kernel, owns_seq18, by decide +kernel, by unfold Owns; decide +kernel, (by unfold BoundTo; decide +kernel), (by unfold BoundTo; decide +kernel)⟩

theorem witness_SequenceControl_drop : (let q := { seq18 with resv := [], refcnt := 2 }
      BoundTo (seqs q 0 0) 0 ⟨0x100003, 16⟩ 3 q ∧ (∀ v ∈ q.resv, ¬ (v.uid = (seqs q 0 0).hart.uid ∧ v.reg = (0 : SqReg).toNat)) ∧
      1 < q.refcnt) ∧
    (let q := { seq18 with resv := [] }
     BoundTo (seqs q 0 0) 0 ⟨0x100003, 16⟩ 3 q ∧ (∀ v ∈ q.resv, ¬ (v.uid = (seqs q 0 0).hart.uid ∧ v.reg = (0 : SqReg).toNat)) ∧
      q.refcnt = 1 ∧ q.parent = none ∧ Tbl.rising (seqs q 0 0).myCtx.seqs = true) :=
  ⟨⟨(by unfold BoundTo; decide +kernel), (fun v h => by cases h), by decide⟩, (by unfold BoundTo; decide +kernel), (fun v h => by cases h), by decide, rfl,
    by decide +kernel⟩

theorem witness_SequenceControl_fork : (1 : SqReg).toNat < (seqs seq18 0 16).hart.bounds.seqs ∧ (seqs seq18 0 16).sqReg 1 = none ∧
    (seqs seq18 0 16).myCtx.arenaEn = true ∧ seq18.clen < ((seqs seq18 0 17).x 6).toNat ∧
    ((seqs seq18 0 16).x 6).toNat ≤ seq18.clen ∧
    ∃ j k1 child, (seqs seq18 0 16).freeEntry = some j ∧
      (seqs seq18 0 16).myCtx.forkStorage seq18 ((tget (seqs seq18 0 16).myCtx.gens j).getD 0) 16 0x100003 = some (k1, child) := by
  refine ⟨by decide +kernel, by decide +kernel, by decide +kernel, by decide +kernel, by decide +kernel, ?_⟩
  have h : (seqs seq18 0 16).myCtx.gens = [] := by decide +kernel
  obtain ⟨⟨k1, child⟩, h1⟩ := some_of (o := (seqs seq18 0 16).myCtx.forkStorage seq18 0 16 0x100003) (by decide +kernel)
  refine ⟨_, k1, child, rfl, ?_⟩
  rw [h]
  exact h1

theorem witness_SequenceControl_new : ((seqs seq18 64 0).x 5).getLsbD 63 = false ∧ createClass ((seqs seq18 64 0).x 5).toNat = some 0 ∧
    (∃ j, (seqs seq18 64 0).freeEntry = some j) ∧ (∃ p, (seqs seq18 64 0).myCtx.alloc 2048 = some p) ∧
    (let w := (seqs seq18 0x8000000000100003 0).x 5
     w.getLsbD 63 = true ∧ w.toNat / 2 ^ 32 % 2 ^ 31 = 0 ∧ 3 = w.toNat % 2 ^ 20 ∧
      3 < 2 ^ (seqs seq18 0x8000000000100003 0).myCtx.arenaLog.toNat ∧ seq18.gen = w.toNat % 2 ^ 32 / 2 ^ 20) ∧
    ((7 : SqReg).toNat < (seqs seq18 0 0).hart.bounds.seqs ∧ (seqs seq18 0 0).sqReg 7 = none) :=
  ⟨by decide +kernel, by decide +kernel, ⟨_, rfl⟩, some_of (by decide +kernel), by decide +kernel, by decide +kernel⟩

/-- sqst and sqld of two elements at slot 16 of the sequence. -/
def seqVec : State := typed (withV (seqs seq18 16 0) 3 32 [5, 6]) 10 2

theorem witness_SequenceData : Issues seqVec ∧ Fits seqVec [(3 : Reg).toNat] ∧ etype seqVec ≤ 15 ∧
    BoundTo seqVec 0 ⟨0x100003, 16⟩ 3 seq18 ∧ vs seqVec < vl seqVec ∧
    (∀ u ∈ unitsOn seqVec 0, Owns seqVec seq18 0 (((seqVec.x 5).toNat * seq18.slotSize + u * unitSize seqVec) / seq18.slotSize)) ∧
    (∃ u ∈ unitsOn (seqVec.setX 5 15) 0, ¬ Owns (seqVec.setX 5 15) seq18 0
      ((((seqVec.setX 5 15).x 5).toNat * seq18.slotSize + u * unitSize seqVec) / seq18.slotSize)) ∧ (1 : KReg) ≠ 0 ∧
    (∀ (pa : Nat), seqVec.poison.contains (pa / 32) = false ∧ (isHbm pa = true → seqVec.grainOf pa = 3)) := by
  refine ⟨by unfold Issues; decide +kernel, by unfold Fits; decide +kernel, by decide +kernel,
    by unfold BoundTo; decide +kernel, by decide +kernel, by unfold Owns; decide +kernel, by unfold Owns; decide +kernel, by decide,
    fun pa => ⟨rfl, fun _ => rfl⟩⟩

theorem witness_SequenceData_compaction : tget ((seqs seq18 0 0).ctx 0).seqs 3 = some seq18 ∧ tget seq18.blocks 0 = some 0x4100000 ∧
    ((seqs seq18 0 0).ctx 0).movable seq18 0 0x4100000 = true ∧
    ((seqs seq18 0 0).ctx 0).allocAt seq18.blockSize 0x4200000 ≠ none ∧ 0x4100000 % 32 = 0 ∧ 0x4200000 % 32 = 0 ∧
    0x4100000 + seq18.blockSize ≤ 0x4200000 ∧ Canonical (seqs seq18 0 0) := by
  unfold Canonical; decide +kernel

/-- Bytes of little-endian fields: values with their sizes. -/
def fieldsOf (l : List (Nat × Nat)) : List Byte := l.flatMap fun p => valBytes p.1 p.2

/-- A hart with a descriptor of 64 bytes at offset 64, and operands for a copy: x10 the descriptor, x8 bytes, x12 and
x11 ranges of the scratchpad, x9 the completion offset. -/
def copying (d : List Byte) (x8 x9 : Word) : State :=
  let s := ((((ready.setX 10 0xFFFFFFFFFFC00040).setX 8 x8).setX 9 x9).setX 11 0xFFFFFFFFFFC00000).setX 12 0xFFFFFFFFFFC00100
  { s.scrWrite 64 d with ctxs := [(0, seqCtx seq18)] }

/-- cpy.x of 2 rows of 16 bytes without flags. -/
def rowsDesc : List Byte := fieldsOf [(8, 0xFFFFFFFFFFC00000), (8, 0xFFFFFFFFFFC00100), (4, 16), (4, 2), (8, 16), (8, 32),
  (8, 0), (8, 0), (8, 0)]

/-- An all-gather of 4 elements between 2 ranks. -/
def collDesc (ctl : Nat) (record : Nat) : List Byte := fieldsOf [(8, ctl), (8, 4), (8, 0xFFFFFFFFFFC00000), (8, 0xFFFFFFFFFFC00100),
  (8, 0xFFFFFFFFFFC00200), (2, 2), (2, 1), (2, 0), (2, 0), (8, record), (8, 0)]

theorem witness_CopyCommands : (let s := copying [] 16 0xFFFFFFFFFFFFFFFF
      InScratch s (s.x 10) 4032 64 ∧ s.hart.bounds.scratch ≤ 3670016 ∧ s.hart.copyq.length < 16 ∧ (s.x 8).toNat ≤ 2 ^ 40 ∧
      OffsetOk s (s.x 9) ∧ s.checkRange .read (s.x 11) (s.x 8).toNat = .ok s ∧ s.checkRange .write (s.x 12) (s.x 8).toNat = .ok s ∧
      (s.x 12).toNat % 8 = 0 ∧ s.checkRange .write (s.x 12) 16 = .ok s) ∧
    16 ≤ ({ ready with hart := { ready.hart with copyq := List.replicate 16 copy8 } } : State).hart.copyq.length ∧
    (copying [] 16 0).hart.scrBad = [] ∧ (copying [] 16 0).hart.csr.det = false ∧
    2 ^ 40 < ((copying [] 0x10000000001 0).x 8).toNat ∧
    (let s := copying [] 16 0x1004
     s.x 9 ≠ 0xFFFFFFFFFFFFFFFF ∧ (s.x 9).toNat % 8 ≠ 0) ∧
    (let s := copying [] 16 0x1000
     s.x 9 ≠ 0xFFFFFFFFFFFFFFFF ∧ (s.x 9).toNat % 8 = 0 ∧ s.hart.bounds.scratch ≤ (s.x 9).toNat) := by
  unfold InScratch OffsetOk
  refine ⟨⟨?_, ?_, ?_, ?_, ?_, ok_of ?_, ok_of ?_, ?_, ok_of ?_⟩, ?_⟩ <;> decide +kernel

theorem witness_CopyCommands_gather : (let s := copying [] 0x100100003 0xFFFFFFFFFFFFFFFF
      let n := (s.x 8).toNat / 2 ^ 32 % 128
      1 ≤ n ∧ n ≤ 64 ∧ (s.x 8).toNat < 2 ^ 39 ∧ OffsetOk s (s.x 9) ∧ s.seqOf ((s.x 8).setWidth 32) = .ok (3, seq18) ∧
      s.checkRange .read (s.x 11) (4 * n) = .ok s ∧ s.checkRange .write (s.x 12) (n * (16 * seq18.slotSize)) = .ok s) ∧
    (let s := copying [] 0x4100000003 0
     ¬ (1 ≤ (s.x 8).toNat / 2 ^ 32 % 128 ∧ (s.x 8).toNat / 2 ^ 32 % 128 ≤ 64 ∧ (s.x 8).toNat < 2 ^ 39)) := by
  unfold OffsetOk
  refine ⟨⟨?_, ?_, ?_, ?_, ok_of ?_, ok_of ?_, ok_of ?_⟩, ?_⟩ <;> decide +kernel

theorem witness_CopyCommands_rows : (let s := copying rowsDesc 16 0xFFFFFFFFFFFFFFFF
      let X := CopyX.of (descAt s 64)
      InScratch s (s.x 10) 64 64 ∧ OffsetOk s (s.x 9) ∧ X.flags.toNat < 64 ∧ X.flags.toNat / 8 % 4 ≠ 3 ∧
      X.flags.getLsbD 0 = false ∧ X.rest = 0 ∧ X.record = 0 ∧
      s.checkRows .read X.rowb ((List.range X.rows).map X.srcRow) = .ok s ∧
      s.checkRows .write X.rowb ((List.range X.rows).map X.dstRow) = .ok s) ∧
    (let s := copying (rowsDesc.take 56 ++ valBytes 8 1) 16 0xFFFFFFFFFFFFFFFF
     (CopyX.of (descAt s 64)).rest ≠ 0 ∧ (CopyX.of (descAt s 64)).flags.getLsbD 0 = false) ∧
    (let s := copying (rowsDesc.take 40 ++ valBytes 8 1 ++ rowsDesc.drop 48) 16 0xFFFFFFFFFFFFFFFF
     (CopyX.of (descAt s 64)).flags.getLsbD 0 = true ∧ s.hart.trap.priv = false) := by
  unfold InScratch OffsetOk
  refine ⟨⟨?_, ?_, ?_, ?_, ?_, ?_, ?_, ok_of ?_, ok_of ?_⟩, ?_⟩ <;> decide +kernel

theorem witness_CopyCommands_coll : (let s := copying (collDesc 1 0) 16 0xFFFFFFFFFFFFFFFF
      let C := Coll.of (descAt s 64)
      C.op ≤ 4 ∧ C.type ≤ 3 ∧ C.rop ≤ 2 ∧ C.ctl.toNat < 2 ^ 13 ∧ 1 ≤ C.count ∧ C.count < 2 ^ 32 ∧ 2 ≤ C.nrank ∧ C.nrank ≤ 1024 ∧
      C.myrank < C.nrank ∧ C.op < 3 ∧ C.resv = 0 ∧ (C.op ≠ 0 ∧ C.op ≠ 2) ∧ C.record = 0 ∧ 64 % 8 = 0 ∧ s.hart.scrBad = []) ∧
    (let s := copying (collDesc 1 0) 16 0xFFFFFFFFFFFFFFFF
     let C := Coll.of (descAt s 64)
     ∀ p ∈ [(Kind.read, C.src, C.srcCount * C.esize), (.read, C.group, 2 * C.nrank), (.write, C.dst, C.dstCount * C.esize)],
       s.checkRange p.1 p.2.1 p.2.2 = .ok s) ∧
    4 < (Coll.of (descAt (copying (collDesc 5 0) 16 0) 64)).op := by
  refine ⟨by decide +kernel, ?_, by decide +kernel⟩
  intro s C p h
  simp only [List.mem_cons, List.not_mem_nil, or_false] at h
  rcases h with rfl | rfl | rfl <;> exact ok_of (by decide +kernel)

/-- A command at the head of the copy queue. -/
def heading (c : CopyCmd) : State := { ready with time := 2000000000, hart := { ready.hart with copyq := [c] } }

theorem witness_CopyEngineSteps : (let s := heading { copy8 with ops := [0xFFFFFFFFFFC00040, 0xFFFFFFFFFFC00000, 64, 0xFF8, 1] }
      s.hart.copyq = [{ copy8 with ops := [0xFFFFFFFFFFC00040, 0xFFFFFFFFFFC00000, 64, 0xFF8, 1] }] ∧ EngineFree s ∧
      InScratch s 0xFFFFFFFFFFC00000 64 0 ∧ InScratch s 0xFFFFFFFFFFC00040 64 64 ∧ 0 + 64 ≤ 64 ∧ copyKind copy8.word = .cpy ∧
      copy8.done = 0 ∧ s.hart.scrBad = []) ∧
    copyKind (encode (.cpySum 12 10 8 9)) = .sum ∧
    (heading copy8).hart.status = .running ∧ (heading copy8).hart.wait = .none := by
  unfold InScratch EngineFree; decide +kernel

/-- An all-gather at the head of the queue: its other rank has issued, or has not. -/
def gathering (issued : Bool) : State :=
  { (heading ⟨.queued, encode (.coll 10 8 9), [0, 0, 0, 0xFFFFFFFFFFFFFFFF, 0], collDesc 1 0xFFFFFFFFFFC00300, 0, 0, 0, false, false,
      none, [], 0⟩).scrWrite 0x200 [0, 0, 0, 0] with peers := if issued then [⟨0, 0, 0, 1, 4, 2, []⟩] else [] }

theorem witness_CopyEngineSteps_coll : (∀ b ∈ [true, false], let s := gathering b
      let c := s.hart.copyq.getD 0 copy8
      s.hart.copyq = [c] ∧ CollAt s c 0x100 0x300 ∧ s.mgmt.collNs ≤ (s.time - c.issued).toNat ∧
      InScratch s (Coll.of c.desc).group (2 * (Coll.of c.desc).nrank) 0x200 ∧ (Coll.of c.desc).op < 3) ∧
    (let C := Coll.of ((gathering true).hart.copyq.getD 0 copy8).desc
     ¬ RankMissing (gathering true) C 0x200 ∧ RankMissing (gathering false) C 0x200) := by
  unfold InScratch CollAt RankMissing rankDevice InScratch; decide +kernel

/-- A gather whose attempt has read an odd counter, at the first failure at its block and at the eighth. -/
theorem witness_CopyEngineSteps_attempt : let p : Attempt := ⟨0, 0x4100000, 1⟩
    ∀ n ∈ [0, 7], let c : CopyCmd := { copy8 with word := encode (.cpyG 12 10 8 9 0), attempt := some p, failed := [(0, n)] }
      copyKind c.word = .gather ∧ EngineFree (heading c) ∧ FailedAttempt (heading c) c p ∧
      (tget c.failed p.place).getD 0 = n ∧ (heading c).hart.status = .running ∧ (heading c).hart.wait = .none := by
  unfold FailedAttempt EngineFree; decide +kernel

/-! ### Launches -/

/-- A registered kernel without loops of its own. -/
def kernel1 : Kernel := ⟨0x3000, 0, 4096, true, ready.hart.bounds, [], 0, false⟩

/-- A running launch of it. -/
def launch1 : Launch where
  ctx := 0
  die := 0
  kzhdr := 0x5000
  kernel := kernel1
  args := 0
  prio := 5
  det := false
  dieMask := 0
  perDie := 0
  after := 0
  seed := 0
  brim := 16
  binding := .none
  cwAddr := 0
  cwVal := 0
  waitAddr := 0
  waitVal := 0
  trips := [(.cores, 1)]
  count := 1
  parent := some 0x700000000
  hostq := none
  accepted := 0
  place := .queue
  eligible := true
  eligAt := 0
  cores := [[0]]
  started := [0]
  exits := 0
  boost := 0
  waitFrom := 0
  doneAt := 0
  status := none

/-- A launch descriptor at offset 64: KERNEL, ARGS, CTL, AFTER; x14 its address. -/
def launching (k ctl after_ : Nat) : State :=
  let s := ready.setX 14 0xFFFFFFFFFFC00040
  { s.scrWrite 64 (fieldsOf [(8, k), (8, 0), (8, ctl), (8, after_)]) with
    ctxs := [(0, { Ctx.reset with kernels := [(0x5000, kernel1), (0x6000, { kernel1 with loops := [(.temporal, 0)] })] })]
    launches := [(1, launch1), (7, { launch1 with parent := none })], nextLaunch := 8 }

theorem witness_SchedulingInstructions_launch : ((launching 0 0 0).x 14 + 4).toNat % 8 ≠ 0 ∧
    (let s := launching 0x5000 0x010000 0
     InScratch s (s.x 14) 32 64 ∧ s.hart.bounds.scratch ≤ 3670016 ∧ launchWord s 64 3 = 0 ∧
      tget s.myCtx.kernels (launchWord s 64 0).toNat = some kernel1 ∧ ControlFits (launchWord s 64 2) ∧
      (let u := s.writeBackAll s.hart.core false
       tripsOk kernel1.bounds.paired (u.tripsOf s.hart.ctx kernel1 (launchWord s 64 1)) = true) ∧
      s.queueRoom (dieOf s.hart.core) s.hart.ctx = true ∧ s.myCtx.ringUsed = 0) ∧
    tget (launching 0x7000 0 0).myCtx.kernels (launchWord (launching 0x7000 0 0) 64 0).toNat = none ∧
    ¬ ControlFits (launchWord (launching 0x5000 0x80 0) 64 2) ∧
    (launchWord (launching 0x5000 0 9) 64 3 ≠ 0 ∧ (launching 0x5000 0 9).handleOf 0 (launchWord (launching 0x5000 0 9) 64 3) = none) ∧
    ((launching 0x5000 0 1).handleOf 0 (launchWord (launching 0x5000 0 1) 64 3)).isSome = true := by
  unfold InScratch ControlFits
  exact ⟨by decide +kernel, ⟨by decide +kernel, by decide +kernel, by decide +kernel, by decide +kernel, by decide +kernel, by decide +kernel, by decide +kernel, by decide +kernel⟩, by decide +kernel, by decide +kernel, ⟨by decide +kernel, by decide +kernel⟩, by decide +kernel⟩

/-- A die whose queue for the context is full. -/
def fullQueue : State :=
  { launching 0x5000 0 0 with
    launches := (List.range 4096).map fun n => (n + 1, { launch1 with started := [], eligible := false }), nextLaunch := 4097 }

/-- A context whose tables map its first 16 MiB onto HBM, in migration or not. -/
def paged (mig : Nat) (s : State) : State :=
  { s with
    mem := cellsSet (cellsSet [] 0x8000 (valBytes 8 0x10001)) 0x10000 (valBytes 8 (mig * 2 ^ 63 + 6 * 2 ^ 52 + 0xFF))
    mgmt := { Mgmt.reset with parts := [⟨0xFF, 0xF, [(0, 0x8000000000)]⟩] }
    ctxs := [(0, { s.ctx 0 with sttbEn := true, sttb := 8 })] }

theorem witness_SchedulingInstructions_parks : (let s := paged 1 (launching 0x6000 0x010000 0)
      ∃ k, tget s.myCtx.kernels (launchWord s 64 0).toNat = some k ∧
        s.tripParks s.hart.ctx k (launchWord s 64 1) = some 0) ∧
    (let s := paged 0 (launching 0x6000 0x010000 0)
     ∀ k, tget s.myCtx.kernels (launchWord s 64 0).toNat = some k → s.tripParks s.hart.ctx k (launchWord s 64 1) = none) := by
  refine ⟨⟨_, rfl, by decide +kernel⟩, fun k h => ?_⟩
  rw [show k = { kernel1 with loops := [(.temporal, 0)] } from (Option.some.inj h).symm]
  decide +kernel

theorem witness_SchedulingInstructions_full : fullQueue.queueRoom (dieOf fullQueue.hart.core) fullQueue.hart.ctx = false ∧
    fullQueue.myCtx.ringBase = 0 := by decide +kernel

/-- A context with a second launch, of handle 2; x7 a handle. -/
def joining (h : Word) (st : Option Nat) : State :=
  { (launching 0 0 0).setX 7 h with launches := [(1, launch1), (2, { launch1 with parent := some 0x100000000, status := st }), (7, { launch1 with parent := none })], nextLaunch := 8 }

theorem witness_SchedulingInstructions_join : (joining 9 none).handleOf 0 ((joining 9 none).x 7) = none ∧
    (∃ l, (joining 1 none).handleOf 0 ((joining 1 none).x 7) = some (1, l) ∧ 1 = launchOf (joining 1 none).hart.uid) ∧
    (∃ l, (joining 2 none).handleOf 0 ((joining 2 none).x 7) = some (2, l) ∧ 2 ≠ launchOf (joining 2 none).hart.uid) ∧
    ((tget (joining 2 none).launches 2).bind (·.status)).isSome = false ∧
    ((tget (joining 2 (some 0)).launches 2).bind (·.status)).isSome = true ∧
    (joining 2 none).hart.queue = [] ∧ (joining 2 none).hart.reclaimed = false :=
  ⟨by decide +kernel, ⟨launch1, by decide +kernel, by decide +kernel⟩, ⟨{ launch1 with parent := some 0x100000000 }, by decide +kernel, by decide +kernel⟩,
    by decide +kernel, by decide +kernel, by decide +kernel, by decide +kernel⟩

theorem witness_SchedulingInstructions_yield : (∀ c ∈ (launching 0 0 0).advance.cands 0, c.prio < (launching 0 0 0).advance.priority (launching 0 0 0).advance.hart) ∧
    (let s : State := { joining 2 none with launches := [(1, launch1), (2, { launch1 with started := [] })] }
     s.hart.status = .running ∧ ∃ c ∈ s.advance.cands s.hart.core, s.advance.priority s.advance.hart ≤ c.prio) ∧
    (ready.hart.queue = [] ∧ ready.hart.copyq = [] ∧ tget (joining 2 none).launches (launchOf (joining 2 none).hart.uid) = some launch1 ∧
      launch1.status = none ∧ launch1.exits + 1 = launch1.count) := by decide +kernel

/-! ### Advice -/

theorem witness_AdviceStaysApart : (Instr.apinPin 1 2).wordClass = .advice := by decide

/-- The hart with an advice context at 0x2000, g1 = a, g2 = b, g3 = c. -/
def advised (a b c : Word) : State :=
  { mapped with hart := { mapped.hart with adv := { Adv.reset with
      g := Vector.ofFn fun (n : Fin 8) => if n = 1 then a else if n = 2 then b else if n = 3 then c else 0
      apc := 0x2000, code := 0x2000, codeSize := 16, st := .running } } }

theorem witness_AdviceResults : (let s := advised 0 0 0
      (s.hart.csr.pmark - (s.g 1).setWidth 32).toNat < 2 ^ 31) ∧
    (let s := advised 1 0 0
     2 ^ 31 ≤ (s.hart.csr.pmark - (s.g 1).setWidth 32).toNat) := by decide +kernel

/-- The hart many marks past its latest await. -/
def staleAt (s : State) : State := { s with hart := { s.hart with csr := { s.hart.csr with pmark := 17 } } }

/-- A partition with every way of L2. -/
def allWays (s : State) : State :=
  { s with mgmt := { s.mgmt with parts := [⟨0xFF, 0xFFFF, [(0, 0x8000000000)]⟩] } }

theorem witness_AdviceEffects_ranges : (let s := advised 0x2010 32 1
      Stale (staleAt s) ∧ ¬ Stale s ∧ (s.g 2 ≠ 0 ∧ s.g 3 ≠ 0 ∧ (32 : BitVec 12) ≠ 0) ∧
      ((s.g 1).toNat % 256 + (32 : BitVec 12).toNat ≤ 256 ∧
        s.hintXlat false ((s.g 1).toNat, (32 : BitVec 12).toNat) = some ⟨0x200010, false, false, false, false, 0, 3⟩) ∧
      (s.g 2).toNat = 32 ∧ isHbm 0x200010 = true ∧
      (let t : State := { s with hart := { s.hart with adv := { s.hart.adv with pins := [(0x2000, 1)] } } }
       tget t.hart.adv.pins (0x200010 / 256) = some 1) ∧
      (let t := allWays s
       (0x2000 :: t.hart.adv.held).eraseDups.length ≤ 4096 ∧ t.pinLines [0x2000] ≠ []) ∧
      (let t : State := { allWays s with hart := { s.hart with adv := { s.hart.adv with
          pins := (List.range 12).map fun n => (0x2000 + (2 * n + 2) * (2 ^ 16 + 2 ^ 24), 1) } } }
       tget t.hart.adv.pins 0x2000 = none ∧ t.pinLines [0x2000] = [])) ∧
    (let s := advised 0x10000000010 0 1
     s.g 3 = 1 ∧ s.g 2 = 0 ∧ (s.g 1).toNat % 256 + 2 ^ (2 : BitVec 2).toNat ≤ 256 ∧
     s.hintXlat true ((s.g 1).toNat, 2 ^ (2 : BitVec 2).toNat) = some (vecXlat 16)) ∧
    (let s := advised 0x900000 32 0
     s.hintXlat false ((s.g 1).toNat, (32 : BitVec 12).toNat) = none ∧ s.g 3 = 0) := by
  unfold Stale; decide +kernel

/-- A hint queue with room exists where the port takes a request at all, and a full one exists. -/
theorem witness_AdviceEffects_queue : (∃ fills : List Fill, Config.hintQueue ≤ fills.length) ∧
    (0 < Config.hintQueue → ∃ fills : List Fill, fills.length < Config.hintQueue) :=
  ⟨⟨List.replicate Config.hintQueue ⟨false, false, 0, 0⟩, by rw [List.length_replicate]⟩, fun h => ⟨[], h⟩⟩

theorem witness_AdviceEffects_tile : (let s := advised 0x10000000000 0x44 16
      let d := (((s.g 2).setWidth 32 : BitVec 32).setWidth 64 : Word)
      ¬ Stale s ∧ (s.stageLines (s.g 1) d (s.g 3).toNat).isSome = true ∧ s.tile false = none ∧ s.hart.adv.stages = [] ∧
      (let u := s.dropStage false
       (u.hart.adv.held ++ u.pinLines ((s.stageLines (s.g 1) d (s.g 3).toNat).getD [])).eraseDups.length ≤ 4096) ∧
      tileKOk (Desc.of d).src2 (s.g 3).toNat = true) ∧
    (let s := advised 0x40000000000 0x44 16
     s.stageLines (s.g 1) (((s.g 2).setWidth 32).setWidth 64) (s.g 3).toNat = none) := by
  unfold Stale; decide +kernel

theorem witness_AdviceEffects_later : (let await := encode (.await 1)
      let s0 : State := advised 0 0 0
      let s : State := { s0 with
        mem := cellsSet [] 0x200000 (valBytes 4 await.toNat), hart := { s0.hart with adv := { s0.hart.adv with st := .waiting } } }
      s.hart.adv.st = .waiting ∧ s.hart.status = .running ∧ (s.fetchAdvice.map (·.1)) = some await ∧
      (s.hart.csr.pmark - (s.g 1).setWidth 32).toNat < 2 ^ 31) ∧
    (let f : Fill := ⟨false, false, 0x2010, 32⟩
     let s : State := { advised 0 0 0 with hart := { (advised 0 0 0).hart with adv := { Adv.reset with fills := [f] } } }
     s.hart.adv.fills = f :: [] ∧ f.l2 = false ∧
     s.hintXlat f.vec (f.va.toNat, f.n) = some ⟨0x200010, false, false, false, false, 0, 3⟩ ∧
     s.hart.adv.st = .unbound ∧ s.hart.status = .running ∧ (0x2010 : Word).toNat % 256 + 32 ≤ 256 ∧
     s.hintXlat false ((0x900000 : Word).toNat, 32) = none) := by decide +kernel

/-! ### Steps of a hart without a word -/

/-- A queued vadd.vx with its captures. -/
def entry : QEntry := ⟨.viq, encode (.vadd 3 1 (.vx 2) 0), 10, 2, [7], 0x40000, false, false, false, 0x1000, false, none, [], false⟩

/-- The hart waiting, at a time of a second. -/
def waiting (w : Wait) (st : HStatus) : State :=
  { ready with time := 1000000000, hart := { ready.hart with wait := w, status := st } }

theorem witness_WaitingHarts_lanes : (let s := waiting (.room .viq) .running
      s.hart.wait = .room .viq ∧ s.hart.hasRoom .viq = true) ∧
    (let s : State := { waiting (.room .viq) .running with
        hart := { ready.hart with queue := List.replicate 32 entry } }
     s.hart.hasRoom .viq = false) ∧
    (let s : State := { waiting .lanes .laneWaiting with
        hart := { (waiting .lanes .laneWaiting).hart with holds := false, required := 4 } }
     s.hart.wait = .lanes ∧ s.hart.reclaimed = false ∧ s.hart.holds = false ∧ s.hart.target.lanes ≠ 0 ∧
     s.hart.required ≤ s.hart.target.lanes ∧ (∀ h ∈ s.others, h.holds = false) ∧
     (let t : State := { s with others := [{ holder with grant := ⟨4, 2⟩ }] }
      ∃ h ∈ t.others, h.core = t.hart.core ∧ h.holds = true ∧ h.grant.base < t.hart.target.base + t.hart.target.lanes ∧
        t.hart.target.base < h.grant.base + h.grant.lanes)) ∧
    (let s : State := { ready with time := 1000000000, hart := { ready.hart with target := ⟨2, 0⟩ } }
     s.hart.status = .running ∧ s.hart.holds = true ∧ s.hart.grant.lanes ≠ 0 ∧
     s.hart.target.base + s.hart.target.lanes < s.hart.grant.base + s.hart.grant.lanes ∧
     s.mgmt.quantumUs * 1000 ≤ (s.time - s.hart.targetAt).toNat ∧
     (s.time - (999999999 : Word)).toNat < s.mgmt.quantumUs * 1000) ∧
    (let s := waiting .none .sleeping
     s.hart.status = .sleeping ∧ s.hart.holds = true ∧ s.hart.grant.lanes ≠ 0 ∧
     s.mgmt.quantumUs * 1000 < (s.time - s.hart.sleepAt).toNat ∧ (s.time - s.time).toNat ≤ s.mgmt.quantumUs * 1000) := by
  decide +kernel

/-- waita.eq of the window's 8 bytes at offset 16 with x3 for the status. -/
def waitsWord (want left : Word) : State := waiting (.waita .eq 8 3 0xFFFFFFFFFFC00010 want .core 0 left) .sleeping

theorem witness_WaitingHarts_word : (WordAt (waitsWord 0 0) 0xFFFFFFFFFFC00010 8
      (le (fun i => (waitsWord 0 0).scrByte (16 + i)) 8) (waitsWord 0 0)) ∧ Canonical (waitsWord 0 0) ∧
    (let s : State := (waitsWord 7 1000).scrWrite 16 (valBytes 8 7)
     WCond.met .eq 8 (le (fun i => s.scrByte (16 + i)) 8) (7 : Word).toNat = true ∧
     WCond.met .eq 8 (le (fun i => s.scrByte (16 + i)) 8) (8 : Word).toNat = false) ∧
    ((1000 : Word) ≠ 0xFFFFFFFFFFFFFFFF ∧ (1000 : Word).toNat ≤ ((waitsWord 0 0).time - 0).toNat) ∧
    ¬ ((2000000000 : Word).toNat ≤ ((waitsWord 0 0).time - 0).toNat) := by
  refine ⟨⟨by decide +kernel, .inl ⟨16, ?_, rfl, rfl, rfl⟩⟩, by unfold Canonical; decide +kernel, by decide +kernel, by decide +kernel,
    by decide +kernel⟩
  unfold InScratch; decide +kernel

theorem witness_WaitingHarts_flags : let es := [(0, 16), (1, 20)]
    let s : State := (withV (typed (waiting (.vwait 0 true 1 3 2 0 0 1000 (es.map fun p => (p.1, Target.window p.2))) .sleeping) 10 2) 2 32
      [5, 6]).scrWrite 16 (valBytes 4 5 ++ valBytes 4 9)
    s.hart.wait = .vwait 0 true 1 3 2 0 0 1000 (es.map fun p => (p.1, Target.window p.2)) ∧ s.hart.status = .sleeping ∧
    (1 : KReg) ≠ 0 ∧ es ≠ [] ∧ (∀ p ∈ es, p.1 < 65536) ∧ width s = 32 ∧ s.hart.queue = [] ∧ s.hart.replay = none ∧
    s.hart.holds = true ∧ s.hart.scrBad = [] ∧ (∃ p ∈ es, le (fun i => s.scrByte (p.2 + i)) 4 = s.elem 2 32 p.1) ∧
    ¬ (∀ p ∈ es, le (fun i => s.scrByte (p.2 + i)) 4 = s.elem 2 32 p.1) := by decide +kernel

theorem witness_WaitingHarts_others : (waiting .wfi .sleeping).hart.irqSoft = none ∧ (waiting .wfi .sleeping).hart.irqMail = none ∧
    (let s : State := { waiting .wfi .sleeping with hart := { (waiting .wfi .sleeping).hart with irqMail := some 0 } }
     s.hart.wait = .wfi ∧ s.hart.irqMail ≠ none) ∧
    (let s := waiting (.pair 0x6 2 4 6 false 0x44 0) .sleeping
     s.hart.csr.pairto.toNat < (s.time - 0).toNat * (s.hamlet (hamletOf s.hart.core)).lane / 1000 ∧
     (s.time - 999999999).toNat * (s.hamlet (hamletOf s.hart.core)).lane / 1000 ≤ s.hart.csr.pairto.toNat) := by
  decide +kernel

/-- A hart with interrupts enabled, one of each pending. -/
def interrupted : State :=
  { ready with hart := { ready.hart with trap := { ready.hart.trap with ie := true }, irqSoft := some 7, irqMail := some 9 } }

/-- A queued mepi of row 5 of acc7 to bf16 at the vector window, and a queued vld of the mapped page. -/
def mepiEntry : QEntry :=
  { entry with kind := .mq, word := encode (.mepi 7 (.const 5) 9 15), ops := [0x10000000000, 0x0100, 0, 0] }
def vldEntry : QEntry := { entry with kind := .vmq, word := encode (.vld 3 1 0 0), probe := some [(0, .phys pageXlat)] }

/-- An entry at the head of the queue, with a row that fails its check, a byte that the store engine holds changed, and
a poisoned sector. -/
def stopping (e : QEntry) (bad : Bool) : State :=
  { ready with
    poison := [0x200008 / 32]
    hart := { ready.hart with
      queue := [e], trouble := some (.held 0 1)
      acc := [(64 * 7 + 5, ⟨0, if bad then some (⟨1000, 0⟩, ⟨0, 0⟩) else none⟩)] } }

theorem witness_DeliveredToHarts : interrupted.hart.status = .running ∧ interrupted.hart.wait = .none ∧
    interrupted.hart.trap.ie = true ∧ interrupted.hart.irqSoft = some 7 ∧
    (({ interrupted with hart := { interrupted.hart with irqSoft := none } } : State).hart.irqSoft = none ∧
      interrupted.hart.irqMail = some 9) ∧
    (∀ p ∈ [(mepiEntry, true), (mepiEntry, false), (vldEntry, false), (entry, false)],
      (stopping p.1 p.2).hart.queue = p.1 :: [] ∧ p.1.rhold = false ∧ (stopping p.1 p.2).hart.qwait = .none ∧
      (stopping p.1 p.2).hart.status = .running ∧ (stopping p.1 p.2).hart.wait = .none) ∧
    ready.hart.trap.ie = false ∧ (∀ va, interrupted.hart.qwait ≠ .parked va false) ∧
    (waiting (.parked 0x2000 false) .sleeping).hart.wait = .parked 0x2000 false ∧
    (let s : State := { mapped with hart := { mapped.hart with qwait := .parked 0x10000000000 true } }
     s.hart.wait = .none ∧ s.hart.qwait = .parked 0x10000000000 true ∧ s.myCtx.vttIndex 0x10000000000 = some 0 ∧
      s.poison = []) ∧
    (let s : State := { ready with hart := { ready.hart with qwait := .parked 0x2000 false } }
     s.hart.wait = .none ∧ s.hart.qwait = .parked 0x2000 false) ∧
    (5 ≠ ready.hart.uid ∧ ∀ h ∈ ready.others, h.uid ≠ 5) := by
  refine ⟨?_, ?_, ?_, ?_, ?_, ?_, ?_, fun _ h => (by cases h), ?_⟩ <;> decide +kernel

/-- Each cause stops an entry, and an addition is not stopped for a store's checksum. -/
theorem witness_DeliveredToHarts_stops : StopsAt (stopping mepiEntry true) mepiEntry 0x302 0 (accStoreAddr 7 5) ∧
    StopsAt (stopping mepiEntry false) mepiEntry 0x303 0 0x10000000000 ∧
    StopsAt (stopping entry false) entry 0x301 0 (entry.word.setWidth 64) ∧
    StopsAt (stopping vldEntry false) vldEntry 0x300 0x200008 0x200008 ∧ ∀ tval, ¬ StopsAt ready entry 0x303 0 tval := by
  refine ⟨.inr (.inl ⟨rfl, ?_⟩), .inr (.inr (.inl ⟨rfl, ?_⟩)), .inl ⟨rfl, ?_⟩,
    .inr (.inr (.inr ⟨rfl, by decide +kernel, by decide +kernel, ⟨(0, .phys pageXlat), by decide +kernel, pageXlat, rfl, ?_⟩, rfl⟩)),
    ?_⟩
  · decide +kernel
  · decide +kernel
  · decide +kernel
  · decide +kernel
  · rintro tval (h | h | h | h)
    · exact absurd h.1 (by decide)
    · exact absurd h.1 (by decide)
    · exact absurd h.2.1 (by decide +kernel)
    · exact absurd h.1 (by decide)

/-- Writes of context registers that complete, and of VTTB with and without poison in its tables. -/
theorem witness_DeliveredToHarts_context : (∀ p ∈ contextStores,
      (waiting (.ctxWrite p.1 0 0x550000000000) .sleeping).hart.wait = .ctxWrite p.1 0 0x550000000000) ∧
    (let s := waiting (.ctxWrite 0x80A 0 0x8000000000020000) .sleeping
     let base := ((s.csrRead 0x80A &&& 0 ||| 0x8000000000020000) &&& 0x800FFFFFFFFE0000).toNat % 2 ^ 52
     Canonical s ∧ s.hart.wait = .ctxWrite 0x80A 0 0x8000000000020000 ∧ (∀ p, p ∉ s.poison) ∧
      ∃ p ∈ ({ s with poison := [0x20000 / 32] } : State).poison, base ≤ 32 * p + 31 ∧ 32 * p < base + 131072) :=
  ⟨fun _ _ => rfl, by unfold Canonical; decide +kernel, rfl, fun _ h => (by cases h), by decide +kernel⟩

/-! ### The dispatcher and host queues -/

/-- The device with one context, four save areas at 0x10000000, a partition of the first hamlets, one launch, and no
hart. -/
def dispatching (l : Launch) : State :=
  { State.reset with
    boot := .done, time := 20000000, launches := [(2, { l with parent := none })], nextLaunch := 3
    mgmt := { Mgmt.reset with parts := [⟨0xFF, 0xF, [(0, 0x8000000000)]⟩] }
    ctxs := [(0, { Ctx.reset with pool := 0x10000, poolCnt := 4, tvec := 0x4000, kernels := [(0x5000, kernel1)] })] }

/-- A launch before it is eligible. -/
def early : Launch := { launch1 with eligible := false, started := [], cores := [] }

theorem witness_DispatcherSteps_launch : (let s := dispatching { early with place := .ring }
      s.ringHead 0 = some (2, { early with place := .ring, parent := none }) ∧ s.queueRoom early.die 0 = true) ∧
    (let s : State := { fullQueue with launches := fullQueue.launches ++ [(4097, { early with place := .ring })] }
     (s.ringHead 0).map (·.1) = some 4097 ∧ s.queueRoom 0 0 = false) ∧
    (let s := dispatching early
     let l := { early with parent := none }
     s.ringHead 0 = none ∧ tget s.launches 2 = some l ∧ l.status = none ∧ l.eligible = false ∧ l.place = .queue ∧
     (tget s.launches l.after = none ∧ l.waitAddr = 0) ∧ l.count ≠ 0 ∧ s.placement l ≠ []) ∧
    (let s := dispatching { early with after := 2 }
     ¬ ∀ a, tget s.launches 2 = some a → a.status ≠ none) ∧
    (let s := dispatching { early with count := 0 }
     (tget s.launches 2).map (·.count) = some 0) ∧
    (let l := { early with waitAddr := 0x2000, waitVal := 1, parent := none }
     let s := dispatching l
     s.launches = [(2, l)] ∧ l.waitAddr ≠ 0) ∧
    (let l := { launch1 with parent := none }
     let s := dispatching l
     l.eligible = true ∧ l.status = none ∧ l.boost < 8 ∧ 2000000 * (l.boost + 1) ≤ (s.time - l.waitFrom).toNat ∧
     ∀ g ∈ s.harts, launchOf g.uid = 2 → g.inSlot = false) := by
  refine ⟨by decide +kernel, by decide +kernel, by decide +kernel, ?_, by decide +kernel, by decide +kernel, by decide +kernel⟩
  intro s h
  exact h { early with after := 2, parent := none } rfl rfl

/-- The launch ready to start on core 0. -/
def starting : State := dispatching { launch1 with started := [], cores := [[0]] }

theorem witness_DispatcherSteps_start : Canonical starting ∧ ∃ cand : Cand, starting.pick 0 = some cand ∧ starting.loadTrouble 0 0 = none ∧
    cand.saved = false ∧ cand.paired = false ∧ cand.handle = 2 ∧ cand.inst < 2 ^ 32 ∧ starting.freeSlot [0] = some 0 ∧
    (∃ l, tget starting.launches 2 = some l ∧ l.coreOf cand.inst = some 0 ∧ (starting.ctx l.ctx).freeArea = some 0) ∧
    ∀ g ∈ starting.harts, g.uid ≠ 2 * 2 ^ 32 + cand.inst := by
  refine ⟨by unfold Canonical; decide +kernel, ⟨2, 0, 5, 0, false, false, 0, kernel1.bounds⟩, by decide +kernel, by decide +kernel, by decide +kernel,
    by decide +kernel, by decide +kernel, by decide +kernel, by decide +kernel,
    ⟨{ launch1 with started := [], cores := [[0]], parent := none }, by decide +kernel⟩, by decide +kernel⟩

/-- Core 0 with its four slots taken by harts of launch 1, and a better launch ready. -/
def displacing : State :=
  let s := dispatching { launch1 with started := [], cores := [[0]], prio := 7 }
  let slot (n : Nat) : Hart := { ready.hart with uid := 2 ^ 32 + n, slot := n, issuedAt := 0, bounds := Bounds.none }
  { s with
    launches := (1, launch1) :: s.launches, hart := slot 3, others := [slot 0, slot 1, slot 2] }

theorem witness_DispatcherSteps_displace : displacing.pick 0 = none ∧
    (∃ cand, displacing.nextCand 0 = some cand ∧ displacing.freeSlot (cand.cores 0) = none ∧
      displacing.victims 0 cand false = [displacing.hart.uid]) ∧
    (∀ g ∈ displacing.occupants 0, g.saveReq = none) ∧ displacing.hart.inSlot = true ∧
    ready.cands 0 = [] ∧ ({ ready with time := 1000000000 } : State).mgmt.quantumUs * 1000 / 2 ≤ (1000000000 - (ready.core 0).tickAt).toNat := by
  refine ⟨by decide +kernel, ?_, by decide +kernel, by decide +kernel, by decide +kernel, by decide +kernel⟩
  obtain ⟨c, hc⟩ := some_of (o := displacing.nextCand 0) (by decide +kernel)
  refine ⟨c, hc, ?_⟩
  have h : (match displacing.nextCand 0 with
      | some c => decide (displacing.freeSlot (c.cores 0) = none ∧ displacing.victims 0 c false = [displacing.hart.uid])
      | none => false) = true := by decide +kernel
  rw [hc] at h
  exact of_decide_eq_true h

/-- A hart in its slot with a save area and a save asked for; the same saved, its area's version 1. -/
def saving : State :=
  let s := dispatching launch1
  { s with hart := { ready.hart with uid := 2 * 2 ^ 32, saveReq := some .preempt } }
def savedHart (version : Nat) : State :=
  { saving with
    mem := cellsSet [] 0x10000000 (valBytes 4 version)
    hart := { saving.hart with saveReq := none, saved := true, status := .ready, holds := false } }

theorem witness_SaveAndRestore : (Canonical saving ∧ saving.hart.saveIdx = some 0 ∧ saving.hart.saveReq = some .preempt ∧
      saving.hart.saved = false ∧ saving.pairedHart saving.hart.uid = false ∧ saving.hart.wait = .none ∧ saving.hart.reclaimed = false) ∧
    (∀ v ∈ [1, 2], let s := savedHart v
      Canonical s ∧ s.hart.saveReq = none ∧ (∃ c, s.pick s.hart.core = some c ∧ c.saved = true ∧
        c.paired = false ∧ c.uids = [s.hart.uid]) ∧ s.freeSlot [s.hart.core] = some 0 ∧ s.areaVal 0 4 = v ∧ s.areaVal 0x15 1 ≤ 16 ∧
      s.hart.wait = .none ∧ s.loadTrouble s.hart.core s.hart.ctx = none) := by
  refine ⟨by unfold Canonical; decide +kernel, ?_⟩
  intro v hv s
  have hc : s.pick s.hart.core = some ⟨2, 0, 5, 0, true, false, 0, saving.hart.bounds⟩ := by
    simp only [List.mem_cons, List.not_mem_nil, or_false] at hv
    rcases hv with rfl | rfl <;> decide +kernel
  simp only [List.mem_cons, List.not_mem_nil, or_false] at hv
  rcases hv with rfl | rfl <;>
    exact ⟨by unfold Canonical; decide +kernel, by decide +kernel, ⟨_, hc, by decide +kernel, by decide +kernel, by decide +kernel⟩,
      by decide +kernel, by decide +kernel, by decide +kernel, by decide +kernel, by decide +kernel⟩

/-- A bound queue with one entry posted. -/
def queue5 : HostQueue := ⟨⟨0, 0, 0x20000000, 4, 0x21000000, 4⟩, 1, 0, 0, [2]⟩

/-- A bound queue whose next entry has these fields: 32 bytes of operands as four words, and OP. -/
def queued (op w0 w1 w2 : Nat) (s : State) : State :=
  { s with
    mem := cellsSet s.mem 0x20000000 (fieldsOf [(8, w0), (8, w1), (8, w2), (8, 0), (8, 0), (8, 0), (8, 0), (4, 0), (2, op), (2, 0x77)])
    hqs := [(5, queue5)] }

theorem witness_HostQueueCommands_ops : tget ready.hqs 5 = none ∧
    (∀ op ∈ List.range 7, let s := queued op 0 0 0 saving
      Canonical s ∧ tget s.hqs 5 = some queue5 ∧ queue5.cmdIdx < queue5.produced ∧ (s.hqEntry queue5).op = op) ∧
    ({ queue5 with produced := 0 } : HostQueue).produced ≤ ({ queue5 with produced := 0 } : HostQueue).cmdIdx ∧
    (let s := queued 0 0x5000 0 0x010000 (dispatching launch1)
     let e := s.hqEntry queue5
     s.queueRoom 0 0 = true ∧ (s.ctx 0).ringUsed = 0 ∧ tget (s.ctx 0).kernels (e.word 0).toNat = some kernel1 ∧ ControlFits (e.word 2) ∧
     e.word 3 = 0 ∧ e.cwAddr.toNat % 8 = 0 ∧ e.waitAddr.toNat % 8 = 0 ∧
     tripsOk kernel1.bounds.paired (s.tripsOf 0 kernel1 (e.word 1)) = true ∧ s.nextLaunch < 2 ^ 63) ∧
    (let s := queued 0 0x7000 0 0 (dispatching launch1)
     tget (s.ctx 0).kernels ((s.hqEntry queue5).word 0).toNat = none) ∧
    (queued 0 0 0 0 fullQueue).queueRoom 0 0 = false := by
  refine ⟨by decide +kernel, ?_, by decide, by unfold ControlFits; decide +kernel, by decide +kernel, by decide +kernel⟩
  unfold Canonical; decide +kernel

theorem witness_HostQueueCommands_harts : (let s := queued 1 0x10000000 0 0 saving
      s.hartAt 0 ((s.hqEntry queue5).word 0) = some s.hart ∧ s.hart.saved = false ∧ s.hart.inSlot = true) ∧
    (let s := queued 1 0x10000000 0 0 (savedHart 1)
     s.hartAt 0 ((s.hqEntry queue5).word 0) = some s.hart ∧ s.hart.saved = true ∧ s.hart.status ≠ .held) ∧
    (let s := queued 3 9 0 0 saving
     s.hartAt 0 ((s.hqEntry queue5).word 0) = none ∧ ((s.hqEntry queue5).word 0).toNat ∉ queue5.handles) ∧
    (let s := queued 3 2 0 0 (dispatching { launch1 with status := some 0 })
     (tget s.launches ((s.hqEntry queue5).word 0).toNat).bind (·.status) = some 0 ∧
     ((s.hqEntry queue5).word 0).toNat ∈ queue5.handles) ∧
    (let e := (queued 5 0x30000000 4 0 saving).hqEntry queue5
     (saving.ctx 0).ringUsed = 0 ∧ ¬ (e.word 0 ≠ 0 ∧ ((e.word 1).toNat % 32 < 4 ∨ 16 < (e.word 1).toNat % 32))) ∧
    (let e := (queued 5 0x30000000 17 0 saving).hqEntry queue5
     e.word 0 ≠ 0 ∧ 16 < (e.word 1).toNat % 32) := by decide +kernel

/-! ### The host, links and the device -/

/-- A flit of zeros, its last 8 bytes those of n. -/
def flit (n : Nat) : List Byte := List.replicate 248 0 ++ valBytes 8 n

/-- The CRC of its first 248 bytes. -/
def flitCrc : BitVec 64 := crc64 (List.replicate 248 0)

/-- It holds for the CRC, and for no other number of 64 bits. -/
theorem flit_holds (n : Nat) : FlitHolds (flit n) ↔ flitCrc.toNat = n % 2 ^ 64 := by
  have h : (List.replicate 248 (0 : Byte)).length = 248 := List.length_replicate
  unfold FlitHolds flit
  rw [List.take_left' h, List.drop_left' h, bytesVal_valBytes, List.length_append, h]
  exact ⟨fun e => e.2, fun e => ⟨by rw [show (valBytes 8 n).length = 8 from rfl], e⟩⟩

theorem witness_HostAndLinks : (Canonical ready ∧ ready.poison = [] ∧ ready.boot = .done ∧ State.reset.boot ≠ .done ∧
      Reaches ready 0 0x1000 ∧ Reaches mapped 1 0x1000 ∧ ¬ Reaches ready 1 0x1000 ∧
      isHost 0x1000000000000 = true ∧ isHost 0x1000 = false ∧ isDomain 0xE000000000000 = true) ∧
    (let s : State := { ready with hqs := [(5, queue5)], l2 := [(0x10000000000, ⟨3, 0xFF, 1, 3, false, true⟩)] }
     tget s.hqs 5 = some queue5 ∧ tget s.hqs 6 = none ∧ (s.ctx queue5.cfg.ctx).part = 1 - 1 ∧ (s.ctx queue5.cfg.ctx).part ≠ 2 - 1 ∧
     (tget s.l2 (0x1000000000000 / 256)).isSome = true ∧ s.l2.rising = true ∧ tget s.l2 (0x1000000000100 / 256) = none) ∧
    (let s := heading { copy8 with issued := 0 }
     s.hart.copyq = { copy8 with issued := 0 } :: [] ∧ s.mgmt.collNs ≤ (s.time - 0).toNat ∧ 10000000 ≤ (s.time - 0).toNat) ∧
    ((ready.port 17).st = .up ∧ FlitHolds (flit flitCrc.toNat) ∧ ¬ FlitHolds (flit (flitCrc.toNat + 1)) ∧
     (∃ p : Port, Config.flitSeq (flit flitCrc.toNat) = p.expected) ∧ (∃ p : Port, Config.flitSeq (flit flitCrc.toNat) ≠ p.expected)) ∧
    (let p : Port := { Port.reset with st := .retraining }
     let s : State := { ready with time := 100000000, ports := [(17, p)] }
     s.port 17 = p ∧ p.st ≠ .up ∧ p.st = .retraining ∧ 100000000 ≤ (s.time - p.since).toNat) := by
  refine ⟨⟨by unfold Canonical; decide +kernel, by decide +kernel, by decide +kernel, by decide +kernel, ⟨by decide, .inl rfl⟩,
    ⟨by decide, .inr ⟨_, rfl, (0, 0x8000000000), by decide +kernel, by decide, by decide⟩⟩, ?_, by decide +kernel, by decide +kernel,
    by decide +kernel⟩, by decide +kernel, by decide +kernel,
    ⟨by decide +kernel, (flit_holds _).mpr (by have := flitCrc.isLt; omega), fun h => absurd ((flit_holds _).mp h) (by have := flitCrc.isLt; omega),
      ⟨{ Port.reset with expected := Config.flitSeq (flit flitCrc.toNat) }, rfl⟩,
      ⟨{ Port.reset with expected := Config.flitSeq (flit flitCrc.toNat) + 1 }, fun h => absurd h (Nat.ne_of_lt (Nat.lt_succ_self _))⟩⟩,
    by decide +kernel⟩
  rintro ⟨_, h | ⟨p, h, _⟩⟩
  · cases h
  · cases h

theorem witness_DeviceSteps : (Canonical ready ∧ ClockFits .lane 600 ∧ ClockFits .lane 1800 ∧ (ready.hamlet 31).clock .lane ≠ 600 ∧
      ¬ ClockFits .vmu 2500 ∧ 6 ≠ (ready.hamlet 31).throttle ∧ 100 ≠ ready.mgmt.powerLimit ∧ State.reset.boot = .off ∧
      ready.boot ≠ .off) ∧
    (let k : Ctx := { Ctx.reset with notifyEn := true, notify := 0x10, notLog := 4 }
     let s : State := { ready with ctxs := [(0, k)] }
     s.ctxs = [(0, k)] ∧ s.hart.ctx = 0 ∧ s.others = [] ∧ s.hart.inSlot = true ∧ k.notifyEn = true ∧
     k.ntail - k.nhead ≠ BitVec.ofNat 32 (2 ^ k.notLog.toNat) ∧ k.notLog.toNat ≤ 16 ∧ hamletOf s.hart.core = 0 ∧ hamletOf s.hart.core ≠ 1) ∧
    (tget (ready.core 0).l1 (0x200000 / 256) = none ∧ (tget (atPageL1.core 0).l1 (0x200000 / 256)).isSome = true) ∧
    (let r : HashRegion := ⟨0x100000, 65536, 0x300000, 1, 0, 0, [0], 0, 0x400000⟩
     let s : State := { ready with time := 1000000, regions := [(3, r), (4, { r with dirty := [] }), (5, { r with interval := 0 })] }
     Canonical s ∧ tget s.regions 2 = none ∧ tget s.regions 3 = some r ∧ r.interval ≠ 0 ∧
     r.interval * 1000000 ≤ (s.time - r.updated).toNat ∧ r.depth = 0 ∧ r.size = 65536 ∧ r.dirty = [0] ∧
     r.tree + 64 ≤ r.desc + 28 ∧ tget s.regions 4 = some { r with dirty := [] } ∧
     (s.time - ({ r with interval := 2 } : HashRegion).updated).toNat < 2 * 1000000) ∧
    (let s : State := { ready with l2 := [(0x2000, ⟨3, 0xFF, 1, 3, false, false⟩)] }
     (tget s.l2 (0x200000 / 256)).isSome = true ∧ tget s.l2 (0x200100 / 256) = none ∧ ∀ h ∈ s.others, h.uid ≠ s.hart.uid) := by
  unfold Canonical ClockFits; decide +kernel

/-! ### The mailbox -/

/-- The device owned by master 1, with a context of partition 0 and a finished and a live launch. -/
def owned : State :=
  { dispatching launch1 with
    mgmt := { Mgmt.reset with owner := 1, leaseEnd := 3000000000, parts := [⟨0xFF, 0xF, [(0, 0x8000000000)]⟩] }
    launches := [(2, launch1), (3, { launch1 with ctx := 7, status := some 0 })] }

theorem witness_OwnerCommands : owned.boot = .done ∧ Master 1 ∧ Owner owned 1 ∧
    (let x : CtxInit := ⟨9, 0, 0, 0, 0, 0, ⟨0, 0⟩⟩
     x.id < 65536 ∧ tget owned.ctxs x.id = none ∧ x.part < owned.mgmt.parts.length ∧ Names 1 x.part ∧ ¬ Names 0x11 0) ∧
    (∃ k, tget owned.ctxs 0 = some k ∧ Names 1 k.part) ∧ (∃ p ∈ owned.launches, p.2.ctx = 0 ∧ p.2.status = none) ∧
    (¬ ∃ p ∈ ({ owned with launches := [] } : State).launches, p.2.ctx = 0 ∧ p.2.status = none) ∧ Tbl.rising owned.ctxs = true ∧
    (tget owned.launches 2 = some launch1 ∧ launch1.status = none ∧ tget owned.launches 4 = none ∧
      (tget owned.launches 3).bind (·.status) = some 0) ∧
    owned.regions = [] ∧ ({ owned with ctxs := [] } : State).ctxs = [] ∧
    (let r : HashRegion := ⟨0x100000, 65536, 0x300000, 1, 0, 0, [0], 0, 0x400000⟩
     tget ({ owned with regions := [(0, r)] } : State).regions 0 = some r) ∧
    tget (owned.ctx 0).kernels 0x5000 ≠ none := by
  unfold Master Owner Names
  refine ⟨?_, ?_, ?_, ?_, ⟨_, rfl, .inl ?_⟩, ?_, ?_, ?_, ?_, ?_, ?_, ?_, ?_⟩ <;> decide +kernel

/-- A header with every bound at its limit and absent loop levels, at 0x5000. -/
def registering (mig : Nat) : State :=
  let s := paged mig owned
  { s with mem := cellsSet s.mem 0x5000 (fieldsOf [(4, 0x39485A4B), (1, 32), (1, 32), (1, 8), (1, 16), (1, 8), (1, 0), (2, 0),
      (4, 4096), (8, 0xFFFFFFFFFFFFFFFF), (8, 0), (8, 0), (8, 0), (8, 0), (8, 0)]) }

/-- Registrations that are refused, served, and left to wait for a page in migration. -/
theorem witness_OwnerCommands_kernel : (let k : KernelInit := ⟨0, 0x5000, 0x6000, 0, 4096, true⟩
      (registering 0).registerParks k = false ∧ ((registering 0).kernelOf k).isSome = true ∧
      (registering 1).registerParks k = true) ∧
    (let k : KernelInit := ⟨0, 0x900000, 0x1000, 0, 4096, true⟩
     owned.registerParks k = false ∧ owned.kernelOf k = none) := by decide +kernel

/-- A descriptor of a hash region at 0x400000: a leaf at 0x100000, its tree at 0x300000, every millisecond. -/
def describing : State :=
  { owned with mem := cellsSet [] 0x400000 (fieldsOf [(8, 0x100000), (8, 65536), (8, 0x300000), (4, 1), (8, 77)]) }

theorem witness_OwnerCommands_region : let s := describing
    let fld (o n : Nat) : Nat := le (fun i => cellGet s.mem (0x400000 + o + i)) n
    Canonical s ∧ s.regions = [] ∧ s.poison = [] ∧ s.grain = [] ∧ s.l2 = [] ∧ s.broken = [] ∧
    0x400000 + 63 < 2 ^ 39 ∧ fld 0 8 % 65536 = 0 ∧ fld 8 8 % 65536 = 0 ∧ 65536 ≤ fld 8 8 ∧ fld 8 8 ≤ 2 ^ 36 ∧
    fld 0 8 + fld 8 8 ≤ 2 ^ 39 ∧ fld 16 8 % 32 = 0 ∧ fld 16 8 + 32 * 2 ^ (treeDepth (fld 8 8) + 1) ≤ 2 ^ 52 ∧
    fld 24 4 ≤ 60000 ∧ fld 40 24 = 0 ∧
    ¬ 65536 ≤ le (fun i => cellGet s.mem (0x500000 + 8 + i)) 8 := by
  unfold Canonical; decide +kernel

theorem witness_MailboxCommands : (State.reset.boot ≠ .done ∧ ¬ Master 4 ∧ ready.boot = .done ∧ Master 2 ∧ ¬ Owner owned 2 ∧
      Owner owned 1) ∧
    (let s : State := { owned with mgmt := { owned.mgmt with handTo := 2, handEnd := 30000000 } }
     s.mgmt.handTo ≠ 0 ∧ s.time.toNat < s.mgmt.handEnd.toNat ∧ s.mgmt.handTo = 2) ∧
    (ready.mgmt.owner = 0 ∧ ¬ (ready.mgmt.handTo ≠ 0 ∧ ready.time.toNat < ready.mgmt.handEnd.toNat)) ∧
    (let s : State := { owned with time := 3000000000, mgmt := { owned.mgmt with handTo := 2, handEnd := 30000000 } }
     s.mgmt.owner ≠ 0 ∧ s.mgmt.leaseEnd.toNat ≤ s.time.toNat ∧ s.mgmt.handTo ≠ 0 ∧ s.mgmt.handEnd.toNat ≤ s.time.toNat) ∧
    (∃ d, tget ({ owned with dieLogs := [(3, DieLog.reset)] } : State).dieLogs 3 = some d) ∧
    owned.mgmt.quotes < 2 ^ 40 ∧ 2 ^ 40 ≤ ({ owned.mgmt with quotes := 2 ^ 40 } : Mgmt).quotes ∧
    (mapped.boot = .done ∧ mapped.hart.uid = 2 ^ 32 ∧ mapped.hart.status ≠ .exited ∧ (∀ h ∈ mapped.others, h.uid ≠ 2 ^ 32) ∧
      (∃ k, tget mapped.ctxs mapped.hart.ctx = some k ∧ Names 1 k.part) ∧ ∀ h ∈ mapped.harts, h.uid ≠ 5) := by
  unfold Master Owner Names
  refine ⟨?_, ?_, ?_, ?_, ⟨_, rfl⟩, ?_, ?_, ?_, ?_, ?_, ?_, ⟨_, rfl, .inl ?_⟩, ?_⟩ <;> decide +kernel

/-! ### Clauses with hypotheses of their own -/

/-- x1 in the mapped page, whose leaf entry is e. -/
def leafed (e : Word) : State :=
  let s := mapped.setX 1 0x2008
  { s with
    mgmt := { s.mgmt with apertures := [(0, [⟨0, 0x1000000⟩])] }
    hart := { s.hart with tlb := [⟨0, 0x2000, 4096, e⟩] } }

/-- A translation leaves the state as it is, to a place with what a condition says. -/
def goesTo (s : State) (k : Kind) (va : Word) (c : Xlat → Bool) : Bool :=
  match s.xlat k va with
  | .ok (p, s1) => c p && decide (s1 = s)
  | .error _ => false

/-- A sequence agent's page, a page in migration, a page of a host window; the window's end, and an address that does
not translate, for an atomic. -/
theorem witness_ScalarAccessTraps_pages :
    (∀ k ∈ [Kind.write, .rw], goesTo (leafed 0x2001EF) k 0x2008 (·.seq) = true) ∧
    (∀ k ∈ [Kind.read, .write, .rw], goesTo (leafed 0x80000000002000EF) k 0x2008 (fun p => p.mig && !p.seq && !isHost p.pa) = true) ∧
    goesTo (leafed 0x10000002000EF) .rw 0x2008 (fun p => isHost p.pa && !p.seq) = true ∧
    inWindow ((leafed 0).x 1) = false ∧ ((leafed 0).x 1).toNat % 8 = 0 ∧
    (inWindow ((atWindow 4096).x 1) = true ∧ ((atWindow 4096).x 1).toNat % 8 = 0 ∧
      (atWindow 4096).hart.bounds.scratch < windowOffset ((atWindow 4096).x 1) + 4) ∧
    ∀ k ∈ [Kind.rw, .read], failure ((ready.setX 1 0x8000000000000000).xlat k 0x8000000000000000) =
      some (.trap 0x100 0x8000000000000000) := by decide +kernel

/-- A page of a host window under CACHE 2, and L2's clean copy of it that differs from the host's memory. -/
theorem witness_PhysicalAccesses_host : (let s : State := { leafed 0x1000000200AEF with
        l2 := [(0x10000002000, ⟨3, 0xFF, 0, 3, false, false⟩)], hostMem := [(0x1000000200008, 9)] }
      goesTo s .read 0x2008 (fun p => p.cache == 2 && isHost p.pa && !p.lnk) = true ∧ Tbl.rising s.hostMem = true ∧
      memoryByte s ⟨0x1000000200008, false, false, false, false, 2, 3⟩ 0x1000000200008 = 9 ∧ cellGet s.mem 0x1000000200008 = 0) ∧
    goesTo { leafed 0x1000000200AEF with hostMem := [] } .write 0x2008 (fun p => p.cache == 2 && !p.seq && !p.mig) = true := by
  decide +kernel

/-! The blocks of a sequence in migration. -/

/-- The table's entry of the blocks' frame marks it as in migration. -/
def held (s : State) : State :=
  { s with cores := [(0, { Core.reset with vttCtx := some 0, vtt := [(0, 0x01), (1, 0x10), (3, 0x04)] })] }

theorem unheld (s : State) (h : s.cores = []) (o : Option Nat) : Unheld s o := by
  intro a _
  unfold State.blockParked State.core
  rw [h]
  rfl

/-- Reservations and forks that wait, and those that go on. -/
theorem witness_SequenceControl_held : (let s := held (seqs seq18 0 15)
      BoundTo s 0 ⟨0x100003, 16⟩ 3 seq18 ∧ ¬ (seq18.clen + 1024 < seq18.rlen + (s.x 6).toNat ∨ seq18.resv.length = 64 ∨
        s.myCtx.blocksFor seq18 ((List.range ((seq18.rlen + (s.x 6).toNat + 15) / 16)).filter fun k => decide (seq18.rlen / 16 ≤ k)) = none) ∧
      tget seq18.blocks (seq18.rlen / 16) = some 0x4102000 ∧ (s.blockParked 0x4102000).isSome = true ∧
      (s.x 6).toNat % 16 ≠ 0 ∧ (s.x 6).toNat ≤ seq18.clen ∧ tget seq18.blocks ((s.x 6).toNat / 16) = some 0x4100000 ∧
      (s.blockParked 0x4100000).isSome = true ∧
      ∃ j k1 child, s.freeEntry = some j ∧
        s.myCtx.forkStorage seq18 ((tget s.myCtx.gens j).getD 0) 15 0x100003 = some (k1, child)) ∧
    Unheld (seqs seq18 0 15) (tget seq18.blocks (seq18.rlen / 16)) := by
  refine ⟨⟨by unfold BoundTo; decide +kernel, by decide +kernel, by decide +kernel, by decide +kernel, by decide +kernel,
    by decide +kernel, by decide +kernel, by decide +kernel, ?_⟩, unheld _ rfl _⟩
  have h : (held (seqs seq18 0 15)).myCtx.gens = [] := by decide +kernel
  obtain ⟨⟨k1, child⟩, h1⟩ := some_of (o := (held (seqs seq18 0 15)).myCtx.forkStorage seq18 0 15 0x100003) (by decide +kernel)
  refine ⟨_, k1, child, rfl, ?_⟩
  rw [h]
  exact h1

/-- Pieces below the end of HBM whose places do not meet. -/
theorem piecesApart (l : List (Nat × Nat)) (h : l.Pairwise fun a b => a.1 + a.2 ≤ b.1 ∨ b.1 + b.2 ≤ a.1)
    (e : ∀ p ∈ l, p.1 + p.2 ≤ 2 ^ 39) : PiecesApart l := by
  refine ⟨h, fun p hp x _ hx => ?_⟩
  have := e p hp
  have : x < 2 ^ 39 := by omega
  simpa [isHbm] using this

/-- The storage that a reservation, a creation and a move of a block write. -/
theorem witness_SequenceControl_storage : HostApart (seqs seq18 0 15) ∧
    PiecesApart (pieces { seq18 with blocks := seq18.blocks ++ [(2, 0x4200000)] }) ∧ tget seq18.blocks 2 = none ∧
    2 ∈ ((List.range ((seq18.rlen + 15 + 15) / 16)).filter fun k => decide (seq18.rlen / 16 ≤ k)) ∧
    PiecesApart [(0x4200000, 2048)] := by
  refine ⟨⟨by unfold Canonical; decide +kernel, fun _ h => (by cases h)⟩, piecesApart _ (by decide +kernel) (by decide +kernel),
    by decide +kernel, by decide +kernel, piecesApart _ (by decide +kernel) (by decide +kernel)⟩

/-- Accesses that stay queued, one without elements, and pages that are not held. -/
theorem witness_SequenceData_held : (let s := held seqVec
      Issues s ∧ Fits s [(3 : Reg).toNat] ∧ etype s ≤ 15 ∧ BoundTo s 0 ⟨0x100003, 16⟩ 3 seq18 ∧ vs s < vl s ∧
      (∀ u ∈ unitsOn s 0, Owns s seq18 0 (((s.x 5).toNat * seq18.slotSize + u * unitSize s) / seq18.slotSize)) ∧
      ∃ u ∈ unitsOn s 0, (match seqPlace seq18 ((s.x 5).toNat * seq18.slotSize + u * unitSize s) with
        | some a => (s.blockParked a).isSome
        | none => false) = true) ∧
    (let s := (held seqVec).setX 5 15
     ∃ u, u < (vl s + unitLen s - 1) / unitLen s ∧ ((s.x 5).toNat * seq18.slotSize + u * unitSize s) / seq18.slotSize < seq18.clen ∧
      (match seqPlace seq18 ((s.x 5).toNat * seq18.slotSize + u * unitSize s) with
        | some a => (s.blockParked a).isSome
        | none => false) = true) ∧
    (vl (typed seqVec 10 0) ≤ vs (typed seqVec 10 0) ∧ Issues (typed seqVec 10 0) ∧ Fits (typed seqVec 10 0) [(3 : Reg).toNat]) ∧
    (∀ o, Unheld seqVec o) ∧ ∀ pa, seqVec.flaw pa = .none := by
  refine ⟨?_, ⟨0, ?_⟩, ?_, unheld seqVec rfl, flaw_none seqVec rfl rfl⟩
  · unfold Issues Fits BoundTo Owns; decide +kernel
  · decide +kernel
  · unfold Issues Fits; decide +kernel

/-- A gather that has begun and has not moved the block. -/
theorem witness_SequenceData_storage : HostApart (seqs seq18 0 0) ∧ tget seq18.leaves (0 / 256) = some 0x4002000 ∧
    PiecesApart [(0x4100000, seq18.blockSize), (0x4200000, seq18.blockSize), (0x4002000, 2048)] ∧
    (seqs seq18 0 0).gathering 0 = [] ∧
    (let s0 := seqs seq18 0 0
     let s : State := { s0 with hart := { s0.hart with copyq := [{ copy8 with word := encode (.cpyG 12 10 8 9 0) }] } }
     s.hart.ctx = 0 ∧ (s.hart.copyq.map fun g => copyKind g.word) = [.gather] ∧ ∀ m ∈ (s.ctx 0).moved, m.addr ≠ 0x4100000) := by
  refine ⟨⟨by unfold Canonical; decide +kernel, fun _ h => (by cases h)⟩, by decide +kernel,
    piecesApart _ (by decide +kernel) (by decide +kernel), by decide +kernel, by decide +kernel⟩

/-! Launches, advice and the dispatcher. -/

/-- A paired kernel without a cores level, whose launch is refused. -/
theorem witness_SchedulingInstructions_refused : (let k : Kernel := { kernel1 with bounds := { kernel1.bounds with paired := true } }
      let s : State := { launching 0x5000 0x010000 0 with ctxs := [(0, { Ctx.reset with kernels := [(0x5000, k)] })] }
      tget s.myCtx.kernels (launchWord s 64 0).toNat = some k ∧ s.tripParks s.hart.ctx k (launchWord s 64 1) = none ∧
      ControlFits (launchWord s 64 2) ∧
      tripsOk k.bounds.paired ((s.writeBackAll s.hart.core false).tripsOf s.hart.ctx k (launchWord s 64 1)) = false) := by
  unfold ControlFits; decide +kernel

/-- L2 has a way for a line, or holds it; a tile that is staged, one whose K does not fit, and a pre-stage of the buffer. -/
theorem witness_AdviceEffects_places : Takes (allWays (advised 0x2010 32 1)) 0x2000 ∧
    Takes { advised 0x2010 32 1 with l2 := [(0x2000, ⟨3, 0xFF, 1, 3, false, false⟩)] } 0x2000 ∧
    (let s0 := advised 0x10000000000 0x44 16
     let s : State := { s0 with hart := { s0.hart with tb := #v[some ⟨0, 0x44, 16, 0, []⟩, none] } }
     s.tile false ≠ none ∧ (s.stageLines (s.g 1) (((s.g 2).setWidth 32).setWidth 64) (s.g 3).toNat).isSome = true) ∧
    (let s := advised 0x10000000000 0x44 0
     let d := (((s.g 2).setWidth 32 : BitVec 32).setWidth 64 : Word)
     (s.stageLines (s.g 1) d (s.g 3).toNat).isSome = true ∧ tileKOk (Desc.of d).src2 (s.g 3).toNat = false) ∧
    (let s0 := advised 0x10000000000 0x44 16
     let s : State := { s0 with hart := { s0.hart with adv := { s0.hart.adv with stages := [⟨false, 0x10000000100, 0x44, 8, []⟩] } } }
     s.tile false = none ∧ s.hart.adv.stages ≠ [] ∧
      (s.stageLines (s.g 1) (((s.g 2).setWidth 32).setWidth 64) (s.g 3).toNat).isSome = true) := by
  refine ⟨.inr ⟨by decide +kernel, 0, by decide, by decide +kernel, fun _ _ h => (by cases h)⟩, .inl (by decide +kernel),
    by decide +kernel, by decide +kernel, by decide +kernel⟩

/-- A context that pins the first n lines. -/
def pinned (n : Nat) (s : State) : State :=
  { s with hart := { s.hart with adv := { s.hart.adv with pins := (List.range n).map fun k => (k, 1) } } }

theorem many (n : Nat) (l : List Nat) (h : ∀ k, k < n → k ∈ l) : n ≤ l.eraseDups.length := by
  have : (List.range n).Subset l.eraseDups := fun k hk => List.mem_eraseDups.mpr (h k (List.mem_range.mp hk))
  simpa using (List.nodup_range.subperm this).length_le

theorem pinned_held (n : Nat) (s : State) (tb : Bool) : ∀ k, k < n → k ∈ ((pinned n s).dropStage tb).hart.adv.held := by
  intro k hk
  refine List.mem_eraseDups.mpr (List.mem_append_left _ (List.mem_map.mpr ⟨(k, 1), List.mem_filter.mpr ⟨?_, rfl⟩, rfl⟩))
  exact List.mem_map.mpr ⟨k, List.mem_range.mpr hk, rfl⟩

/-- A tile for a context that already holds more lines than it may. -/
theorem witness_AdviceEffects_limit : let s := pinned 4097 (advised 0x10000000000 0x44 16)
    let d := (((s.g 2).setWidth 32 : BitVec 32).setWidth 64 : Word)
    ¬ Stale s ∧ (s.stageLines (s.g 1) d (s.g 3).toNat).isSome = true ∧ s.tile false = none ∧
    tileKOk (Desc.of d).src2 (s.g 3).toNat = true ∧
    ∀ ls, ¬ ((s.dropStage false).hart.adv.held ++ (s.dropStage false).pinLines ls).eraseDups.length ≤ 4096 := by
  intro s d
  refine ⟨by unfold Stale; decide +kernel, by decide +kernel, by decide +kernel, by decide +kernel, fun ls h => ?_⟩
  exact absurd (many 4097 _ fun k hk => List.mem_append_left _ (pinned_held 4097 _ false k hk)) (Nat.not_le.mpr (Nat.lt_succ_of_le h))

/-- An area that asks for more rows than a register has. -/
theorem witness_SaveAndRestore_rows : let s : State := { savedHart 1 with mem := cellsSet (savedHart 1).mem 0x10000014 (valBytes 4 0x1100) }
    Canonical s ∧ s.areaVal 0 4 = 1 ∧ 16 < s.areaVal 0x15 1 ∧ (∃ c, s.pick s.hart.core = some c ∧ c.saved = true ∧ c.paired = false ∧
      c.uids = [s.hart.uid]) ∧ s.freeSlot [s.hart.core] = some 0 := by
  intro s
  have hc : s.pick s.hart.core = some ⟨2, 0, 5, 0, true, false, 0, saving.hart.bounds⟩ := by decide +kernel
  exact ⟨by unfold Canonical; decide +kernel, by decide +kernel, by decide +kernel, ⟨_, hc, by decide +kernel, by decide +kernel,
    by decide +kernel⟩, by decide +kernel⟩

/-- A held hart that may move to core 1 and not to core 2, and a release of one that is not held. -/
theorem witness_HostQueueCommands_moves : (∀ c ∈ [1, 2],
      let s0 : State := { savedHart 1 with
        hart := { (savedHart 1).hart with status := .held, bounds := Bounds.none }
        launches := [(2, { launch1 with parent := none, cores := [[0, 1]] })] }
      let s := queued 4 0x10000000 c 0 s0
      Canonical s ∧ s.hartAt 0 ((s.hqEntry queue5).word 0) = some s.hart ∧ (s.hqEntry queue5).op = 4 ∧
      ((s.hart.status = .held ∧ s.hart.saved = true ∧ s.hart.bounds.scratch = 0 ∧ s.hart.bounds.barriers = 0 ∧
        s.hart.bounds.paired = false ∧ (match tget s.launches (launchOf s.hart.uid) with
          | some l => l.cores.any fun p => p.contains ((s.hqEntry queue5).word 1).toNat
          | none => false) = true) ↔ c = 1)) ∧
    (let s := queued 2 0x10000000 0 0 (savedHart 1)
     s.hartAt 0 ((s.hqEntry queue5).word 0) = some s.hart ∧ (s.hqEntry queue5).op = 2 ∧ s.hart.status ≠ .held) ∧
    (let k : Kernel := { kernel1 with bounds := { kernel1.bounds with paired := true } }
     let s0 : State := { dispatching launch1 with ctxs := [(0, { (dispatching launch1).ctx 0 with kernels := [(0x5000, k)] })] }
     let s := queued 0 0x5000 0 0x010000 s0
     tget (s.ctx 0).kernels ((s.hqEntry queue5).word 0).toNat = some k ∧ s.tripParks 0 k ((s.hqEntry queue5).word 1) = none ∧
      tripsOk k.bounds.paired (s.tripsOf 0 k ((s.hqEntry queue5).word 1)) = false) := by
  unfold Canonical; decide +kernel

/-! The host, links and the mailbox. -/

/-- A line that L2 holds under CACHE 0, one sector dirty, and bytes of the host's memory under it; a path-less collective
within its 10 ms and after them; a port within its 100 ms; a flit that fails at each count of replays. -/
theorem witness_HostAndLinks_lines : (let l : L2Line := ⟨3, 0xFF, 1, 3, false, true⟩
      let s : State := { ready with l2 := [(0x10000000000, l)], hostMem := [(0x1000000000020, 9)] }
      tget s.l2 (0x1000000000000 / 256) = some l ∧ l.snoop = true ∧ Tbl.rising s.hostMem = true ∧ s.l2.rising = true ∧
      homeByte s 0x1000000000020 = 9 ∧ homeByte s 0x1000000000000 = 0) ∧
    (∀ n ∈ [5000000, 2000000000], let s : State := { gathering true with time := BitVec.ofNat 64 n }
      let c := s.hart.copyq.getD 0 copy8
      s.hart.copyq = [c] ∧ CollAt s c 0x100 0x300 ∧ (10000000 ≤ (s.time - c.issued).toNat ↔ n = 2000000000)) ∧
    (let s : State := { ready with time := 99999999, ports := [(17, { Port.reset with st := .retraining, sendq := [flit 0] })] }
     (s.port 17).st = .retraining ∧ (s.time - (s.port 17).since).toNat < 100000000) ∧
    (∀ n ∈ [0, 15], let p : Port := { Port.reset with replay := true, retries := n }
     ({ ready with ports := [(17, p)] } : State).port 17 = p ∧ p.st = .up ∧ (p.retries + 1 = 16 ↔ n = 15)) := by
  unfold CollAt InScratch; decide +kernel

/-- Where a port has an up port of its neighbour, that port takes over. -/
theorem witness_HostAndLinks_heir (h : Config.neighbour 3 = Config.neighbour 17) :
    let s : State := { ready with time := 100000000, ports := [(17, { Port.reset with st := .retraining, sendq := [flit 0] })] }
    ∃ m, m < 18 ∧ m ≠ 17 ∧ Config.neighbour m = Config.neighbour 17 ∧ (s.port m).st = .up :=
  ⟨3, by decide, by decide, h, by decide +kernel⟩

/-- Commands under way: through a mailbox's doorbell, and over a link. -/
theorem witness_OwnerCommands_started : (∀ op ∈ [1, 2, 3, 4, 5, 6, 7, 9, 10, 11, 14, 15, 16],
      Started (owned.setMailbox 1 ⟨List.replicate 64 0, some op, 0, [], false⟩) 1 op) ∧
    Started ready 2 4 ∧ Started ready 3 4 ∧ ¬ Started owned 1 4 := by
  unfold Started; decide +kernel

/-- A doorbell of a known and of an unknown OP, and a claim whose window is for another master. -/
theorem witness_MailboxCommands_doorbell : (∀ op ∈ [1, 16, 0, 17],
      let s := owned.setMailbox 1 ⟨valBytes 2 op ++ List.replicate 62 0, none, 0, [], true⟩
      s.boot = .done ∧ 1 = masterOf 0 ∧ (s.mailbox 1).entry.length = 64 ∧ le (fun i => (s.mailbox 1).entry.getD i 0) 2 = op) ∧
    (let s : State := { owned with mgmt := { owned.mgmt with handTo := 3, handEnd := 30000000 } }
     s.mgmt.handTo ≠ 0 ∧ s.time.toNat < s.mgmt.handEnd.toNat ∧ s.mgmt.handTo ≠ 1) ∧
    (¬ (owned.mgmt.handTo ≠ 0) ∧ ¬ (owned.mgmt.owner = 0 ∨ owned.mgmt.leaseEnd.toNat ≤ owned.time.toNat)) ∧
    (∀ op ∈ [7, 8, 12, 13], Started (owned.setMailbox 1 ⟨List.replicate 64 0, some op, 0, [], false⟩) 1 op) := by
  unfold Started; decide +kernel

/-! ### Queues and the invariant -/

theorem witness_QueueEntry_enters : (let s := typed ready 10 2
      s.hart.replay = none ∧ (¬ (31 : Reg).toNat + group (typed ready 0x2A 2) ≤ 32) ∧ (3 : Reg).toNat + group s ≤ s.hart.bounds.vregs ∧
      isInt (etype s) ∧ ¬ isInt (etype (typed ready 0 2)) ∧ (3 : Reg).toNat % group s = 0 ∧
      (3 : Reg).toNat % group (typed ready 0x2A 2) ≠ 0 ∧ vl s ≤ group s * perReg s (width s) ∧
      (let t := typed ready 10 65
       group t * perReg t (width t) < vl t)) ∧
    (∀ q ∈ [[entry], [{ entry with rhold := true }], List.replicate 32 entry],
      ({ ready with hart := { ready.hart with queue := q } } : State).hart.queue ≠ []) ∧
    (∃ e ∈ [{ entry with rhold := true }], e.rhold = true) ∧ (∀ e ∈ [entry], e.rhold = false) ∧
    [entry].countP (fun e => e.kind.stands .viq) < 32 ∧ 32 ≤ (List.replicate 32 entry).countP (fun e => e.kind.stands .viq) := by
  unfold isInt; decide +kernel

theorem witness_QueueEntry_runs : (let s : State := { ready with
        agenda := [.queue ready.hart.uid none], hart := { ready.hart with queue := [entry] } }
      s.agenda = .queue s.hart.uid none :: [] ∧ s.hart.inSlot = true ∧ s.hart.qwait = .none ∧ s.hart.queue = entry :: [] ∧
      entry.kind ≠ .vmq ∧ entry.rhold = false ∧ (decode entry.word).toOption = some (.vadd 3 1 (.vx 2) 0)) ∧
    (let s : State := { ready with hart := { ready.hart with replay := some entry } }
     s.hart.replay = some entry ∧ s.hart.holds = true ∧ s.hart.trouble = none ∧ s.hart.cut = none ∧ s.hart.csr.vstart = 0 ∧
     entry.vl ≠ 0 ∧ entry.kind = .viq ∧
     (let s' : State := { s with hart := { s.hart with csr := { s.hart.csr with vt := entry.vt, vl := entry.vl } } }
      isInt (etype s') ∧ (3 : Reg).toNat + group s' ≤ 32 ∧ s.hart.grant.lanes ≤ 64)) := by
  unfold isInt; decide +kernel

theorem witness_CanonicalKept : Canonical State.reset ∧ (match step State.reset with | .next t => decide (t.boot = .done) | _ => false) = true :=
  ⟨by unfold Canonical; decide +kernel, by decide +kernel⟩

end Sys2Proof.Tests
end

/-! ### Scalar division, bit counts, software traps and returns -/

namespace Sys2Proof.Machine

/-! What the scalar division and count functions give (R237, R238). -/

/-- The signed quotient rounds toward zero. -/
theorem divS_eq_tdiv (a b : Word) :
    divS a b = if b = 0 then 0xFFFFFFFFFFFFFFFF else BitVec.ofInt 64 (a.toInt.tdiv b.toInt) := by
  unfold divS
  split
  · rfl
  · apply BitVec.eq_of_toInt_eq
    rw [BitVec.toInt_sdiv, BitVec.toInt_ofInt]

theorem divU_eq_div (a b : Word) :
    divU a b = if b = 0 then 0xFFFFFFFFFFFFFFFF else BitVec.ofNat 64 (a.toNat / b.toNat) := by
  unfold divU
  split
  · rfl
  · rw [← BitVec.toNat_udiv, BitVec.ofNat_toNat, BitVec.setWidth_eq]

/-- The signed remainder takes the dividend's sign. -/
theorem remS_eq_tmod (a b : Word) :
    remS a b = if b = 0 then a else BitVec.ofInt 64 (a.toInt.tmod b.toInt) := by
  unfold remS
  rw [← BitVec.toInt_srem, BitVec.ofInt_toInt]

theorem remU_eq_mod (a b : Word) :
    remU a b = if b = 0 then a else BitVec.ofNat 64 (a.toNat % b.toNat) := by
  unfold remU
  rw [← BitVec.toNat_umod, BitVec.ofNat_toNat, BitVec.setWidth_eq]

/-- The quotient 2^63 that has no signed form wraps to the dividend (R238). -/
theorem divS_intMin_neg_one : divS 0x8000000000000000 0xFFFFFFFFFFFFFFFF = 0x8000000000000000 := by
  decide

theorem remS_intMin_neg_one : remS 0x8000000000000000 0xFFFFFFFFFFFFFFFF = 0 := by
  decide

theorem clz64_le (v : Word) : clz64 v ≤ 64 := by
  unfold clz64
  split <;> omega

/-- Above the leading zeros no bit is set. -/
theorem toNat_lt_of_clz64 (v : Word) : v.toNat < 2 ^ (64 - clz64 v) := by
  unfold clz64
  split
  case isTrue h => simp [h]
  case isFalse h =>
    have hv : v.toNat ≠ 0 := fun h0 => h (BitVec.eq_of_toNat_eq h0)
    have hlog : Nat.log2 v.toNat < 64 := (Nat.log2_lt hv).mpr v.isLt
    rw [show 64 - (63 - Nat.log2 v.toNat) = Nat.log2 v.toNat + 1 by omega]
    exact Nat.lt_log2_self

/-- Where not all bits are zero, the bit below the leading zeros is set. -/
theorem two_pow_le_of_clz64 (v : Word) (h : clz64 v < 64) : 2 ^ (63 - clz64 v) ≤ v.toNat := by
  unfold clz64 at h ⊢
  split at h
  case isTrue => exact absurd h (lt_irrefl 64)
  case isFalse hv =>
    have hv0 : v.toNat ≠ 0 := fun h0 => hv (BitVec.eq_of_toNat_eq h0)
    have hlog : Nat.log2 v.toNat < 64 := (Nat.log2_lt hv0).mpr v.isLt
    rw [if_neg hv, show 63 - (63 - Nat.log2 v.toNat) = Nat.log2 v.toNat by omega]
    exact Nat.log2_self_le hv0

/-- The count of trailing zeros is the number of the lowest set bit, or 64 where no bit is set. -/
theorem ctz64_cases (v : Word) :
    (ctz64 v < 64 ∧ v.getLsbD (ctz64 v) = true ∧ ∀ i < ctz64 v, v.getLsbD i = false) ∨
    (ctz64 v = 64 ∧ ∀ i < 64, v.getLsbD i = false) := by
  unfold ctz64
  cases hf : (List.range 64).find? fun i => v.getLsbD i with
  | some n =>
    obtain ⟨hset, hmem, hbelow⟩ := List.find?_range_eq_some.mp hf
    exact .inl ⟨List.mem_range.mp hmem, hset, fun i hi => by simpa using hbelow i hi⟩
  | none =>
    exact .inr ⟨rfl, fun i hi => by simpa using List.find?_range_eq_none.mp hf i hi⟩

theorem ctz64_le (v : Word) : ctz64 v ≤ 64 :=
  (ctz64_cases v).elim (fun h => h.1.le) fun h => h.1.le

/-- A word with its low n bits zero is a multiple of 2^n. -/
theorem toNat_mod_two_pow_of_low_zero (v : Word) (n : Nat) (h : ∀ i < n, v.getLsbD i = false) :
    v.toNat % 2 ^ n = 0 := by
  apply Nat.eq_of_testBit_eq
  intro i
  rw [Nat.testBit_mod_two_pow, Nat.zero_testBit]
  by_cases hi : i < n
  · have hz : v.toNat.testBit i = false := h i hi
    rw [hz, Bool.and_false]
  · rw [decide_eq_false hi, Bool.false_and]

theorem toNat_mod_two_pow_ctz64 (v : Word) : v.toNat % 2 ^ ctz64 v = 0 := by
  obtain ⟨-, -, h⟩ | ⟨hn, h⟩ := ctz64_cases v
  · exact toNat_mod_two_pow_of_low_zero v _ h
  · exact toNat_mod_two_pow_of_low_zero v _ fun i hi => h i (hi.trans_eq hn)

theorem getLsbD_ctz64 (v : Word) (h : ctz64 v < 64) : v.getLsbD (ctz64 v) = true := by
  obtain ⟨-, hset, -⟩ | ⟨hn, -⟩ := ctz64_cases v
  · exact hset
  · exact absurd hn h.ne

theorem popc64_eq_countP (v : Word) : popc64 v = (List.range 64).countP fun i => v.getLsbD i :=
  List.countP_eq_length_filter.symm

/-! The checks and the traps of the supervisor's instructions (R259, R261, R262). -/

/-- At the supervisor level the privilege check passes (R259). -/
theorem supervisor_eq_ok {s : State} (h : s.hart.trap.priv = true) (fn : BitVec 4) (a : Reg) :
    s.supervisor fn a = .ok () := by
  rw [State.supervisor, need, if_pos h]

/-- At the kernel level the privilege check raises 0x182 with the word (R259). -/
theorem supervisor_eq_error {s : State} (h : s.hart.trap.priv = false) (fn : BitVec 4) (a : Reg) :
    s.supervisor fn a = .error (.trap 0x182 (wordVal (packS 0x2B 0 a 0 fn))) := by
  rw [State.supervisor, need, if_neg (by rw [h]; exact Bool.false_ne_true)]

theorem execTret_supervisor {s : State} (h : s.hart.trap.priv = true) :
    execTret s = .next s.returnTrap.releaseEntries := by
  rw [execTret, supervisor_eq_ok h]; rfl

theorem execTret_kernel {s : State} (h : s.hart.trap.priv = false) :
    execTret s = commit s (.error (.trap 0x182 (wordVal (encode .tret)))) := by
  rw [execTret, supervisor_eq_error h]; rfl

/-- With an interrupt pending, wfi goes on (R262). -/
theorem execWfi_pending {s : State} (h : s.hart.trap.priv = true) (hp : s.hart.pendingIrq = true) :
    execWfi s = .next s.advance := by
  rw [execWfi, supervisor_eq_ok h, hp]; rfl

theorem execWfi_kernel {s : State} (h : s.hart.trap.priv = false) :
    execWfi s = commit s (.error (.trap 0x182 (wordVal (encode .wfi)))) := by
  rw [execWfi, supervisor_eq_error h]; rfl

theorem pendingIrq_iff (h : Hart) : h.pendingIrq = true ↔ h.irqSoft ≠ none ∨ h.irqMail ≠ none := by
  simp [Hart.pendingIrq, Option.isSome_iff_ne_none]

/-- A return frees every held entry of the queue (R428). -/
theorem rhold_of_mem_releaseEntries {s : State} {e : QEntry} (h : e ∈ s.releaseEntries.hart.queue) :
    e.rhold = false := by
  obtain ⟨_, -, rfl⟩ := List.mem_map.mp h
  rfl

/-- Only the causes of data in error are recorded before the trap (R431, R432). -/
theorem logConsumed_eq_self {c : Cause} (s : State) (v : Word) (hp : c ≠ 0x300) (he : c ≠ 0x304) :
    s.logConsumed c v = s := by
  rw [State.logConsumed, if_neg hp, if_neg he]

end Sys2Proof.Machine

namespace Sys2Proof.Claims

open Sys2Proof.Machine

/-- An instruction that writes a value and goes on gives that value and changes nothing else. -/
theorem GivesX.of_writeNext {i : Instr} {s : State} {d : Reg} {v : Word}
    (h : exec i s = writeNext d v s) : GivesX i s d v := by
  refine ⟨(s.setX d v).advance, h, fun r => x_setX s d r v, ?_, ?_, fun a => ?_⟩
  · rw [advance_pc, setX_hart_pc]
  · unfold State.setX
    split <;> rfl
  · rw [advance_mem, setX_mem]

theorem OnlyJumps.of_advance {i : Instr} {s : State} (h : exec i s = .next s.advance) :
    OnlyJumps i s (s.hart.pc + 4) :=
  ⟨s.advance, h, rfl, rfl, fun _ => rfl⟩

/-- Taking an exception sets the trap registers as R416 says. -/
theorem trapRegsTaken_takeTrap (s : State) (c : Cause) (v a : Word) (p : Bool) :
    TrapRegsTaken s (s.takeTrap c v a p) c v a := by
  refine ⟨rfl, rfl, tpc_value a, rfl, rfl, rfl, rfl, rfl, rfl, rfl, rfl, ?_⟩
  change s.hart.trap.entry c = _
  unfold TrapRegs.entry
  split
  · rfl
  · exact (BitVec.add_zero _).symm

/-- An instruction whose step is a trap entry, at the address that TPC is to hold. -/
theorem Traps.of_takeTrap {i : Instr} {s : State} {c : Cause} {v a : Word} {p : Bool}
    (h : exec i s = .next (s.takeTrap c v a p)) : Traps i s c v a :=
  ⟨s.takeTrap c v a p, h, trapRegsTaken_takeTrap s c v a p,
    ⟨fun _ => rfl, rfl, rfl, rfl, rfl, rfl, rfl, rfl⟩, fun _ _ => ⟨rfl, fun _ => rfl⟩⟩

/-- An instruction that stops with a precise trap leaves its own address in TPC. -/
theorem Traps.of_commit_error {i : Instr} {s : State} {c : Cause} {v : Word}
    (h : exec i s = commit s (.error (.trap c v))) (hp : c ≠ 0x300) (he : c ≠ 0x304) :
    Traps i s c v s.hart.pc := by
  refine Traps.of_takeTrap (p := s.hart.partial?) (h.trans ?_)
  rw [commit, State.halt, logConsumed_eq_self s v hp he]

/-- Settles O7: every division and count is one write of x[d], so each clause is the law of its function. -/
theorem divisionAndCounts : Obligations.DivisionAndCounts := by
  unfold Obligations.DivisionAndCounts
  refine ⟨fun s d a b => ⟨?div, ?divu, ?rem, ?remu, fun ha hb => ⟨?divCorner, ?remCorner⟩⟩,
    fun s d a => ⟨?clz, ?ctz, ?popc⟩⟩
  case div =>
    exact .of_writeNext (by rw [exec_div, execDiv, divS_eq_tdiv])
  case divu =>
    exact .of_writeNext (by rw [exec_divu, execDivu, divU_eq_div])
  case rem =>
    exact .of_writeNext (by rw [exec_rem, execRem, remS_eq_tmod])
  case remu =>
    exact .of_writeNext (by rw [exec_remu, execRemu, remU_eq_mod])
  case divCorner =>
    exact .of_writeNext (by rw [exec_div, execDiv, ha, hb, divS_intMin_neg_one])
  case remCorner =>
    exact .of_writeNext (by rw [exec_rem, execRem, ha, hb, remS_intMin_neg_one])
  case clz =>
    exact ⟨clz64 (s.x a), .of_writeNext (exec_clz d a s), clz64_le _, toNat_lt_of_clz64 _,
      two_pow_le_of_clz64 _⟩
  case ctz =>
    exact ⟨ctz64 (s.x a), .of_writeNext (exec_ctz d a s), ctz64_le _, toNat_mod_two_pow_ctz64 _,
      getLsbD_ctz64 _⟩
  case popc =>
    exact .of_writeNext (by rw [exec_popc, execPopc, popc64_eq_countP])

/-- Bits [31:26] of a word of syscall or break are reserved (R261). -/
theorem decode_syscall_break_reserved {w : IWord} (hop : w.toNat % 64 = 0x2B)
    (hfn : w.toNat / 64 % 16 = 4 ∨ w.toNat / 64 % 16 = 5) (hhi : w.toNat / 2 ^ 26 ≠ 0) :
    decode w = .error .reservedField := by
  have hmajor : major w = 0x2B := by
    rw [major, fld_toNat]; omega
  have hres : (fld w 26 6 == 0) = false := by
    refine beq_false_of_ne fun h0 => hhi ?_
    have h := congrArg BitVec.toNat h0
    rw [fld_toNat] at h
    have hlt := w.isLt
    simp only [BitVec.ofNat_eq_ofNat, BitVec.toNat_ofNat] at h
    omega
  have hcode : (fld w 6 4).toNat = w.toNat / 64 % 16 := fld_toNat w 6 4
  rw [decode_2b w hmajor, decodeSys, hcode]
  obtain hfn | hfn := hfn
  · rw [hfn, hres]; rfl
  · rw [hfn, hres]; rfl

/-- Settles O9: the two software traps enter the trap at PC + 4; the supervisor's instructions pass or fail their
privilege check before anything else. -/
theorem trapsAndReturn : Obligations.TrapsAndReturn := by
  unfold Obligations.TrapsAndReturn
  refine ⟨fun s n => ⟨?syscall, ?brk⟩, fun w hop hfn hhi => ?reserved, ?word,
    fun s => ⟨fun hp => ⟨?tret, fun hirq => ?wfi⟩, fun hk => ⟨?tretKernel, ?wfiKernel⟩⟩⟩
  case syscall => exact .of_takeTrap (exec_syscall n s)
  case brk => exact .of_takeTrap (exec_brk n s)
  case reserved => exact ⟨_, decode_syscall_break_reserved hop hfn hhi⟩
  case word => decide
  case tret =>
    exact ⟨s.returnTrap.releaseEntries, (exec_tret s).trans (execTret_supervisor hp), rfl, rfl, rfl,
      fun _ he => rhold_of_mem_releaseEntries he, rfl, fun _ => rfl⟩
  case wfi =>
    exact .of_advance ((exec_wfi s).trans (execWfi_pending hp ((pendingIrq_iff s.hart).mpr hirq)))
  case tretKernel =>
    exact .of_commit_error ((exec_tret s).trans (execTret_kernel hk)) (by decide) (by decide)
  case wfiKernel =>
    exact .of_commit_error ((exec_wfi s).trans (execWfi_kernel hk)) (by decide) (by decide)

end Sys2Proof.Claims

/-! ### Elementwise vector instructions, and the integer forms -/

namespace Sys2Proof.Machine

/-! What a write of elements marks, and what it leaves alone (R267, R375). -/

/-- A write of elements marks the registers that it writes elements of. -/
theorem dirtyv_putRegs (s : State) (field w : Nat) (cnt f : Nat → Nat) (n q : Nat) (h : field + n ≤ 32) :
    (s.putRegs field w cnt f n).hart.dirtyv.getLsbD q =
      (s.hart.dirtyv.getLsbD q || decide (field ≤ q ∧ q < field + n ∧ cnt (q - field) ≠ 0)) := by
  induction n with
  | zero =>
    rw [decide_eq_false (by omega), Bool.or_false]
    rfl
  | succ n ih =>
    have hmark : (s.putRegs field w cnt f (n + 1)).hart.dirtyv = if cnt n = 0
        then (s.putRegs field w cnt f n).hart.dirtyv
        else (s.putRegs field w cnt f n).hart.dirtyv ||| BitVec.ofNat 43 (2 ^ ((field + n) % 32)) := by
      by_cases hc : cnt n = 0
      · simp only [State.putRegs, if_pos hc]
      · simp only [State.putRegs, if_neg hc]
        rfl
    rw [hmark, Nat.mod_eq_of_lt (by omega : field + n < 32)]
    by_cases hq : q = field + n
    · subst hq
      have h43 : field + n < 43 := by omega
      split_ifs with hc
      · rw [ih (by omega)]
        simp [hc]
      · rw [BitVec.getLsbD_or, ih (by omega), BitVec.getLsbD_ofNat, Nat.testBit_two_pow_self]
        simp [hc, h43]
    · have hother : (BitVec.ofNat 43 (2 ^ (field + n))).getLsbD q = false := by
        rw [BitVec.getLsbD_ofNat, Nat.testBit_two_pow_of_ne (Ne.symm hq), Bool.and_false]
      have hin : (field ≤ q ∧ q < field + (n + 1) ∧ cnt (q - field) ≠ 0) ↔
          (field ≤ q ∧ q < field + n ∧ cnt (q - field) ≠ 0) := by omega
      simp only [hin, ← ih (by omega : field + n ≤ 32)]
      split_ifs
      · rfl
      · rw [BitVec.getLsbD_or, hother, Bool.or_false]

theorem dirtyv_putVec (s : State) (field g w P : Nat) (f : Nat → Nat) (q : Nat) (h : field + g ≤ 32) :
    (s.putVec field g w P f).hart.dirtyv.getLsbD q =
      (s.hart.dirtyv.getLsbD q || decide (field ≤ q ∧ q < field + g ∧
        min (P - (q - field) * s.hart.vlmax1 w) (s.hart.vlmax1 w) ≠ 0)) :=
  dirtyv_putRegs s field w _ f g q h

/-- A write of elements leaves the registers outside its group as they were. -/
theorem vreg_putVec_outside (s : State) (field g w P : Nat) (f : Nat → Nat) {q : Nat} (h : field + g ≤ 32)
    (hq : q < 32) (hout : ¬ (field ≤ q ∧ q < field + g)) : (s.putVec field g w P f).vreg q = s.vreg q := by
  have hfin : Fin.ofNat 32 q = ⟨q, hq⟩ := Fin.ext (Nat.mod_eq_of_lt hq)
  rw [State.vreg, State.vreg, hfin, putVec_get s field g w P f h q hq, if_neg hout]

/-! The sample count, and the checks at queue entry where they pass (R225, R233, R265, R424). -/

theorem sampled_viq (s : State) :
    s.sampled .viq = { s with hart := { s.hart with sample := s.hart.sample + 1 } } :=
  if_neg (by decide)

theorem boundV_eq_ok (s : State) : ∀ l : List (Nat × Nat), (∀ p ∈ l, p.1 + p.2 ≤ s.hart.bounds.vregs) →
    s.boundV l = .ok ()
  | [], _ => rfl
  | (f, n) :: l, h => by
    have hp : f + n ≤ s.hart.bounds.vregs := h (f, n) List.mem_cons_self
    rw [State.boundV, need, if_pos (by omega)]
    exact boundV_eq_ok s l fun p hm => h p (List.mem_cons_of_mem _ hm)

/-- An instruction whose spans are aligned and lie within the kernel's registers enters its queue, where its types
match and VL fits. -/
theorem vstd_eq_ok {s : State} {fields : List Nat} {extra : List (Nat × Nat)} {types : Bool}
    (hspans : ∀ p ∈ fields.map (fun f => (f, vtGroup s.hart.csr.vt)) ++ extra,
      p.1 % p.2 = 0 ∧ p.1 + p.2 ≤ s.hart.bounds.vregs)
    (htypes : types = true) (hvl : s.hart.csr.vl.toNat ≤ s.vlmaxNow) : s.vstd fields extra types = .ok () := by
  have haligned : spansAligned (fields.map (fun f => (f, vtGroup s.hart.csr.vt)) ++ extra) = true :=
    List.all_eq_true.mpr fun p hm => beq_iff_eq.mpr (hspans p hm).1
  have hbound := boundV_eq_ok s _ fun p hm => (hspans p hm).2
  simp only [State.vstd, State.vcheck, State.vlCheck, need, haligned, hbound, htypes, if_pos hvl, if_true]
  rfl

/-! The elementwise form of an instruction that nothing cuts (R268). -/

theorem stopAt_eq_qvl {s : State} (h : s.hart.cut = none) (U : Nat) : s.stopAt U = s.qvl := by
  rw [State.stopAt, h]

theorem lane_eq_self {s : State} (h : s.hart.trouble = none) (i v : Nat) : s.lane i v = v := by
  rw [State.lane, h]

theorem elementwise_of_le {s : State} (h : s.qvl ≤ s.vstart) (d : Reg) (w : Nat) (k : KReg) (f : Nat → Nat) :
    s.elementwise d w k f = .done (s.setVstart 0) := by
  rw [State.elementwise, if_pos h]

@[simp] theorem qvl_putVec (s : State) (field g w P : Nat) (f : Nat → Nat) :
    (s.putVec field g w P f).qvl = s.qvl := by
  rw [putVec_eq]
  rfl

theorem elementwise_of_lt {s : State} (h : s.vstart < s.qvl) (hc : s.hart.cut = none) (ht : s.hart.trouble = none)
    (d : Reg) (w : Nat) (k : KReg) (f : Nat → Nat) :
    s.elementwise d w k f = .done ((s.putVec d.toNat s.qg w s.qvl fun i =>
      if s.vstart ≤ i && i < s.qvl && s.active k i then f i else s.elem d.toNat w i).setVstart 0) := by
  simp only [State.elementwise, stopAt_eq_qvl hc, lane_eq_self ht, if_neg (Nat.not_le.mpr h), lt_irrefl, if_false]
  rw [State.finish, qvl_putVec, if_neg (lt_irrefl _)]

end Sys2Proof.Machine

namespace Sys2Proof.Claims

open Sys2Proof.Machine

theorem typeWidth_eq_elemBits (e : Nat) : typeWidth e = elemBits e := by
  by_cases h : e < 23
  · exact (by decide : ∀ e < 23, typeWidth e = elemBits e) e h
  · obtain ⟨n, rfl⟩ := Nat.exists_eq_add_of_le' (Nat.not_lt.mp h)
    rw [elemBits, if_neg h]
    show (if n + 23 < 23 then 8 else 0) = 0
    exact if_neg h

theorem vtType_eq_etype (s : State) : vtType s.hart.csr.vt = etype s := by
  rw [vtType, bits, pow_zero, Nat.div_one]
  rfl

theorem Issues.prompt {s : State} (h : Issues s) : s.hart.Prompt := by
  obtain ⟨hreplay, hqueue, hlag, htrouble, -, hlaned⟩ := h
  exact ⟨hreplay, hqueue, hlag, htrouble, hlaned⟩

/-- A group of registers that starts at a multiple of the grouping lies within the 32 registers. -/
theorem add_group_le_of_aligned (s : State) (d : Reg) (h : d.toNat % group s = 0) : d.toNat + group s ≤ 32 := by
  have hd := d.isLt
  have hk : s.hart.csr.vt.toNat / 32 % 4 < 4 := Nat.mod_lt _ (by decide)
  rw [group] at h ⊢
  generalize s.hart.csr.vt.toNat / 32 % 4 = k at h hk ⊢
  interval_cases k <;> omega

theorem srcSpan_eq_map (b : VSrc) (g : Nat) : srcSpan b g = (srcFields b).map fun f => (f, g) := by
  cases b <;> rfl

/-- The checks at queue entry pass where the register groups and VL fit. -/
theorem Fits.vstd_eq_ok {s : State} {fields srcs : List Nat} {types : Bool} (h : Fits s (fields ++ srcs))
    (htypes : types = true) : s.vstd fields (srcs.map fun f => (f, group s)) types = .ok () := by
  obtain ⟨-, hvl, hfields⟩ := h
  refine Machine.vstd_eq_ok (fun p hp => ?spans) htypes ?vl
  case spans =>
    rw [show vtGroup s.hart.csr.vt = group s from rfl, ← List.map_append] at hp
    obtain ⟨f, hf, rfl⟩ := List.mem_map.mp hp
    exact hfields f hf
  case vl =>
    rw [State.vlmaxNow, typeWidth_eq_elemBits, vtType_eq_etype]
    exact hvl

/-! What a write of elements gives (R267, R268, R375). -/

/-- The elements, the progress indices and the dirty marks of a group. -/
theorem written_putVec {s : State} {field g w P : Nat} {f : Nat → Nat} (hfield : field + g ≤ 32)
    (hlanes : s.hart.grant.lanes ≤ 64) (hP : P ≤ g * perReg s w) :
    Written s (s.putVec field g w P f) field g w P f := by
  refine ⟨fun e he _ => elem_putVec s field g w P f hfield hlanes hP e he, fun j hj =>
    ⟨pidx_putVec s field g w P f hfield j hj, fun hdirty => ?_⟩⟩
  have hlow : j * s.hart.vlmax1 w < P := hdirty
  have hpos : s.hart.vlmax1 w ≠ 0 := fun h0 => by
    rw [show perReg s w = s.hart.vlmax1 w from rfl, h0] at hP
    omega
  have hin : min (P - j * s.hart.vlmax1 w) (s.hart.vlmax1 w) ≠ 0 := by omega
  rw [dirtyv_putVec _ _ _ _ _ _ _ hfield, Nat.add_sub_cancel_left, decide_eq_true ⟨by omega, by omega, hin⟩,
    Bool.or_true]

theorem kept_putVec {s : State} {field g w P : Nat} {f : Nat → Nat} (hfield : field + g ≤ 32) :
    Kept s (s.putVec field g w P f) (within field g) := by
  refine ⟨fun q hq hout => vreg_putVec_outside s field g w P f hfield hq hout, fun n hout => ?_⟩
  have hmark : ¬ (field ≤ n ∧ n < field + g ∧ min (P - (n - field) * s.hart.vlmax1 w) (s.hart.vlmax1 w) ≠ 0) :=
    fun h => hout ⟨h.1, h.2.1⟩
  rw [dirtyv_putVec _ _ _ _ _ _ _ hfield, decide_eq_false hmark, Bool.or_false]

/-- An instruction whose step writes elements over its group, and sets VSTART to 0. -/
theorem VectorGives.of_putVec {i : Instr} {s : State} {field w P : Nat} {f : Nat → Nat}
    (h : exec i s = .next (((s.sampled .viq).putVec field (group s) w P f).setVstart 0).advance)
    (hfield : field + group s ≤ 32) (hlanes : s.hart.grant.lanes ≤ 64) (hP : P ≤ group s * perReg s w) :
    VectorGives i s field w P 0 f := by
  have hw : Written (s.sampled .viq) _ field (group s) w P f := written_putVec hfield hlanes hP
  have hk : Kept (s.sampled .viq) _ (within field (group s)) := kept_putVec (w := w) (P := P) (f := f) hfield
  refine ⟨_, h, ?ends, ?efr, hw, hk, ?frame⟩
  case ends =>
    rw [putVec_eq]
    exact ⟨rfl, BitVec.or_zero.symm, rfl⟩
  case efr =>
    rw [putVec_eq]
    rfl
  case frame =>
    rw [putVec_eq, sampled_viq]
    exact ⟨rfl, fun _ => rfl⟩

/-- An instruction whose step only sets VSTART to 0. -/
theorem VectorIdle.of_setVstart {i : Instr} {s : State}
    (h : exec i s = .next ((s.sampled .viq).setVstart 0).advance) : VectorIdle i s := by
  rw [sampled_viq] at h
  exact ⟨_, h, ⟨rfl, BitVec.or_zero.symm, rfl⟩, rfl, rfl, rfl, rfl, fun _ => rfl⟩

theorem flagsOver_zero (s : State) (k : KReg) : flagsOver s k (fun _ => 0) = 0 := by
  simp [flagsOver]

/-- Of the results that an instruction writes, only those of elements below P count. -/
theorem VectorGives.congr {i : Instr} {s : State} {field w P : Nat} {fl : BitVec 8} {f r : Nat → Nat}
    (h : VectorGives i s field w P fl f) (hr : ∀ e < P, f e = r e) : VectorGives i s field w P fl r := by
  obtain ⟨t, hexec, hends, hefr, ⟨helem, hmarks⟩, hframe⟩ := h
  exact ⟨t, hexec, hends, hefr, ⟨fun e he hm => hr e he ▸ helem e he hm, hmarks⟩, hframe⟩

/-! What a queued instruction that is not executed again reads: type state, VL and its operands as they are now. -/

theorem qvt_eq_vt {s : State} (h : s.hart.replay = none) : s.qvt = s.hart.csr.vt := by
  rw [State.qvt, h]

theorem qvl_eq_vl {s : State} (h : s.hart.replay = none) : s.qvl = vl s := by
  rw [State.qvl, h]
  rfl

theorem qg_eq_group {s : State} (h : s.hart.replay = none) : s.qg = group s := by
  rw [State.qg, qvt_eq_vt h]
  rfl

theorem qw_eq_width {s : State} (h : s.hart.replay = none) : s.qw = width s := by
  rw [State.qw, qvt_eq_vt h, typeWidth_eq_elemBits, vtType_eq_etype]
  rfl

theorem qop_eq_now {s : State} (h : s.hart.replay = none) (j : Nat) (now : Word) : s.qop j now = now := by
  rw [State.qop, h]

/-- An instruction that runs the elementwise form at once, its queues being empty, has its elementwise results. -/
theorem Elementwise.of_enter {i : Instr} {s : State} {word : IWord} {ops : List Word} {checks : Except Halt Unit}
    {run : State → Except Halt Ran} {d : Reg} {k : KReg} {r : Nat → Nat} {fields : List Nat}
    (hexec : exec i s = s.enter .viq word ops checks run) (hs : Issues s) (hchecks : checks = .ok ())
    (hrun : run (s.sampled .viq) = .ok ((s.sampled .viq).elementwise d (width s) k r))
    (hfits : Fits s (d.toNat :: fields)) : Elementwise i s d k (fun _ => 0) r := by
  have ⟨hreplay, _, _, htrouble, hcut, _⟩ := hs
  obtain ⟨hlanes, hvl, hfields⟩ := hfits
  have hgroup : d.toNat + group s ≤ 32 := add_group_le_of_aligned s d (hfields d.toNat List.mem_cons_self).1
  have hends {u : State} (h : (s.sampled .viq).elementwise d (width s) k r = .done u) :
      exec i s = .next u.advance :=
    hexec.trans (enter_done hs.prompt hchecks (hrun.trans (congrArg Except.ok h)))
  have hqvl : (s.sampled .viq).qvl = vl s := qvl_eq_vl hreplay
  refine ⟨fun hdone => ?idle, fun hactive => ?gives⟩
  case idle =>
    exact .of_setVstart (hends (elementwise_of_le (hqvl.trans_le hdone) d (width s) k r))
  case gives =>
    have hgives := hends (elementwise_of_lt (s := s.sampled .viq) (hactive.trans_eq hqvl.symm) hcut htrouble d
      (width s) k r)
    rw [hqvl, qg_eq_group (s := s.sampled .viq) hreplay] at hgives
    rw [flagsOver_zero]
    refine (VectorGives.of_putVec hgives hgroup hlanes hvl).congr fun e he => ?_
    simp only [he, decide_true, Bool.and_true, Bool.and_eq_true, decide_eq_true_eq]
    rfl

/-! The results of the integer forms (R276, R277). -/

theorem wrap_eq_low (w : Nat) (z : Int) : wrap w z = low w z := by
  rw [wrap, low, Nat.cast_pow, Nat.cast_ofNat]

theorem sval_eq_sgn {w x : Nat} (hx : x < 2 ^ w) : sval w x = sgn w true x := by
  simp only [sval, sgn, Nat.mod_eq_of_lt hx, Bool.true_and, decide_eq_true_eq, Nat.cast_pow, Nat.cast_ofNat]
  split_ifs <;> omega

theorem valW_eq_sgn {w x : Nat} (sg : Bool) (hx : x < 2 ^ w) : valW w sg x = sgn w sg x := by
  cases sg with
  | false => rfl
  | true => exact sval_eq_sgn hx

theorem clampW_eq_clampTo (w : Nat) (sg : Bool) (z : Int) : clampW w sg z = clampTo w sg z := by
  cases sg <;> simp [clampW, clampTo, wrap_eq_low]

theorem typeInt_of_isInt {s : State} (h : isInt (etype s)) : typeInt s.etype = true := by
  rw [State.etype, vtType_eq_etype]
  exact decide_eq_true h

/-- The integer types are signed up to i64. -/
theorem typeSigned_of_isInt {s : State} (h : isInt (etype s)) :
    typeSigned (vtType s.hart.csr.vt) = decide (etype s ≤ 11) := by
  rw [vtType_eq_etype, typeSigned, decide_eq_decide]
  exact and_iff_right h.1

/-- A vi constant of an integer type is its low bits (R271). -/
theorem viValue_of_isInt {e : Nat} (h : isInt e) (c : BitVec 5) : viValue e c = low (elemBits e) c.toInt := by
  have hfloat : typeFloat e = false := decide_eq_false (by have := h.1; omega)
  rw [viValue, hfloat, typeWidth_eq_elemBits, ← wrap_eq_low]
  rfl

theorem srcElem_eq_second {s : State} (hreplay : s.hart.replay = none) (h : isInt (etype s)) (b : VSrc) (e : Nat) :
    s.srcElem b (s.qop 0 (s.srcScalar b)) e = second s b e := by
  rw [qop_eq_now hreplay]
  cases b with
  | vi c =>
    rw [State.srcElem, qvt_eq_vt hreplay, vtType_eq_etype]
    exact viValue_of_isInt h c
  | vv r | vx r | vf r =>
    rw [State.srcElem, qw_eq_width hreplay]
    rfl

theorem low_lt (w : Nat) (z : Int) : low w z < 2 ^ w := by
  have hpos : (0 : Int) < 2 ^ w := by positivity
  have hmod := Int.emod_lt_of_pos z hpos
  rw [low, Int.toNat_lt (Int.emod_nonneg z hpos.ne')]
  exact_mod_cast hmod

theorem second_lt (s : State) (b : VSrc) (e : Nat) : second s b e < 2 ^ width s := by
  cases b with
  | vv r => exact elem_lt s r.toNat (width s) e
  | vx r => exact Nat.mod_lt _ (by positivity)
  | vi c => exact low_lt (width s) c.toInt
  | vf r => exact Nat.mod_lt _ (by positivity)

/-- The checks of an integer vector instruction (R226, R271). -/
theorem vintChecks_eq_ok {s : State} {d a : Reg} {b : VSrc} (h : isInt (etype s))
    (hfits : Fits s ([d.toNat, a.toNat] ++ srcFields b)) (hb : ∀ r, b ≠ .vf r) : s.vintChecks d a b = .ok () := by
  have hint : typeInt s.etype = true := typeInt_of_isInt h
  have hmatch : srcMatches b s.etype = true := by
    cases b with
    | vv r => rfl
    | vx r => exact hint
    | vi c => rfl
    | vf r => exact absurd rfl (hb r)
  rw [State.vintChecks, srcSpan_eq_map]
  exact hfits.vstd_eq_ok (by rw [hint, hmatch]; rfl)

/-- An integer instruction with its function of two elements gives that function's results, where the model applies a
function that agrees with it on the elements of the type. -/
theorem Elementwise.of_vint {m : Instr × (Nat → Nat → Nat)} {s : State} {word : IWord} {d a : Reg} {b : VSrc}
    {k : KReg} {f : Nat → Bool → Nat → Nat → Nat} (hs : Issues s) (hint : isInt (etype s))
    (hfits : Fits s ([d.toNat, a.toNat] ++ srcFields b)) (hb : ∀ r, b ≠ .vf r)
    (hexec : exec m.1 s = vint f word d a b k s)
    (hfm : ∀ x < 2 ^ width s, ∀ y < 2 ^ width s, f (width s) (decide (etype s ≤ 11)) x y = m.2 x y) :
    Elementwise m.1 s d k (fun _ => 0) fun e => m.2 (s.elem a.toNat (width s) e) (second s b e) := by
  have hreplay : (s.sampled .viq).hart.replay = none := hs.1
  refine .of_enter hexec hs (vintChecks_eq_ok hint hfits hb) (congrArg Except.ok ?_) hfits
  have hresult (e : Nat) := hfm _ (elem_lt s a.toNat (width s) e) _ (second_lt s b e)
  simp only [← hresult, qw_eq_width hreplay, qvt_eq_vt hreplay, srcElem_eq_second (s := s.sampled .viq) hreplay hint,
    typeSigned_of_isInt (s := s.sampled .viq) hint]
  rfl

theorem mulHighW_eq_low {w x y : Nat} (sg : Bool) (hx : x < 2 ^ w) (hy : y < 2 ^ w) :
    mulHighW w sg x y = low w (sgn w sg x * sgn w sg y / 2 ^ w) := by
  rw [mulHighW, wrap_eq_low, valW_eq_sgn sg hx, valW_eq_sgn sg hy, Nat.cast_pow, Nat.cast_ofNat]

theorem divW_eq_tdiv {w x y : Nat} (sg : Bool) (hx : x < 2 ^ w) (hy : y < 2 ^ w) :
    divW w sg x y = if y = 0 then 2 ^ w - 1 else low w ((sgn w sg x).tdiv (sgn w sg y)) := by
  rw [divW, wrap_eq_low, valW_eq_sgn sg hx, valW_eq_sgn sg hy]

theorem remW_eq_tmod {w x y : Nat} (sg : Bool) (hx : x < 2 ^ w) (hy : y < 2 ^ w) :
    remW w sg x y = if y = 0 then x else low w ((sgn w sg x).tmod (sgn w sg y)) := by
  rw [remW, wrap_eq_low, valW_eq_sgn sg hx, valW_eq_sgn sg hy]

theorem lessW_iff {w x y : Nat} (sg : Bool) (hx : x < 2 ^ w) (hy : y < 2 ^ w) :
    lessW w sg x y = true ↔ sgn w sg x < sgn w sg y := by
  rw [lessW, decide_eq_true_eq, valW_eq_sgn sg hx, valW_eq_sgn sg hy]

/-- The integer instructions of R276 with a second source. -/
theorem vints_elementwise {s : State} {d a : Reg} {b : VSrc} {k : KReg} (hs : Issues s) (hint : isInt (etype s))
    (hfits : Fits s ([d.toNat, a.toNat] ++ srcFields b)) (hb : ∀ r, b ≠ .vf r) :
    ∀ m ∈ vints d a b k (width s) (decide (etype s ≤ 11)), Elementwise m.1 s d k (fun _ => 0) fun e =>
      m.2 (s.elem a.toNat (width s) e) (second s b e) := by
  rw [vints]
  iterate 16 rw [List.forall_mem_cons]
  refine ⟨?vadd, ?vsub, ?vmul, ?vmulh, ?vdiv, ?vrem, ?vand, ?vor, ?vxor, ?vsll, ?vsrl, ?vsra, ?vmin, ?vmax, ?vsadd,
    ?vssub, List.forall_mem_nil _⟩
  case vadd => exact .of_vint hs hint hfits hb (exec_vadd d a b k s) fun _ _ _ _ => rfl
  case vsub => exact .of_vint hs hint hfits hb (exec_vsub d a b k s) fun _ _ _ _ => wrap_eq_low _ _
  case vmul => exact .of_vint hs hint hfits hb (exec_vmul d a b k s) fun _ _ _ _ => rfl
  case vmulh => exact .of_vint hs hint hfits hb (exec_vmulh d a b k s) fun _ hx _ hy => mulHighW_eq_low _ hx hy
  case vdiv => exact .of_vint hs hint hfits hb (exec_vdiv d a b k s) fun _ hx _ hy => divW_eq_tdiv _ hx hy
  case vrem => exact .of_vint hs hint hfits hb (exec_vrem d a b k s) fun _ hx _ hy => remW_eq_tmod _ hx hy
  case vand => exact .of_vint hs hint hfits hb (exec_vand d a b k s) fun _ _ _ _ => rfl
  case vor => exact .of_vint hs hint hfits hb (exec_vor d a b k s) fun _ _ _ _ => rfl
  case vxor => exact .of_vint hs hint hfits hb (exec_vxor d a b k s) fun _ _ _ _ => rfl
  case vsll => exact .of_vint hs hint hfits hb (exec_vsll d a b k s) fun _ _ _ _ => rfl
  case vsrl => exact .of_vint hs hint hfits hb (exec_vsrl d a b k s) fun _ _ _ _ => rfl
  case vsra =>
    refine .of_vint hs hint hfits hb (exec_vsra d a b k s) fun x hx y _ => ?_
    rw [wrap_eq_low, sval_eq_sgn hx, Nat.cast_pow, Nat.cast_ofNat]
  case vmin =>
    exact .of_vint hs hint hfits hb (exec_vmin d a b k s) fun _ hx _ hy => if_congr (lessW_iff _ hy hx) rfl rfl
  case vmax =>
    exact .of_vint hs hint hfits hb (exec_vmax d a b k s) fun _ hx _ hy => if_congr (lessW_iff _ hx hy) rfl rfl
  case vsadd =>
    refine .of_vint hs hint hfits hb (exec_vsadd d a b k s) fun x hx y hy => ?_
    rw [clampW_eq_clampTo, valW_eq_sgn _ hx, valW_eq_sgn _ hy]
  case vssub =>
    refine .of_vint hs hint hfits hb (exec_vssub d a b k s) fun x hx y hy => ?_
    rw [clampW_eq_clampTo, valW_eq_sgn _ hx, valW_eq_sgn _ hy]

/-- Every element is written: k only selects its source (R276). -/
theorem vmerge_elementwise {s : State} {d a : Reg} {b : VSrc} {k : KReg} (hs : Issues s) (hint : isInt (etype s))
    (hfits : Fits s ([d.toNat, a.toNat] ++ srcFields b)) (hb : ∀ r, b ≠ .vf r) :
    Elementwise (.vmerge d a b k) s d 0 (fun _ => 0) fun e =>
      if on s k e = true then second s b e else s.elem a.toNat (width s) e := by
  have hreplay : (s.sampled .viq).hart.replay = none := hs.1
  refine .of_enter (exec_vmerge d a b k s) hs (vintChecks_eq_ok hint hfits hb) (congrArg Except.ok ?_) hfits
  simp only [qw_eq_width hreplay, srcElem_eq_second (s := s.sampled .viq) hreplay hint]
  rfl

theorem vmv_elementwise {s : State} {d a : Reg} {k : KReg} (hs : Issues s) (hint : isInt (etype s))
    (hfits : Fits s [d.toNat, a.toNat]) :
    Elementwise (.vmv d a k) s d k (fun _ => 0) (s.elem a.toNat (width s)) := by
  have hreplay : (s.sampled .viq).hart.replay = none := hs.1
  refine .of_enter (exec_vmv d a k s) hs (Fits.vstd_eq_ok (srcs := []) hfits (typeInt_of_isInt hint))
    (congrArg Except.ok ?_) hfits
  simp only [qw_eq_width hreplay]
  rfl

/-- Settles O28: each instruction runs the elementwise form of the model at once, over a function that gives what
R276 and R277 say of elements below 2^w. -/
theorem vectorIntegerResults : Obligations.VectorIntegerResults := by
  unfold Obligations.VectorIntegerResults
  exact fun s d a b k hs hint => ⟨fun hfits hb => ⟨vints_elementwise hs hint hfits hb,
    vmerge_elementwise hs hint hfits hb⟩, vmv_elementwise hs hint⟩

end Sys2Proof.Claims

/-! ### Selection, draws and sampling -/

namespace Sys2Proof.Machine

/-! A write of more elements than a group of registers holds (R267). -/

theorem putRegs_congr (s : State) (field w : Nat) (f : Nat → Nat) {cnt cnt' : Nat → Nat} {n : Nat}
    (h : ∀ r < n, cnt r = cnt' r) : s.putRegs field w cnt f n = s.putRegs field w cnt' f n := by
  induction n with
  | zero => rfl
  | succ n ih => rw [State.putRegs, State.putRegs, ih fun r hr => h r (hr.trans n.lt_succ_self), h n n.lt_succ_self]

/-- A write of more elements than a group holds fills the group. -/
theorem putVec_eq_full (s : State) (field g w : Nat) (f : Nat → Nat) {P : Nat} (h : g * s.hart.vlmax1 w ≤ P) :
    s.putVec field g w P f = s.putVec field g w (g * s.hart.vlmax1 w) f := by
  refine congrArg State.bumpFree (putRegs_congr s field w f fun r hr => ?_)
  have hroom : (r + 1) * s.hart.vlmax1 w ≤ g * s.hart.vlmax1 w := Nat.mul_le_mul_right _ hr
  rw [Nat.succ_mul] at hroom
  omega

/-! The checks at queue entry, and the guard of the scratchpad (R333, R431). -/

/-- Outside the chain a VATT word is checked as other vector instructions are. -/
theorem vattChecks_eq_vstd (s : State) (fields types : List Nat) :
    s.vattChecks fields types false = s.vstd fields [] (types.contains s.etype) := by
  rw [State.vattChecks, State.vstd, List.append_nil]
  rfl

theorem offsetCheck_eq_ok {s : State} {o n : Nat} (halign : o % 4 = 0)
    (hbound : n = 0 ∨ o + n ≤ s.hart.bounds.scratch) : s.offsetCheck o n = .ok () := by
  rw [State.offsetCheck, need, need, if_pos halign, if_pos hbound]
  rfl

theorem scrGuard_eq_self {s : State} (h : s.hart.scrBad = []) (o n : Nat) (r : Except Halt Ran) :
    s.scrGuard o n r = r := by
  have hgood : ((scrWords o n).all fun w => !s.hart.scrBad.contains w) = true := by
    rw [h]
    exact List.all_eq_true.mpr fun _ _ => rfl
  have hread : s.scrRead o n = .ok (s.scrBytes o n) := by
    rw [State.scrRead, need, if_pos hgood]
    rfl
  rw [State.scrGuard, hread]

/-- At width 32 a whole instruction writes words. -/
theorem whole_eq_whole32 {s : State} (h : s.qw = 32) (d : Reg) (P : Nat) (f : Nat → Nat) :
    s.whole d P f = s.whole32 d P f := by
  rw [State.whole, h]
  rfl

theorem whole32_of_eq_zero {s : State} (h : s.qvl = 0) (d : Reg) (P : Nat) (f : Nat → Nat) :
    s.whole32 d P f = .done (s.setVstart 0) := by
  rw [State.whole32, if_pos h]

theorem whole32_of_ne_zero {s : State} (h : s.qvl ≠ 0) (ht : s.hart.trouble = none) (d : Reg) (P : Nat)
    (f : Nat → Nat) : s.whole32 d P f = .done ((s.putVec d.toNat s.qg 32 P f).setVstart 0) := by
  simp only [State.whole32, if_neg h, lane_eq_self ht]

end Sys2Proof.Machine

namespace Sys2Proof.Claims

open Sys2Proof.Machine

/-! Whole instructions that write words (R42, R269). -/

/-- What fills a group holds every element of it, of however many. -/
theorem Written.of_full {s t : State} {field g w P : Nat} {r : Nat → Nat}
    (h : Written s t field g w (g * perReg s w) r) (hpos : 0 < perReg s w) (hP : g * perReg s w ≤ P) :
    Written s t field g w P r := by
  obtain ⟨helem, hmarks⟩ := h
  refine ⟨fun e _ he => helem e he he, fun j hj => ?_⟩
  obtain ⟨hpidx, hdirty⟩ := hmarks j hj
  have hroom : (j + 1) * perReg s w ≤ g * perReg s w := Nat.mul_le_mul_right _ hj
  rw [Nat.succ_mul] at hroom
  have hfull : min (g * perReg s w - j * perReg s w) (perReg s w) = min (P - j * perReg s w) (perReg s w) := by omega
  exact ⟨hfull ▸ hpidx, fun _ => hdirty (by omega)⟩

/-- An instruction whose step writes elements over its group, as many as it may be. -/
theorem VectorGives.of_putVec_any {i : Instr} {s : State} {field w P : Nat} {f : Nat → Nat}
    (h : exec i s = .next (((s.sampled .viq).putVec field (group s) w P f).setVstart 0).advance)
    (hfield : field + group s ≤ 32) (hlanes : s.hart.grant.lanes ≤ 64) (hpos : 0 < perReg s w) :
    VectorGives i s field w P 0 f := by
  rcases Nat.le_total P (group s * perReg s w) with hP | hP
  · exact .of_putVec h hfield hlanes hP
  · rw [putVec_eq_full (s.sampled .viq) field (group s) w f hP] at h
    obtain ⟨t, hexec, hends, hefr, hwritten, hframe⟩ := VectorGives.of_putVec h hfield hlanes le_rfl
    exact ⟨t, hexec, hends, hefr, hwritten.of_full hpos hP, hframe⟩

/-- A grant that holds an element holds a word. -/
theorem perReg_word_pos {s : State} (hvl : vl s ≤ group s * perReg s (width s)) (h : vl s ≠ 0) :
    0 < perReg s 32 := by
  by_contra hzero
  have hnone : s.hart.grant.lanes * min 16 s.hart.brim = 0 := by
    rw [perReg] at hzero
    omega
  rw [perReg, hnone, Nat.zero_mul, Nat.zero_div, Nat.mul_zero] at hvl
  exact h (Nat.le_zero.mp hvl)

theorem Issues.sampled_replay {s : State} (h : Issues s) : (s.sampled .viq).hart.replay = none :=
  h.prompt.replay

/-- An instruction that writes words as a whole at once, its queues being empty. -/
theorem Whole.of_enter {i : Instr} {s : State} {word : IWord} {ops : List Word} {checks : Except Halt Unit}
    {run : State → Except Halt Ran} {d : Reg} {P : Nat} {r : Nat → Nat} {fields : List Nat}
    (hexec : exec i s = s.enter .viq word ops checks run) (hs : Issues s) (hfits : Fits s (d.toNat :: fields))
    (hchecks : checks = .ok ()) (hrun : run (s.sampled .viq) = .ok ((s.sampled .viq).whole32 d P r)) :
    Whole i s d 32 P 0 r := by
  have ⟨hreplay, _, _, htrouble, _, _⟩ := hs
  obtain ⟨hlanes, hvl, hfields⟩ := hfits
  have hends {u : State} (h : (s.sampled .viq).whole32 d P r = .done u) : exec i s = .next u.advance :=
    hexec.trans (enter_done hs.prompt hchecks (hrun.trans (congrArg Except.ok h)))
  have hqvl : (s.sampled .viq).qvl = vl s := qvl_eq_vl hreplay
  refine ⟨fun hzero => ?idle, fun hsome => ?gives⟩
  case idle =>
    exact .of_setVstart (hends (whole32_of_eq_zero (hqvl.trans hzero) d P r))
  case gives =>
    have hgives := hends (whole32_of_ne_zero (hqvl.trans_ne hsome) htrouble d P r)
    rw [qg_eq_group (s := s.sampled .viq) hreplay] at hgives
    exact .of_putVec_any hgives (add_group_le_of_aligned s d (hfields d.toNat List.mem_cons_self).1) hlanes
      (perReg_word_pos hvl hsome)

/-- The checks of a VATT word outside the chain pass where its register groups and VL fit, and its type is allowed. -/
theorem Fits.vattChecks_eq_ok {s : State} {fields types : List Nat} (h : Fits s fields)
    (htype : types.contains (etype s) = true) : s.vattChecks fields types false = .ok () := by
  rw [vattChecks_eq_vstd]
  refine Fits.vstd_eq_ok (srcs := []) (by rwa [List.append_nil]) ?_
  rwa [State.etype, vtType_eq_etype]

theorem contains_of_le_one {n : Nat} (h : n ≤ 1) : [0, 1].contains n = true := by
  interval_cases n <;> rfl

theorem width_of_f32 {s : State} (h : etype s = 0) : width s = 32 := by
  rw [width, h]
  rfl

/-! The order of elements by rank (R340). -/

/-- A finite number is a quotient by a divisor other than 0. -/
def Divided : Machine.Num → Prop
  | .nan _ => True
  | .inf _ => True
  | .fin _ _ _ d => d ≠ 0

theorem divided_decode (f : FFmt) (c : Nat) : Divided (f.decode c) := by
  simp only [FFmt.decode]
  split_ifs <;> simp [Divided]

/-- A signed and shifted numerator over a common divisor, as `Machine.Num.cmp` forms them. -/
theorem cast_shl_eq_ratOf_mul (neg : Bool) (n d d' : Nat) {e m : Int} (hd : d ≠ 0) (hm : m ≤ e) :
    (((if neg then -(shl (n * d') (e - m) : Int) else (shl (n * d') (e - m) : Int)) : Int) : ℚ) =
      ratOf (.fin neg n e d) * (d * d' * 2 ^ (-m)) := by
  have hd' : (d : ℚ) ≠ 0 := Nat.cast_ne_zero.mpr hd
  have hpow : ((2 ^ (e - m).toNat : Nat) : ℚ) = 2 ^ e * 2 ^ (-m) := by
    rw [← zpow_add₀ two_ne_zero, ← sub_eq_add_neg, Nat.cast_pow, Nat.cast_ofNat, ← zpow_natCast,
      Int.toNat_of_nonneg (by omega)]
  have hshl : ((shl (n * d') (e - m) : Nat) : ℚ) = n * 2 ^ e / d * (d * d' * 2 ^ (-m)) := by
    rw [shl, Nat.cast_mul, hpow, Nat.cast_mul]
    field_simp
  cases neg <;> simp [ratOf, ← hshl, -zpow_neg]

theorem cmp_fin_eq_gt_iff {sa sb : Bool} {na nb da db : Nat} {ea eb : Int} (ha : da ≠ 0) (hb : db ≠ 0) :
    (Num.fin sa na ea da).cmp (.fin sb nb eb db) = .gt ↔ ratOf (.fin sb nb eb db) < ratOf (.fin sa na ea da) := by
  have hpos : (0 : ℚ) < da * db * 2 ^ (-min ea eb) := by positivity
  have hx := cast_shl_eq_ratOf_mul sa na da db ha (min_le_left ea eb)
  have hy := cast_shl_eq_ratOf_mul sb nb db da hb (min_le_right ea eb)
  rw [mul_comm (db : ℚ) da] at hy
  simp only [Machine.Num.cmp]
  rw [compare_gt_iff_gt, ← Int.cast_lt (R := ℚ), hx, hy, mul_lt_mul_iff_left₀ hpos]

/-- Where a number stands: NaN below −∞, and −0 with +0 (R340). -/
noncomputable def place : Machine.Num → WithBot EReal
  | .nan _ => ⊥
  | .inf neg => ((if neg then ⊥ else ⊤ : EReal) : WithBot EReal)
  | .fin neg n e d => (((ratOf (.fin neg n e d) : ℝ) : EReal) : WithBot EReal)

/-- Ranking above is standing above. -/
theorem ranksAbove_iff {x y : Machine.Num} (hx : Divided x) (hy : Divided y) :
    ranksAbove x y = true ↔ place y < place x := by
  match x, y, hx, hy with
  | .nan _, _, _, _ => simp [ranksAbove, Num.isNan, place]
  | .inf a, .nan _, _, _ => simp [ranksAbove, Num.isNan, place]
  | .fin .., .nan _, _, _ => simp [ranksAbove, Num.isNan, place]
  | .inf a, .inf b, _, _ =>
    cases a <;> cases b <;> simp [ranksAbove, Num.isNan, place, Machine.Num.cmp, -WithBot.coe_top]
  | .inf a, .fin .., _, _ => cases a <;> simp [ranksAbove, Num.isNan, place, Machine.Num.cmp, -WithBot.coe_top]
  | .fin .., .inf b, _, _ => cases b <;> simp [ranksAbove, Num.isNan, place, Machine.Num.cmp, -WithBot.coe_top]
  | .fin sa na ea da, .fin sb nb eb db, hx, hy =>
    have hcmp := cmp_fin_eq_gt_iff (sa := sa) (na := na) (ea := ea) (sb := sb) (nb := nb) (eb := eb) hx hy
    simp [ranksAbove, Num.isNan, place, hcmp]

/-- Where an element stands in the order by rank: by descending value, then by its index. -/
noncomputable def standing (s : State) (a : Reg) (e : Nat) : (WithBot EReal)ᵒᵈ ×ₗ Nat :=
  toLex (OrderDual.toDual (place (numAt s a e)), e)

theorem standing_injective (s : State) (a : Reg) : Function.Injective (standing s a) := fun _ _ h =>
  congrArg (fun p => (ofLex p).2) h

theorem ranksAbove_numAt_iff (s : State) (a : Reg) (i j : Nat) :
    ranksAbove (numAt s a i) (numAt s a j) = true ↔ place (numAt s a j) < place (numAt s a i) :=
  ranksAbove_iff (divided_decode _ _) (divided_decode _ _)

/-- What stands above in value, or not below and at a lower index, stands first. -/
theorem standing_lt_iff (s : State) (a : Reg) (j i : Nat) : standing s a j < standing s a i ↔
    ranksAbove (numAt s a j) (numAt s a i) = true ∨ (ranksAbove (numAt s a i) (numAt s a j) = false ∧ j < i) := by
  rw [← Bool.not_eq_true, ranksAbove_numAt_iff, ranksAbove_numAt_iff, standing, standing, Prod.Lex.toLex_lt_toLex]
  constructor
  · rintro (h | ⟨h, hlt⟩)
    · exact .inl h
    · exact .inr ⟨(OrderDual.toDual.injective h).not_lt, hlt⟩
  · rintro (h | ⟨h, hlt⟩)
    · exact .inl h
    · rcases (not_lt.mp h).lt_or_eq with h | h
      · exact .inl h
      · exact .inr ⟨congrArg OrderDual.toDual h.symm, hlt⟩

theorem before_iff (s : State) (a : Reg) (j i : Nat) : before s a j i = true ↔ standing s a j < standing s a i := by
  have hgt (x y : Machine.Num) : (!x.isNan && (y.isNan || x.cmp y == .gt)) = ranksAbove x y := by
    rw [ranksAbove]
    cases x.isNan <;> cases y.isNan <;> rfl
  simp only [standing_lt_iff, before, hgt, Bool.or_eq_true, Bool.and_eq_true, Bool.not_eq_true', decide_eq_true_eq]

/-! Elements in the order of rank (R340). -/

theorem wideNum_eq_numAt {s : State} (h : s.hart.replay = none) (r : Reg) (e : Nat) :
    s.wideNum r e = numAt s r e := by
  rw [State.wideNum, qvt_eq_vt h, vtType_eq_etype, qw_eq_width h]
  rfl

/-- An element put after those that p holds of, from the first on, is inserted in order where p says of each that it
stands first. -/
theorem takeWhile_cons_drop_eq_orderedInsert {α : Type} {r : α → α → Prop} [DecidableRel r] {p : α → Bool} {i : α}
    {z : List α} (h : ∀ j ∈ z, p j = decide ¬ r i j) :
    z.takeWhile p ++ i :: z.drop (z.takeWhile p).length = z.orderedInsert r i := by
  induction z with
  | nil => rfl
  | cons b z ih =>
    have hb := h b List.mem_cons_self
    have ih := ih fun j hj => h j (List.mem_cons_of_mem b hj)
    by_cases hr : r i b
    · simp [hb, hr]
    · simpa [hb, hr] using ih

/-- An element of a higher index stands after those that it does not rank above. -/
theorem not_ranksAbove_eq_standing {s : State} (h : s.hart.replay = none) (a : Reg) {i j : Nat} (hji : j < i) :
    (!ranksAbove (s.wideNum a i) (s.wideNum a j)) = decide ¬ standing s a i ≤ standing s a j := by
  have hne : standing s a i ≠ standing s a j := (standing_injective s a).ne hji.ne'
  have hle : standing s a i ≤ standing s a j ↔ ranksAbove (numAt s a i) (numAt s a j) = true := by
    rw [hne.le_iff_lt, standing_lt_iff]
    simp [hji.not_gt]
  simp [wideNum_eq_numAt h, hle]

/-- Ascending element numbers are ranked by insertion. -/
theorem ranked_eq_insertionSort {s : State} (h : s.hart.replay = none) (a : Reg) {l : List Nat}
    (hl : l.Pairwise (· < ·)) :
    s.ranked a l = l.reverse.insertionSort fun i j => standing s a i ≤ standing s a j := by
  induction l using List.reverseRecOn with
  | nil => rfl
  | append_singleton l i ih =>
    obtain ⟨hl, -, hlt⟩ := List.pairwise_append.mp hl
    have hahead : ∀ j ∈ s.ranked a l, (!ranksAbove (s.wideNum a i) (s.wideNum a j)) =
        decide ¬ standing s a i ≤ standing s a j := fun j hj => by
      rw [ih hl, List.mem_insertionSort, List.mem_reverse] at hj
      exact not_ranksAbove_eq_standing h a (hlt j hj i List.mem_cons_self)
    rw [List.reverse_append, List.reverse_singleton, List.singleton_append, List.insertionSort_cons, ← ih hl,
      ← takeWhile_cons_drop_eq_orderedInsert hahead, State.ranked, List.foldl_append]
    rfl

theorem ranked_perm {s : State} (h : s.hart.replay = none) (a : Reg) {l : List Nat} (hl : l.Pairwise (· < ·)) :
    (s.ranked a l).Perm l := by
  rw [ranked_eq_insertionSort h a hl]
  exact (List.perm_insertionSort _ _).trans l.reverse_perm

theorem ranked_pairwise {s : State} (h : s.hart.replay = none) (a : Reg) {l : List Nat} (hl : l.Pairwise (· < ·)) :
    (s.ranked a l).Pairwise fun i j => standing s a i < standing s a j := by
  have hnodup : (s.ranked a l).Nodup := (ranked_perm h a hl).nodup_iff.mpr hl.nodup
  have hle : (s.ranked a l).Pairwise fun i j => standing s a i ≤ standing s a j := by
    have : Std.Total fun i j => standing s a i ≤ standing s a j := ⟨fun _ _ => le_total _ _⟩
    have : IsTrans Nat fun i j => standing s a i ≤ standing s a j := ⟨fun _ _ _ => le_trans⟩
    rw [ranked_eq_insertionSort h a hl]
    exact List.pairwise_insertionSort _ _
  exact hle.imp₂ (fun _ _ hle hne => hle.lt_of_ne ((standing_injective s a).ne hne)) hnodup

/-- The element of rank n stands at n. -/
theorem ranked_getElem? {s : State} (h : s.hart.replay = none) (a : Reg) {l : List Nat} (hl : l.Pairwise (· < ·))
    {e : Nat} (he : e ∈ l) : (s.ranked a l)[rankIn s a l e]? = some e := by
  have hperm := ranked_perm h a hl
  obtain ⟨p, q, hpq⟩ := List.append_of_mem (hperm.mem_iff.mpr he)
  have hsorted := ranked_pairwise h a hl
  rw [hpq, List.pairwise_append, List.pairwise_cons] at hsorted
  obtain ⟨-, ⟨hafter, -⟩, hbefore⟩ := hsorted
  have hp : p.countP (before s a · e) = p.length := List.countP_eq_length.mpr fun j hj =>
    (before_iff s a j e).mpr (hbefore j hj e List.mem_cons_self)
  have hq : (e :: q).countP (before s a · e) = 0 := List.countP_eq_zero.mpr fun j hj hj' => by
    rw [before_iff] at hj'
    rcases List.mem_cons.mp hj with rfl | hj
    · exact lt_irrefl _ hj'
    · exact lt_asymm hj' (hafter j hj)
  rw [rankIn, ← hperm.countP_eq, hpq, List.countP_append, hp, hq]
  simp

/-- Past the elements there is no index. -/
theorem ranked_getD_of_length_le {s : State} (h : s.hart.replay = none) (a : Reg) {l : List Nat}
    (hl : l.Pairwise (· < ·)) {n : Nat} (hn : l.length ≤ n) : (s.ranked a l).getD n noIndex = noIndex :=
  List.getD_eq_default _ _ ((ranked_perm h a hl).length_eq.trans_le hn)

/-! The elements that an instruction ranks, and their segments (R340, R342, R343). -/

theorem candidates_pairwise (s : State) (k : KReg) (lo n : Nat) : (candidates s k lo n).Pairwise (· < ·) :=
  List.pairwise_lt_range.filter _

theorem activeList_eq_candidates (s : State) (k : KReg) : s.activeList k (vl s) = candidates s k 0 (vl s) := by
  refine List.filter_congr fun e he => ?_
  have he : e < vl s := List.mem_range.mp he
  simp [State.active, on, he]

theorem segLength_eq_segLen {s : State} (h : s.hart.replay = none) : segLength s.qvt (vl s) = segLen s := by
  rw [qvt_eq_vt h]
  rfl

theorem segLen_pos (s : State) : 0 < segLen s := by
  rw [segLen]
  split_ifs
  · exact Nat.one_pos.trans_le (le_max_left _ _)
  · exact Nat.two_pow_pos _

/-- The active elements of a segment are its candidates. -/
theorem filter_segElems_eq_candidates (s : State) (k : KReg) (L g : Nat) :
    ((segElems L (vl s) g).filter fun e => s.active k e) = candidates s k (g * L) L := by
  have hascending : (segElems L (vl s) g).Pairwise (· < ·) :=
    List.Pairwise.map _ (fun _ _ h => Nat.add_lt_add_left h _) List.pairwise_lt_range
  refine List.Pairwise.eq_of_mem_iff (hascending.filter _) (candidates_pairwise s k _ _) fun e => ?_
  have hrange : (∃ n < min L (vl s - g * L), g * L + n = e) ↔ e < vl s ∧ g * L ≤ e ∧ e < g * L + L :=
    ⟨fun ⟨n, hn, he⟩ => by omega, fun h => ⟨e - g * L, by omega⟩⟩
  simp only [segElems, candidates, List.mem_filter, List.mem_map, List.mem_range, Bool.and_eq_true, decide_eq_true_eq,
    hrange, and_assoc]
  rfl

/-- A segment has an element. -/
theorem segment_length_pos {s : State} {g : Nat} (h : g < (vl s + segLen s - 1) / segLen s) :
    0 < min (segLen s) (vl s - g * segLen s) := by
  have hL := segLen_pos s
  have hg : (g + 1) * segLen s ≤ vl s + segLen s - 1 := (Nat.le_div_iff_mul_le hL).mp h
  rw [Nat.succ_mul] at hg
  omega

/-! The index that a segment draws (R342). -/

theorem weight_eq_weightAt {s : State} (h : s.hart.replay = none) (a : Reg) (k : KReg) (e : Nat) :
    s.weight a k e = weightAt s a k e := by
  rw [State.weight, weightAt, wideNum_eq_numAt h]
  simp [State.active, on, and_assoc]

/-- The running sum before element n of a segment. -/
def runBefore (w : Nat → Nat) : Nat → Nat
  | 0 => 0
  | n + 1 => runTo w n

theorem runTo_eq_add32 (w : Nat → Nat) (n : Nat) : runTo w n = add32 (runBefore w n) (w n) := by
  cases n <;> rfl

/-- The walk over a segment from element n on, with what each element is. -/
theorem runningSums_eq_map (w : Nat → Nat) (lo m n : Nat) :
    runningSums w n (runBefore (fun e => w (lo + e)) n) ((List.range' n m).map (lo + ·)) =
      (List.range' n m).map fun e => (e, w (lo + e), runTo (fun e => w (lo + e)) e) := by
  induction m generalizing n with
  | zero => rfl
  | succ m ih =>
    have hsum : add32 (runBefore (fun e => w (lo + e)) n) (w (lo + n)) = runTo (fun e => w (lo + e)) n :=
      (runTo_eq_add32 _ n).symm
    rw [List.range'_succ, List.map_cons, List.map_cons, runningSums, ← ih (n + 1)]
    simp only [hsum]
    rfl

theorem runningSums_segment (w : Nat → Nat) (lo m : Nat) :
    runningSums w 0 0 ((List.range m).map (lo + ·)) =
      (List.range m).map fun e => (e, w (lo + e), runTo (fun e => w (lo + e)) e) := by
  rw [List.range_eq_range']
  exact runningSums_eq_map w lo m 0

/-- Whether an element has a weight and its running sum passes a threshold. -/
def passes (w : Nat → Nat) (t e : Nat) : Bool := w e != 0 && above32 (runTo w e) t

/-- Over the elements of a segment with their weights and sums: the first that passes, or the last with a weight. -/
theorem sampleSeg_eq (w : Nat → Nat) (u : Machine.Num) (n : Nat) :
    sampleSeg ((List.range (n + 1)).map fun e => (e, w e, runTo w e)) u =
      if (fp32.decode (runTo w n)).isZero = true then noIndex
      else ((List.range (n + 1)).find? (passes w (mul32 (uniform u) (runTo w n)))).getD
        ((((List.range (n + 1)).filter fun e => w e != 0).getLast?).getD noIndex) := by
  have hlast : (((List.range (n + 1)).map fun e => (e, w e, runTo w e)).getLast?.map fun p => p.2.2).getD 0 =
      runTo w n := by
    rw [List.range_succ]
    simp
  rw [sampleSeg, hlast]
  refine if_congr Iff.rfl rfl ?_
  simp only [List.find?_map, List.filter_map, List.getLast?_map, Option.map_map]
  have hpass : ((fun p : Nat × Nat × Nat => p.2.1 != 0 && above32 p.2.2 (mul32 (uniform u) (runTo w n))) ∘
      fun e => (e, w e, runTo w e)) = passes w (mul32 (uniform u) (runTo w n)) := rfl
  rw [hpass]
  cases (List.range (n + 1)).find? (passes w (mul32 (uniform u) (runTo w n))) with
  | some e => rfl
  | none => exact congrArg (Option.getD · noIndex) Option.map_id_apply

/-- The last of ascending numbers is their greatest. -/
theorem getLast?_greatest {l : List Nat} (hl : l.Pairwise (· < ·)) {r : Nat} (hr : l.getLast? = some r) :
    r ∈ l ∧ ∀ e ∈ l, e ≤ r := by
  obtain ⟨l, rfl⟩ := List.getLast?_eq_some_iff.mp hr
  obtain ⟨-, -, hlt⟩ := List.pairwise_append.mp hl
  refine ⟨List.mem_append_right l List.mem_cons_self, fun e he => ?_⟩
  rcases List.mem_append.mp he with he | he
  · exact (hlt e he r List.mem_cons_self).le
  · exact (List.mem_singleton.mp he).le

/-- A segment of weights draws as the walk says. -/
theorem drawn_sampleSeg (w : Nat → Nat) (u : Machine.Num) (n : Nat) :
    Drawn w (n + 1) u (sampleSeg ((List.range (n + 1)).map fun e => (e, w e, runTo w e)) u) := by
  have hhit (e : Nat) : passes w (mul32 (uniform u) (runTo w n)) e = true ↔
      w e ≠ 0 ∧ greater (runTo w e) (mul32 (uniform u) (runTo w n)) = true := by
    rw [passes, Bool.and_eq_true, bne_iff_ne, greater]
  rw [sampleSeg_eq, Drawn, Nat.add_sub_cancel]
  simp only [← hhit]
  by_cases hzero : (fp32.decode (runTo w n)).isZero = true
  · rw [if_pos hzero, if_pos hzero]
    rfl
  · rw [if_neg hzero, if_neg hzero]
    generalize passes w (mul32 (uniform u) (runTo w n)) = p
    cases hfind : (List.range (n + 1)).find? p with
    | some r =>
      obtain ⟨hpass, hr, hleast⟩ := List.find?_range_eq_some.mp hfind
      refine .inl ⟨⟨List.mem_range.mp hr, hpass⟩, fun e ⟨_, he⟩ => Nat.not_lt.mp fun hlt => ?_⟩
      simpa [he] using hleast e hlt
    | none =>
      refine .inr ⟨fun e ⟨he, hpass⟩ => by simpa [hpass] using List.find?_range_eq_none.mp hfind e he, ?_⟩
      cases hlast : ((List.range (n + 1)).filter fun e => w e != 0).getLast? with
      | some r =>
        obtain ⟨hr, hgreatest⟩ := getLast?_greatest (List.pairwise_lt_range.filter _) hlast
        simp only [List.mem_filter, List.mem_range, bne_iff_ne] at hr hgreatest
        exact .inl ⟨hr.1, hr.2, fun e he hw => hgreatest e ⟨he, hw⟩⟩
      | none =>
        rw [List.getLast?_eq_none_iff, List.filter_eq_nil_iff] at hlast
        exact .inr ⟨fun e he => by simpa using hlast e (List.mem_range.mpr he), rfl⟩

/-! The bound of a block (R339). -/

theorem scrWord_eq_scrWordAt (s : State) (o : Nat) : s.scrWord o = scrWordAt s o :=
  bytesVal_map (fun i => s.scrByte (o + i)) 4 (le fun i => s.scrByte (o + i)) rfl fun _ => rfl

/-- The bound of a block whose rows start at an offset: the larger products of the query's elements, summed exactly and
rounded once. -/
def boundFrom (s : State) (a : Reg) (lo : Nat) : Nat :=
  let word (n : Nat) : Machine.Num := fp32.decode (scrWordAt s (lo + 4 * n))
  sum32 ((List.range (vl s)).map fun e =>
    let x := ((fp32.decode (s.elem a.toNat 32 e)).mul (word e)).1
    let y := ((fp32.decode (s.elem a.toNat 32 e)).mul (word (vl s + e))).1
    if x.isNan = true ∨ y.isNan = true then .nan false else if x.cmp y = .lt then y else x)

theorem blockBound_eq_boundFrom {s : State} (h : s.hart.replay = none) (a : Reg) (o j : Nat) :
    s.blockBound a o j = boundFrom s a (o + 8 * vl s * j) := by
  simp only [State.blockBound, boundFrom, maxNum, qvl_eq_vl h, scrWord_eq_scrWordAt, Bool.or_eq_true]

theorem boundChecks_eq_ok {s : State} {d a : Reg} {v : Word} (hfits : Fits s [d.toNat, a.toNat]) (htype : etype s = 0)
    (hzero : v.toNat / 2 ^ 48 = 0) (hone : 1 ≤ boundCount v) (hmax : boundCount v ≤ 1024)
    (hgrant : boundCount v ≤ group s * perReg s 32)
    (hoffset : OffsetFits s (v.toNat % 2 ^ 32) (8 * vl s * boundCount v)) : s.boundChecks d a v = .ok () := by
  obtain ⟨halign, hbound, -⟩ := hoffset
  have hcontrol : bits v.toNat 48 16 = 0 ∧ 1 ≤ boundCount v ∧ boundCount v ≤ 1024 ∧
      boundCount v ≤ s.hart.vlmax (vtGroup s.hart.csr.vt) 32 := ⟨by rw [bits, hzero]; rfl, hone, hmax, hgrant⟩
  have hoffsetOk : s.offsetCheck (bits v.toNat 0 32) (8 * s.hart.csr.vl.toNat * boundCount v) = .ok () := by
    rw [bits, pow_zero, Nat.div_one]
    exact offsetCheck_eq_ok halign hbound
  simp only [State.boundChecks, hfits.vattChecks_eq_ok (types := [0]) (by rw [htype]; rfl), need, if_pos hcontrol,
    hoffsetOk]
  rfl

theorem qw_of_f32 {s : State} (h : s.hart.replay = none) (htype : etype s = 0) : s.qw = 32 :=
  (qw_eq_width h).trans (width_of_f32 htype)

theorem vbound_whole {s : State} {d a b : Reg} {k : KReg} (hs : Issues s) (hfits : Fits s [d.toNat, a.toNat])
    (htype : etype s = 0) (hchecks : s.boundChecks d a (s.x b) = .ok ()) (hgood : s.hart.scrBad = []) :
    Whole (.vbound d a b k) s d 32 (boundCount (s.x b)) 0 fun j =>
      if on s k j = true then boundFrom s a ((s.x b).toNat % 2 ^ 32 + 8 * vl s * j) else negInf := by
  have ht := hs.sampled_replay
  refine .of_enter (exec_vbound d a b k s) hs hfits hchecks ?_
  simp only [scrGuard_eq_self (s := s.sampled .viq) hgood, whole_eq_whole32 (qw_of_f32 ht htype), qop_eq_now ht,
    blockBound_eq_boundFrom ht, bits, pow_zero, Nat.div_one]
  rfl

/-! The K first by rank, and the first of each segment (R340, R343). -/

theorem vtopk_whole {s : State} {d a b : Reg} {k : KReg} (hs : Issues s) (hfits : Fits s [d.toNat, a.toNat])
    (htype : etype s ≤ 1) (hone : 1 ≤ (s.x b).toNat) (hmax : (s.x b).toNat ≤ 64) :
    Whole (.vtopk d a b k) s d 32 (s.x b).toNat 0 fun n => (s.ranked a (candidates s k 0 (vl s))).getD n noIndex := by
  have ht := hs.sampled_replay
  refine .of_enter (exec_vtopk d a b k s) hs hfits ?checks (congrArg Except.ok ?run)
  case checks =>
    simp only [hfits.vattChecks_eq_ok (contains_of_le_one htype), need, if_pos (And.intro hone hmax)]
    rfl
  case run =>
    simp only [qop_eq_now ht, qvl_eq_vl ht, activeList_eq_candidates]
    rfl

/-- The first of some element numbers as an index from one on. -/
theorem head_index_eq (l : List Nat) (lo : Nat) :
    (match l.head? with
      | some i => i - lo
      | none => noIndex) = (l[0]?.map (· - lo)).getD noIndex := by
  cases l with
  | nil => rfl
  | cons i l => rfl

theorem vargmax_whole {s : State} {d a : Reg} {k : KReg} (hs : Issues s) (hfits : Fits s [d.toNat, a.toNat])
    (htype : etype s ≤ 1) :
    Whole (.vargmax d a k) s d 32 ((vl s + segLen s - 1) / segLen s) 0 fun g =>
      ((s.ranked a (candidates s k (g * segLen s) (segLen s)))[0]?.map (· - g * segLen s)).getD noIndex := by
  have ht := hs.sampled_replay
  refine .of_enter (exec_vargmax d a k s) hs hfits (hfits.vattChecks_eq_ok (contains_of_le_one htype))
    (congrArg Except.ok ?_)
  simp only [qvl_eq_vl ht, segLength_eq_segLen ht, filter_segElems_eq_candidates]
  exact congrArg (State.whole32 (s.sampled .viq) d _) (funext fun g => head_index_eq _ _)

/-! Draws (R341, R342), and leading drafts (R344). -/

theorem drawOf_mod (key : Word) (S P D i : Nat) : drawOf key S (P % 2 ^ 32) D i = drawOf key S P D i := by
  rw [drawOf, drawOf, Nat.mod_add_mod]

theorem vrand_whole {s : State} {d xa b : Reg} {k : KReg} (hs : Issues s) (hfits : Fits s [d.toNat])
    (htype : etype s = 0) : Whole (.vrand d xa b k) s d 32 (vl s) 0 fun e =>
      if on s k e = true then
        drawOf s.hart.seed ((s.x xa).toNat % 2 ^ 32) ((s.x xa).toNat / 2 ^ 32) ((s.x b).toNat % 2 ^ 32) e
      else s.elem d.toNat 32 e := by
  have ht := hs.sampled_replay
  refine .of_enter (exec_vrand d xa b k s) hs hfits (hfits.vattChecks_eq_ok (by rw [htype]; rfl))
    (congrArg Except.ok ?_)
  rw [whole_eq_whole32 (qw_of_f32 ht htype)]
  simp only [qop_eq_now ht, qvl_eq_vl ht, bits, pow_zero, Nat.div_one, drawOf_mod]
  rfl

theorem vsamp_whole {s : State} {d a b : Reg} {k : KReg} (hs : Issues s)
    (hfits : Fits s [d.toNat, a.toNat, b.toNat]) (htype : etype s ≤ 1) :
    Whole (.vsamp d a b k) s d 32 ((vl s + segLen s - 1) / segLen s) 0 fun g =>
      sampleSeg (runningSums (weightAt s a k) 0 0 (segElems (segLen s) (vl s) g)) (numAt s b g) := by
  have ht := hs.sampled_replay
  refine .of_enter (exec_vsamp d a b k s) hs hfits (hfits.vattChecks_eq_ok (contains_of_le_one htype))
    (congrArg Except.ok ?_)
  have hweight : (s.sampled .viq).weight a k = weightAt s a k := funext (weight_eq_weightAt ht a k)
  simp only [hweight, qvl_eq_vl ht, segLength_eq_segLen ht, wideNum_eq_numAt ht]
  rfl

/-- How many of the first n numbers stand before the first of which p does not hold. -/
theorem leading_length_spec (p : Nat → Bool) (n : Nat) :
    ((List.range n).takeWhile p).length ≤ n ∧ (∀ e < ((List.range n).takeWhile p).length, p e = true) ∧
      (((List.range n).takeWhile p).length < n → p ((List.range n).takeWhile p).length = false) := by
  have hle : (List.range n).findIdx (fun e => !p e) ≤ n := List.findIdx_le_length.trans_eq List.length_range
  have hlength : ((List.range n).takeWhile p).length = (List.range n).findIdx fun e => !p e := by
    rw [List.takeWhile_eq_take_findIdx_not, List.length_take, List.length_range, Nat.min_eq_left hle]
  rw [hlength]
  refine ⟨hle, fun e he => ?_, fun hlt => ?_⟩
  · simpa using List.not_of_lt_findIdx he
  · simpa using List.findIdx_getElem (w := hlt.trans_eq List.length_range.symm)

theorem vspeck_whole {s : State} {d a b : Reg} {k : KReg} (hs : Issues s)
    (hfits : Fits s [d.toNat, a.toNat, b.toNat]) (htype : etype s = 0) :
    Whole (.vspeck d a b k) s d 32 1 0 fun _ =>
      ((List.range (vl s)).takeWhile fun e => s.active k e && s.accepted d a b e).length := by
  have ht := hs.sampled_replay
  refine .of_enter (exec_vspeck d a b k s) hs hfits (hfits.vattChecks_eq_ok (by rw [htype]; rfl))
    (congrArg Except.ok ?_)
  simp only [qvl_eq_vl ht]
  rfl

theorem accepted_iff (s : State) (d a b : Reg) (k : KReg) (e : Nat) :
    (s.active k e && s.accepted d a b e) = true ↔ on s k e = true ∧
      (((fp32.decode (s.elem d.toNat 32 e)).mul (fp32.decode (s.elem b.toNat 32 e))).1.isNan = false ∧
        (fp32.decode (s.elem a.toNat 32 e)).isNan = false ∧
        ((fp32.decode (s.elem d.toNat 32 e)).mul (fp32.decode (s.elem b.toNat 32 e))).1.cmp
          (fp32.decode (s.elem a.toNat 32 e)) ≠ .gt) := by
  simp only [State.accepted, Bool.and_eq_true, Bool.not_eq_true', bne_iff_ne, and_assoc]
  rfl

/-- Settles O35: each instruction writes words as a whole. Ranking is insertion into the order of `standing`, so the
element of rank n stands at n; the walk over a segment gives its running sums, and the first that passes is drawn. -/
theorem selectionAndSampling : Obligations.SelectionAndSampling := by
  unfold Obligations.SelectionAndSampling
  refine fun s d a b xa k hs => ⟨?vbound, ?vtopk, ?vrand, ?vsamp, ?vargmax, ?vspeck⟩
  case vbound =>
    intro hfits htype v o B hzero hone hmax hgrant hoffset
    have ⟨_, _, hgood⟩ := hoffset
    exact vbound_whole hs hfits htype (boundChecks_eq_ok hfits htype hzero hone hmax hgrant hoffset) hgood
  case vtopk =>
    intro hfits htype hone hmax
    have hsorted := candidates_pairwise s k 0 (vl s)
    refine ⟨_, vtopk_whole hs hfits htype hone hmax, fun e he _ => ?_, fun n hn _ => ?_⟩
    · exact congrArg (Option.getD · noIndex) (ranked_getElem? hs.prompt.replay a hsorted he)
    · exact ranked_getD_of_length_le hs.prompt.replay a hsorted hn
  case vrand =>
    exact vrand_whole hs
  case vsamp =>
    intro hfits htype
    refine ⟨_, vsamp_whole hs hfits htype, fun g hg => ?_⟩
    obtain ⟨m, hm⟩ := Nat.exists_eq_succ_of_ne_zero (segment_length_pos hg).ne'
    rw [segElems, runningSums_segment, hm]
    exact drawn_sampleSeg _ _ m
  case vargmax =>
    intro hfits htype
    have hsorted (g : Nat) := candidates_pairwise s k (g * segLen s) (segLen s)
    refine ⟨_, vargmax_whole hs hfits htype, fun g _ => ⟨fun hnone => ?_, fun e he hfirst => ?_⟩⟩
    · rw [hnone]
      rfl
    · rw [← hfirst, ranked_getElem? hs.prompt.replay a (hsorted g) he]
      rfl
  case vspeck =>
    intro hfits htype
    obtain ⟨hle, hleading, hnext⟩ := leading_length_spec (fun e => s.active k e && s.accepted d a b e) (vl s)
    refine ⟨_, hle, fun e he => (accepted_iff s d a b k e).mp (hleading e he), fun hlt hok => ?_,
      vspeck_whole hs hfits htype⟩
    exact Bool.false_ne_true ((hnext hlt).symm.trans ((accepted_iff s d a b k _).mpr hok))

end Sys2Proof.Claims
